-- ==== Sys2Proof/Word.lean ====
section
/-! DEFINITION. Word types and the finite map of plain data that the state is built from. -/
namespace Sys2Proof

/-- A byte of memory (R5). -/
abbrev Byte := BitVec 8

/-- A 32-bit register word (R240). -/
abbrev Word := BitVec 32

/-- A 64-bit value: a handle address, a PC, a register pair (R8, R168). -/
abbrev DWord := BitVec 64

/-- A finite map from numbers to plain data: pairs in no fixed order, the first pair of a key counts. -/
abbrev NMap (α : Type) := List (Nat × α)

/-- The value listed for key `k`, if any. -/
def NMap.look {α : Type} : NMap α → Nat → Option α
  | [], _ => none
  | (j, a) :: m, k => if j == k then some a else NMap.look m k

/-- The value listed for key `k`, or `d`. -/
def NMap.get {α : Type} (d : α) (m : NMap α) (k : Nat) : α := (m.look k).getD d

/-- Remove key `k`. -/
def NMap.del {α : Type} : NMap α → Nat → NMap α
  | [], _ => []
  | (j, a) :: m, k => if j == k then NMap.del m k else (j, a) :: NMap.del m k

/-- Bind key `k` to `a`: in place where the key is listed, else at the end. -/
def NMap.set {α : Type} : NMap α → Nat → α → NMap α
  | [], k, a => [(k, a)]
  | (j, b) :: m, k, a => if j == k then (k, a) :: m else (j, b) :: NMap.set m k a

/-- The keys listed. -/
def NMap.keys {α : Type} (m : NMap α) : List Nat := m.map Prod.fst

/-- The values listed. -/
def NMap.vals {α : Type} (m : NMap α) : List α := m.map Prod.snd

/-- Apply `f` to the value at `k`, when there is one. -/
def NMap.upd {α : Type} (m : NMap α) (k : Nat) (f : α → α) : NMap α :=
  match m.look k with
  | some a => m.set k (f a)
  | none => m

end Sys2Proof
end

