-- ==== Sys2Proof/Config.lean ====
section
/-! DEFINITION. What the spec leaves open: free values with no body, so that nothing can depend on what they are.
Each is applied to the operands it depends on, or to State.freeCount for a fresh value each time (log entry 11). -/
namespace Sys2Proof.Config

/-- The step, in units of the last place, by which a transcendental result may differ from the correctly rounded one:
a fixed function of the function code, the format, the rounding mode and the operand (R253). The model clamps it. -/
opaque nudge : Nat → Nat → Nat → Nat → Int

/-- Which recalled U partial arrives next at the home, as an index into those outstanding (R85). -/
opaque arrival : Nat → Nat

/-- Whether a discarded group's store that is not yet visible at .dev is performed (R164). -/
opaque performed : Nat → Bool

/-- Whether the 16 bytes of an aborted collective's RECV hold what a step wrote (R395). -/
opaque stepWrote : Nat → Bool

/-- Whether a port's bridge forwards an address downstream after so many configuration writes, and its window is populated there (R466):
the bridge's configuration is outside the spec (log entry 95). -/
opaque forwards : Nat → Nat → Nat → Bool

/-- What a load from the interrupt window returns: the spec gives the window no readable contents (R385, R386). -/
opaque windowRead : Nat → Nat

/-- The home slice of a line, and the slice and set of an L2 line: where their selection shows, in the limits of R92 and R100 (log
entry 67). -/
opaque homeSlice : Nat → Nat
opaque l2Set : Nat → Nat

/-- The keystream of a line of sealed storage (R121): AES-256 in counter mode under a slot's key, by slot and generation, over the counter
block of the line's address, the frame's major and the line's minor counter, and the pool epoch (log entry 91). -/
opaque keystream (slot gen line major minor epoch : Nat) : BitVec 1024

/-- The length in ns a peer module asks for with a lease request (R92, log entry 48). -/
opaque peerLease : Nat → Nat

/-- The operand code TVAL names for a uniform register above s15, which has none (R75, R217, R400). -/
opaque uniformTval : Nat → Nat

/-- The operand code TVAL names for a mask register whose parity does not match: masks have no operand code (R66, R75). -/
opaque maskTval : Nat → Nat

/-- Which soft error strikes a core next, if any, and where (R66, R73, R76, R358): see Machine.State.strike. -/
opaque strikes : Nat → Nat

/-- Which burst of a stack its on-die ECC cannot correct next, if any, and whether the repair from its parity group fails too (R106): see
Machine.State.burst and log entry 92. -/
opaque bursts : Nat → Nat

/-- The sectors of an L2 line that the footprint predictor selects at its next miss (R81): the part's own (log entry 7). -/
opaque sectors : Nat → BitVec 32

/-- Whether ZCAP0's bit for an RDMA NIC (9) or a CXL expander (7) is set once a root port's link is up (R336). -/
opaque portCaps : Nat → Bool

/-- The 16-byte pieces of the record of a workgroup saved at a time: its layout and check value are the part's (R206, R340). -/
opaque record : Nat → Nat → Nat → Nat

/-- A detail of a completed command's record that the spec states for other outcomes only: the slice that stopped a copy that
nothing stopped, the culprit of a collective that nobody aborted (R371). -/
opaque detail : Nat → Nat

/-- The 32 bytes of a PC sample with a name, a PC, a reason, a HOLDER and a GTB: R444 gives what it holds, not where. -/
opaque sample : Nat → Nat → Nat → Nat → Nat → Nat

end Sys2Proof.Config
end

