-- ==== Sys2Proof/Syntax.lean ====
section
/-! DEFINITION. The instructions and events of Zhelith 1.0: one constructor for each row of spec/opcode_table.json.
The fields of an encoded instruction are its encoding fields, most significant first; an event names what it concerns by number. -/
namespace Sys2Proof

/-- One constructor for each row of the opcode table, in the table's order.
Rows 0 to 229 are 32-bit words (R214, R232); rows 230 to 349 are events of the part, of its supervisor and of outside agents. -/
inductive Instr where
  /-- IADD (R267): Per-thread integer add, wrapping or clamped to the signed range under SAT. -/
  | iadd (w : BitVec 2) (d : BitVec 7) (a : BitVec 7) (b : BitVec 7)
  /-- ISUB (R267): Per-thread integer subtract, wrapping or clamped to the signed range under SAT. -/
  | isub (w : BitVec 2) (d : BitVec 7) (a : BitVec 7) (b : BitVec 7)
  /-- IADDS (R267): Per-thread add clamped to the unsigned range. -/
  | iadds (w : BitVec 2) (d : BitVec 7) (a : BitVec 7) (b : BitVec 7)
  /-- ISUBS (R267): Per-thread subtract clamped to the unsigned range. -/
  | isubs (w : BitVec 2) (d : BitVec 7) (a : BitVec 7) (b : BitVec 7)
  /-- IMUL (R267): Per-thread multiply, low bits or clamped under SAT. -/
  | imul (w : BitVec 2) (d : BitVec 7) (a : BitVec 7) (b : BitVec 7)
  /-- IMULH_I32 (R267): High 32 bits of the signed 64-bit product. -/
  | imulhI32 (w : BitVec 2) (d : BitVec 7) (a : BitVec 7) (b : BitVec 7)
  /-- IMULH_N32 (R267): High 32 bits of the unsigned 64-bit product. -/
  | imulhN32 (w : BitVec 2) (d : BitVec 7) (a : BitVec 7) (b : BitVec 7)
  /-- IMAD (R268): Multiply-add a × b + d formed exactly, then wrapped or clamped once. -/
  | imad (w : BitVec 2) (d : BitVec 7) (a : BitVec 7) (b : BitVec 7)
  /-- IDIV (R269): Quotient truncated toward zero, with defined results for division by zero and overflow. -/
  | idiv (w : BitVec 2) (d : BitVec 7) (a : BitVec 7) (b : BitVec 7) (s : BitVec 1)
  /-- IREM (R269): Remainder with the dividend's sign; division by zero gives a. -/
  | irem (w : BitVec 2) (d : BitVec 7) (a : BitVec 7) (b : BitVec 7) (s : BitVec 1)
  /-- IMIN (R267): Smaller of a and b, compared signed or unsigned. -/
  | imin (w : BitVec 2) (d : BitVec 7) (a : BitVec 7) (b : BitVec 7) (s : BitVec 1)
  /-- IMAX (R267): Larger of a and b, compared signed or unsigned. -/
  | imax (w : BitVec 2) (d : BitVec 7) (a : BitVec 7) (b : BitVec 7) (s : BitVec 1)
  /-- AND (R267): Bitwise and of a and b. -/
  | andR (w : BitVec 2) (d : BitVec 7) (a : BitVec 7) (b : BitVec 7)
  /-- OR (R267): Bitwise or of a and b. -/
  | orR (w : BitVec 2) (d : BitVec 7) (a : BitVec 7) (b : BitVec 7)
  /-- XOR (R267): Bitwise xor of a and b. -/
  | xorR (w : BitVec 2) (d : BitVec 7) (a : BitVec 7) (b : BitVec 7)
  /-- ANDN (R267): Bitwise a and not b. -/
  | andn (w : BitVec 2) (d : BitVec 7) (a : BitVec 7) (b : BitVec 7)
  /-- SHL (R270): Shift left by the count in b, filling with zeros. -/
  | shl (w : BitVec 2) (d : BitVec 7) (a : BitVec 7) (b : BitVec 7)
  /-- SHR (R270): Logical shift right by the count in b. -/
  | shr (w : BitVec 2) (d : BitVec 7) (a : BitVec 7) (b : BitVec 7)
  /-- SAR (R270): Arithmetic shift right by the count in b. -/
  | sar (w : BitVec 2) (d : BitVec 7) (a : BitVec 7) (b : BitVec 7)
  /-- ROTL (R270): Rotate left by the count in b. -/
  | rotl (w : BitVec 2) (d : BitVec 7) (a : BitVec 7) (b : BitVec 7)
  /-- POPC (R271): Count of one bits of each element. -/
  | popc (w : BitVec 2) (d : BitVec 7) (a : BitVec 7)
  /-- CLZ (R271): Count of leading zero bits. -/
  | clz (w : BitVec 2) (d : BitVec 7) (a : BitVec 7)
  /-- CTZ (R271): Count of trailing zero bits. -/
  | ctz (w : BitVec 2) (d : BitVec 7) (a : BitVec 7)
  /-- BREV (R271): Bit order of each element reversed. -/
  | brev (w : BitVec 2) (d : BitVec 7) (a : BitVec 7)
  /-- BFX (R272): Extract a bit field of a, zero- or sign-extended. -/
  | bfx (w : BitVec 2) (d : BitVec 7) (a : BitVec 7) (b : BitVec 7) (s : BitVec 1)
  /-- BFI (R272): Insert low bits of a into a field of d. -/
  | bfi (w : BitVec 2) (d : BitVec 7) (a : BitVec 7) (b : BitVec 7)
  /-- BYTSEL (R272): Form each result byte from the a:b byte pool by selectors in d. -/
  | bytsel (w : BitVec 2) (d : BitVec 7) (a : BitVec 7) (b : BitVec 7)
  /-- ICMP (R273): Integer compare writing or combining one mask bit per active thread. -/
  | icmp (w : BitVec 2) (c : BitVec 3) (m : BitVec 4) (a : BitVec 7) (b : BitVec 7) (o : BitVec 2)
  /-- SEL (R274): Select a or b per element by a test of the fourth operand. -/
  | sel (w : BitVec 2) (d : BitVec 7) (a : BitVec 7) (b : BitVec 7) (t : BitVec 2)
  /-- IABS (R267): Absolute value, minimum wrapping or saturating. -/
  | iabs (w : BitVec 2) (d : BitVec 7) (a : BitVec 7)
  /-- INEG (R267): Negation, minimum wrapping or saturating. -/
  | ineg (w : BitVec 2) (d : BitVec 7) (a : BitVec 7)
  /-- MOV (R267): Copy of a, which may broadcast a uniform value. -/
  | mov (w : BitVec 2) (d : BitVec 7) (a : BitVec 7)
  /-- NOT (R267): Bitwise complement of a. -/
  | notR (w : BitVec 2) (d : BitVec 7) (a : BitVec 7)
  /-- DP4 (R275): Adds to d the four byte products of a and b. -/
  | dp4 (w : BitVec 2) (d : BitVec 7) (a : BitVec 7) (b : BitVec 7) (s : BitVec 1)
  /-- DP2 (R275): Adds to d the two halfword products of a and b. -/
  | dp2 (w : BitVec 2) (d : BitVec 7) (a : BitVec 7) (b : BitVec 7) (s : BitVec 1)
  /-- LEA (R276): Adds a 64-bit offset to a handle, faulting BUFBOUND on a buffer-index change. -/
  | lea (d : BitVec 7) (a : BitVec 7) (b : BitVec 7)
  /-- LEAS (R276): Adds a scaled signed 32-bit offset to a handle, faulting BUFBOUND on an index change. -/
  | leas (d : BitVec 7) (a : BitVec 7) (b : BitVec 7) (s : BitVec 2)
  /-- IADDI (R277): Add a sign-extended immediate. -/
  | iaddi (d : BitVec 7) (a : BitVec 7) (i : BitVec 9)
  /-- ANDI (R277): Bitwise and with an immediate. -/
  | andi (d : BitVec 7) (a : BitVec 7) (i : BitVec 9)
  /-- ORI (R277): Bitwise or with an immediate. -/
  | ori (d : BitVec 7) (a : BitVec 7) (i : BitVec 9)
  /-- XORI (R277): Bitwise xor with an immediate. -/
  | xori (d : BitVec 7) (a : BitVec 7) (i : BitVec 9)
  /-- SHLI (R277): Shift left by an immediate count. -/
  | shli (d : BitVec 7) (a : BitVec 7) (i : BitVec 9)
  /-- SHRI (R277): Logical shift right by an immediate count. -/
  | shri (d : BitVec 7) (a : BitVec 7) (i : BitVec 9)
  /-- SARI (R277): Arithmetic shift right by an immediate count. -/
  | sari (d : BitVec 7) (a : BitVec 7) (i : BitVec 9)
  /-- ROTLI (R277): Rotate left by an immediate count. -/
  | rotli (d : BitVec 7) (a : BitVec 7) (i : BitVec 9)
  /-- MOVI (R277): Move an immediate into each active thread's register. -/
  | movi (d : BitVec 7) (i : BitVec 9)
  /-- IMULI (R277): Multiply by an immediate, low 32 bits or saturated. -/
  | imuli (d : BitVec 7) (a : BitVec 7) (i : BitVec 9)
  /-- ICMPI (R277): Compare with an immediate into a mask bit. -/
  | icmpi (o : BitVec 2) (c : BitVec 3) (m : BitVec 4) (a : BitVec 7) (i : BitVec 9)
  /-- IMINI (R277): Minimum with an immediate, signed or unsigned. -/
  | imini (s : BitVec 1) (d : BitVec 7) (a : BitVec 7) (i : BitVec 9)
  /-- IMAXI (R277): Maximum with an immediate, signed or unsigned. -/
  | imaxi (s : BitVec 1) (d : BitVec 7) (a : BitVec 7) (i : BitVec 9)
  /-- LXCH (R279): Moves registers of a between lanes of the issuing entry by a lane selector. -/
  | lxch (w : BitVec 2) (d : BitVec 7) (a : BitVec 7) (b : BitVec 7) (v : BitVec 2)
  /-- BALLOT (R278): Mask of active threads whose a is nonzero. -/
  | ballot (w : BitVec 2) (d : BitVec 7) (a : BitVec 7)
  /-- LANES_ALL (R278): 1 when every active thread has a nonzero. -/
  | lanesAll (w : BitVec 2) (d : BitVec 7) (a : BitVec 7)
  /-- LANES_ANY (R278): 1 when some active thread has a nonzero. -/
  | lanesAny (w : BitVec 2) (d : BitVec 7) (a : BitVec 7)
  /-- PEERS (R278): Mask of active threads whose a equals the thread's own. -/
  | peers (w : BitVec 2) (d : BitVec 7) (a : BitVec 7)
  /-- RANK (R280): Count of set bits of a below the thread's lane. -/
  | rank (d : BitVec 7) (a : BitVec 7)
  /-- MPOPC (R278): Population count of a mask value. -/
  | mpopc (d : BitVec 7) (a : BitVec 7)
  /-- LFOLD (R281): Fold of a over active threads in ascending lane order. -/
  | lfold (w : BitVec 2) (d : BitVec 7) (a : BitVec 7) (o : BitVec 7) (k : BitVec 1)
  /-- FADD (R282): Floating add rounded once. -/
  | fadd (w : BitVec 2) (d : BitVec 7) (a : BitVec 7) (b : BitVec 7)
  /-- FSUB (R282): Floating subtract rounded once. -/
  | fsub (w : BitVec 2) (d : BitVec 7) (a : BitVec 7) (b : BitVec 7)
  /-- FMUL (R282): Floating multiply rounded once. -/
  | fmul (w : BitVec 2) (d : BitVec 7) (a : BitVec 7) (b : BitVec 7)
  /-- FMAC (R282): Fused a × b + d rounded once. -/
  | fmac (w : BitVec 2) (d : BitVec 7) (a : BitVec 7) (b : BitVec 7)
  /-- FMIN (R283): IEEE minimumNumber. -/
  | fmin (w : BitVec 2) (d : BitVec 7) (a : BitVec 7) (b : BitVec 7)
  /-- FMAX (R283): IEEE maximumNumber. -/
  | fmax (w : BitVec 2) (d : BitVec 7) (a : BitVec 7) (b : BitVec 7)
  /-- FMINM (R283): IEEE NaN-propagating minimum. -/
  | fminm (w : BitVec 2) (d : BitVec 7) (a : BitVec 7) (b : BitVec 7)
  /-- FCPYSGN (R283): |a| with the sign of b as pure bit operations. -/
  | fcpysgn (w : BitVec 2) (d : BitVec 7) (a : BitVec 7) (b : BitVec 7)
  /-- FCMP (R284): Floating compare into a mask bit. -/
  | fcmp (w : BitVec 2) (c : BitVec 3) (m : BitVec 4) (a : BitVec 7) (b : BitVec 7) (o : BitVec 2)
  /-- FDIV (R282): Floating divide rounded once. -/
  | fdiv (w : BitVec 2) (d : BitVec 7) (a : BitVec 7) (b : BitVec 7)
  /-- FSQRT (R282): Square root rounded once. -/
  | fsqrt (w : BitVec 2) (d : BitVec 7) (a : BitVec 7)
  /-- FRCP (R253): Reciprocal within 1 ulp. -/
  | frcp (w : BitVec 2) (d : BitVec 7) (a : BitVec 7)
  /-- FRSQ (R253): Reciprocal square root within 1 ulp. -/
  | frsq (w : BitVec 2) (d : BitVec 7) (a : BitVec 7)
  /-- FEXP2 (R253): 2^a within 2 ulp. -/
  | fexp2 (w : BitVec 2) (d : BitVec 7) (a : BitVec 7)
  /-- FLOG2 (R253): log2 a within the stated bound. -/
  | flog2 (w : BitVec 2) (d : BitVec 7) (a : BitVec 7)
  /-- FSIN (R253): Sine of a in radians. -/
  | fsin (w : BitVec 2) (d : BitVec 7) (a : BitVec 7)
  /-- FCOS (R253): Cosine of a in radians. -/
  | fcos (w : BitVec 2) (d : BitVec 7) (a : BitVec 7)
  /-- FTANH (R253): Hyperbolic tangent within 2 ulp. -/
  | ftanh (w : BitVec 2) (d : BitVec 7) (a : BitVec 7)
  /-- FSIGM (R254): Logistic function of a. -/
  | fsigm (w : BitVec 2) (d : BitVec 7) (a : BitVec 7)
  /-- FERF (R253): Error function of a. -/
  | ferf (w : BitVec 2) (d : BitVec 7) (a : BitVec 7)
  /-- FCLASS (R285): Writes the one-hot class mask of a. -/
  | fclass (w : BitVec 2) (d : BitVec 7) (a : BitVec 7)
  /-- HADD2 (R282): Add on each packed f16 element. -/
  | hadd2 (w : BitVec 2) (d : BitVec 7) (a : BitVec 7) (b : BitVec 7)
  /-- HSUB2 (R282): Subtract on each packed f16 element. -/
  | hsub2 (w : BitVec 2) (d : BitVec 7) (a : BitVec 7) (b : BitVec 7)
  /-- HMUL2 (R282): Multiply on each packed f16 element. -/
  | hmul2 (w : BitVec 2) (d : BitVec 7) (a : BitVec 7) (b : BitVec 7)
  /-- HMAC2 (R282): Fused multiply-add on each packed f16 element. -/
  | hmac2 (w : BitVec 2) (d : BitVec 7) (a : BitVec 7) (b : BitVec 7)
  /-- BADD2 (R282): Add on each packed bf16 element. -/
  | badd2 (w : BitVec 2) (d : BitVec 7) (a : BitVec 7) (b : BitVec 7)
  /-- BSUB2 (R282): Subtract on each packed bf16 element. -/
  | bsub2 (w : BitVec 2) (d : BitVec 7) (a : BitVec 7) (b : BitVec 7)
  /-- BMUL2 (R282): Multiply on each packed bf16 element. -/
  | bmul2 (w : BitVec 2) (d : BitVec 7) (a : BitVec 7) (b : BitVec 7)
  /-- BMAC2 (R282): Fused multiply-add on each packed bf16 element. -/
  | bmac2 (w : BitVec 2) (d : BitVec 7) (a : BitVec 7) (b : BitVec 7)
  /-- HMIN2 (R282): FMIN on each packed f16 element. -/
  | hmin2 (w : BitVec 2) (d : BitVec 7) (a : BitVec 7) (b : BitVec 7)
  /-- HMAX2 (R282): FMAX on each packed f16 element. -/
  | hmax2 (w : BitVec 2) (d : BitVec 7) (a : BitVec 7) (b : BitVec 7)
  /-- BMIN2 (R282): FMIN on each packed bf16 element. -/
  | bmin2 (w : BitVec 2) (d : BitVec 7) (a : BitVec 7) (b : BitVec 7)
  /-- BMAX2 (R282): FMAX on each packed bf16 element. -/
  | bmax2 (w : BitVec 2) (d : BitVec 7) (a : BitVec 7) (b : BitVec 7)
  /-- FRND (R286): Round to an integral value in the same format. -/
  | frnd (w : BitVec 2) (d : BitVec 7) (a : BitVec 7)
  /-- FRND_NX (R286): Round to integral, raising NX when the value changes. -/
  | frndNx (w : BitVec 2) (d : BitVec 7) (a : BitVec 7)
  /-- CVT_INT_TO_FLOAT (R287): Integer to floating conversion rounded once. -/
  | cvtIntToFloat (d : BitVec 7) (a : BitVec 7) (i : BitVec 2) (f : BitVec 2)
  /-- CVT_FLOAT_TO_INT (R287): Floating to integer conversion with defined special cases. -/
  | cvtFloatToInt (d : BitVec 7) (a : BitVec 7) (i : BitVec 2) (f : BitVec 2)
  /-- CVT_FLOAT (R287): Conversion between floating formats. -/
  | cvtFloat (d : BitVec 7) (a : BitVec 7) (s : BitVec 3) (f : BitVec 3)
  /-- PACK8 (R288): Converts f32 a into byte k of d, keeping the other bytes. -/
  | pack8 (d : BitVec 7) (a : BitVec 7) (f : BitVec 3) (k : BitVec 2)
  /-- UNPACK8 (R288): Exact f32 value of byte k of a. -/
  | unpack8 (d : BitVec 7) (a : BitVec 7) (f : BitVec 3) (k : BitVec 2)
  /-- PACK4 (R289): Converts f32 a to an e2m1 code in nibble k of d. -/
  | pack4 (w : BitVec 2) (d : BitVec 7) (a : BitVec 7) (k : BitVec 3)
  /-- UNPACK4 (R289): Decodes nibble k of a as e2m1x with scale and extra value from the fourth operand. -/
  | unpack4 (w : BitVec 2) (d : BitVec 7) (a : BitVec 7) (k : BitVec 3)
  /-- SCALEB (R290): a × 2^k rounded. -/
  | scaleb (w : BitVec 2) (d : BitVec 7) (a : BitVec 7) (b : BitVec 7)
  /-- XVAL (R290): e4m3 extra-value byte of a for scale byte s. -/
  | xval (d : BitVec 7) (a : BitVec 7) (b : BitVec 7)
  /-- SADD (R291): Uniform wrapping add. -/
  | sadd (d : BitVec 6) (a : BitVec 6) (k : BitVec 1) (y : BitVec 9)
  /-- SSUB (R291): Uniform wrapping subtract. -/
  | ssub (d : BitVec 6) (a : BitVec 6) (k : BitVec 1) (y : BitVec 9)
  /-- SMUL (R291): Uniform multiply, low 32 bits. -/
  | smul (d : BitVec 6) (a : BitVec 6) (k : BitVec 1) (y : BitVec 9)
  /-- SMIN (R291): Uniform signed minimum. -/
  | smin (d : BitVec 6) (a : BitVec 6) (k : BitVec 1) (y : BitVec 9)
  /-- SMAX (R291): Uniform signed maximum. -/
  | smax (d : BitVec 6) (a : BitVec 6) (k : BitVec 1) (y : BitVec 9)
  /-- SMINN (R291): Uniform unsigned minimum. -/
  | sminn (d : BitVec 6) (a : BitVec 6) (k : BitVec 1) (y : BitVec 9)
  /-- SMAXN (R291): Uniform unsigned maximum. -/
  | smaxn (d : BitVec 6) (a : BitVec 6) (k : BitVec 1) (y : BitVec 9)
  /-- SAND (R291): Uniform bitwise and. -/
  | sand (d : BitVec 6) (a : BitVec 6) (k : BitVec 1) (y : BitVec 9)
  /-- SOR (R291): Uniform bitwise or. -/
  | sor (d : BitVec 6) (a : BitVec 6) (k : BitVec 1) (y : BitVec 9)
  /-- SXOR (R291): Uniform bitwise xor. -/
  | sxor (d : BitVec 6) (a : BitVec 6) (k : BitVec 1) (y : BitVec 9)
  /-- SSHL (R291): Uniform shift left. -/
  | sshl (d : BitVec 6) (a : BitVec 6) (k : BitVec 1) (y : BitVec 9)
  /-- SSHR (R291): Uniform logical shift right. -/
  | sshr (d : BitVec 6) (a : BitVec 6) (k : BitVec 1) (y : BitVec 9)
  /-- SSAR (R291): Uniform arithmetic shift right. -/
  | ssar (d : BitVec 6) (a : BitVec 6) (k : BitVec 1) (y : BitVec 9)
  /-- SROTL (R291): Uniform rotate left. -/
  | srotl (d : BitVec 6) (a : BitVec 6) (k : BitVec 1) (y : BitVec 9)
  /-- SMOV (R291): Uniform register move. -/
  | smov (d : BitVec 6) (b : BitVec 6)
  /-- SMOVI (R291): Uniform immediate move. -/
  | smovi (d : BitVec 6) (i : BitVec 9)
  /-- SCMP (R292): Uniform compare writing equal, signed-less and unsigned-less bits. -/
  | scmp (d : BitVec 6) (a : BitVec 6) (k : BitVec 1) (y : BitVec 9)
  /-- SSEL (R291): Uniform select by the old destination value. -/
  | ssel (d : BitVec 6) (a : BitVec 6) (b : BitVec 6)
  /-- VRD (R293): Reads register j of lane l into a uniform register. -/
  | vrd (d : BitVec 6) (a : BitVec 6) (j : BitVec 7)
  /-- VWR (R293): Writes a uniform value into register j of lane l. -/
  | vwr (d : BitVec 6) (a : BitVec 6) (j : BitVec 7)
  /-- SLEA (R294): Adds a scaled offset to a uniform handle, faulting BUFBOUND on an index change. -/
  | slea (c : BitVec 2) (d : BitVec 6) (a : BitVec 6) (k : BitVec 1) (y : BitVec 9)
  /-- LD (R300): Plain per-thread global load through Translate. -/
  | ld (w : BitVec 2) (d : BitVec 7) (p : BitVec 6) (n : BitVec 1) (i : BitVec 9)
  /-- ST (R300): Plain per-thread global store. -/
  | st (w : BitVec 2) (d : BitVec 7) (p : BitVec 6) (n : BitVec 1) (i : BitVec 9)
  /-- LDS (R300): Scratchpad load waiting on empty lines. -/
  | lds (w : BitVec 2) (d : BitVec 7) (p : BitVec 6) (n : BitVec 1) (i : BitVec 9)
  /-- STS (R300): Scratchpad store leaving the full/empty bit unchanged. -/
  | sts (w : BitVec 2) (d : BitVec 7) (p : BitVec 6) (n : BitVec 1) (i : BitVec 9)
  /-- LDU (R301): Uniform global load once per issue. -/
  | ldu (w : BitVec 2) (d : BitVec 7) (p : BitVec 6) (i : BitVec 9)
  /-- STU (R301): Uniform global store once per issue. -/
  | stu (w : BitVec 2) (d : BitVec 7) (p : BitVec 6) (i : BitVec 9)
  /-- LDX (R302): Reads a word of the group's register window by window address. -/
  | ldx (d : BitVec 7) (p : BitVec 6) (i : BitVec 9)
  /-- STX (R302): Writes a word of the group's register window by window address. -/
  | stx (d : BitVec 7) (p : BitVec 6) (i : BitVec 9)
  /-- LDACQ (R303): Acquire load at a scope. -/
  | ldacq (w : BitVec 2) (d : BitVec 7) (p : BitVec 6) (c : BitVec 2) (s : BitVec 1) (x : BitVec 6)
  /-- STREL (R303): Release store at a scope. -/
  | strel (w : BitVec 2) (d : BitVec 7) (p : BitVec 6) (c : BitVec 2) (s : BitVec 1) (x : BitVec 6)
  /-- PREF (R304): Prefetch of a line, never faulting. -/
  | pref (p : BitVec 6)
  /-- WBR (R103): Writes back dirty bytes of a range in the caches of a scope. -/
  | wbr (l : BitVec 7) (p : BitVec 6) (c : BitVec 2)
  /-- INVR (R103): Writes back and invalidates a range in the caches of a scope. -/
  | invr (l : BitVec 7) (p : BitVec 6) (c : BitVec 2)
  /-- INVD (R103): Discards dirty bytes inside a range and invalidates. -/
  | invd (l : BitVec 7) (p : BitVec 6) (c : BitVec 2)
  /-- SETF (R305): Release that sets a scratchpad line's full bit at the owning SHU. -/
  | setf (p : BitVec 6) (c : BitVec 2) (x : BitVec 7)
  /-- CLRF (R305): Clears a scratchpad line's full bit. -/
  | clrf (p : BitVec 6) (x : BitVec 7)
  /-- OWNSEG (R306): Moves ownership of a scratchpad segment to the issuing core. -/
  | ownseg (d : BitVec 7) (p : BitVec 6)
  /-- DROPSEG (R306): Drops a segment copy or returns ownership to the home. -/
  | dropseg (d : BitVec 7) (p : BitVec 6)
  /-- AADD (R308): Atomic add at the home. -/
  | aadd (w : BitVec 2) (d : BitVec 7) (p : BitVec 6) (s : BitVec 1) (f : BitVec 1) (c : BitVec 2) (t : BitVec 3)
  /-- AMIN (R308): Atomic minimum at the home. -/
  | amin (w : BitVec 2) (d : BitVec 7) (p : BitVec 6) (s : BitVec 1) (f : BitVec 1) (c : BitVec 2) (t : BitVec 3)
  /-- AMAX (R308): Atomic maximum at the home. -/
  | amax (w : BitVec 2) (d : BitVec 7) (p : BitVec 6) (s : BitVec 1) (f : BitVec 1) (c : BitVec 2) (t : BitVec 3)
  /-- AAND (R308): Atomic and at the home. -/
  | aand (w : BitVec 2) (d : BitVec 7) (p : BitVec 6) (s : BitVec 1) (f : BitVec 1) (c : BitVec 2) (t : BitVec 3)
  /-- AOR (R308): Atomic or at the home. -/
  | aor (w : BitVec 2) (d : BitVec 7) (p : BitVec 6) (s : BitVec 1) (f : BitVec 1) (c : BitVec 2) (t : BitVec 3)
  /-- AXOR (R308): Atomic xor at the home. -/
  | axor (w : BitVec 2) (d : BitVec 7) (p : BitVec 6) (s : BitVec 1) (f : BitVec 1) (c : BitVec 2) (t : BitVec 3)
  /-- AXCHG (R308): Atomic exchange at the home. -/
  | axchg (w : BitVec 2) (d : BitVec 7) (p : BitVec 6) (s : BitVec 1) (f : BitVec 1) (c : BitVec 2) (t : BitVec 3)
  /-- ACAS (R308): Atomic compare-and-swap at the home. -/
  | acas (w : BitVec 2) (d : BitVec 7) (p : BitVec 6) (s : BitVec 1) (f : BitVec 1) (c : BitVec 2) (t : BitVec 3)
  /-- RED (R310): Unordered reduction into a U line or at the owning SHU. -/
  | red (w : BitVec 2) (d : BitVec 7) (p : BitVec 6) (s : BitVec 1) (f : BitVec 1) (t : BitVec 3) (o : BitVec 2)
  /-- FENCE (R143): Waits for the release counter and earlier loads. -/
  | fence (c : BitVec 2)
  /-- XPUB (R101): Publishes code lines for execution at a scope. -/
  | xpub (l : BitVec 7) (p : BitVec 6) (c : BitVec 2)
  /-- BARINIT (R313): Opens a barrier generation with EXPECT arrivals. -/
  | barinit (d : BitVec 7) (p : BitVec 6) (s : BitVec 1) (c : BitVec 2)
  /-- BARARR (R313): Arrives at a barrier, completing generations and releasing waiters. -/
  | bararr (d : BitVec 7) (p : BitVec 6) (s : BitVec 1) (c : BitVec 2)
  /-- BARWAIT (R314): Blocking wait for a barrier generation. -/
  | barwait (d : BitVec 7) (p : BitVec 6) (s : BitVec 1) (c : BitVec 2)
  /-- BARKILL (R313): Kills a barrier, releasing waiters ABORTED. -/
  | barkill (d : BitVec 7) (p : BitVec 6) (s : BitVec 1) (c : BitVec 2)
  /-- WAITADDR (R317): Blocking wait until a unit's value meets a condition. -/
  | waitaddr (w : BitVec 2) (d : BitVec 7) (p : BitVec 6) (k : BitVec 3) (s : BitVec 1) (c : BitVec 2)
  /-- TLWAIT (R318): Blocking wait until a timeline counter reaches n. -/
  | tlwait (t : BitVec 7) (n : BitVec 7) (d : BitVec 7)
  /-- TLREAD (R318): Reads a timeline counter with acquire. -/
  | tlread (t : BitVec 7) (d : BitVec 7)
  /-- RSECT (R181): Raises the group's read-section depth. -/
  | rsect
  /-- RSECX (R181): Lowers the group's read-section depth. -/
  | rsecx
  /-- QPASS (R182): A col of the group at depth zero. -/
  | qpass
  /-- GPWAIT (R320): Requests a grace period and waits for its target. -/
  | gpwait (t : BitVec 7) (d : BitVec 7)
  /-- TIMEAT (R321): Blocking wait until the GTB reaches T. -/
  | timeat (t : BitVec 7)
  /-- TIMERD (R321): Reads the 64-bit GTB once per issue. -/
  | timerd (d : BitVec 7)
  /-- BRA (R323): Relative branch on a mask bit per thread. -/
  | bra (m : BitVec 4) (p : BitVec 1) (o : BitVec 20)
  /-- BRX (R324): Indirect branch to the handle in a pair. -/
  | brx (a : BitVec 7)
  /-- CALL (R325): Relative call pushing the return entry, spilling when full. -/
  | call
  /-- CALLX (R325): Indirect call through a handle in a pair. -/
  | callx (a : BitVec 7)
  /-- RET (R172): Pops the newest return entry, loading it from the spill area if needed. -/
  | ret
  /-- JOIN (R327): Sets the active threads' bits in a mask. -/
  | join (m : BitVec 7)
  /-- LEAVE (R327): Clears the active threads' bits in a mask. -/
  | leave (m : BitVec 7)
  /-- WAITM (R327): Blocking wait for every live thread of a mask to reach WAITM. -/
  | waitm (m : BitVec 7)
  /-- MSET (R329): Sets a mask from a uniform value. -/
  | mset (d : BitVec 7) (s : BitVec 7)
  /-- MAND (R329): Mask and. -/
  | mand (d : BitVec 7) (a : BitVec 7) (b : BitVec 7)
  /-- MOR (R329): Mask or. -/
  | mor (d : BitVec 7) (a : BitVec 7) (b : BitVec 7)
  /-- MXOR (R329): Mask xor. -/
  | mxor (d : BitVec 7) (a : BitVec 7) (b : BitVec 7)
  /-- MNOT (R329): Mask complement. -/
  | mnot (d : BitVec 7) (a : BitVec 7)
  /-- MMOV (R329): Copies a mask to a mask or uniform register. -/
  | mmov (d : BitVec 7) (a : BitVec 7)
  /-- PRIO (R330): Sets the block priority of active threads. -/
  | prio (n : BitVec 8)
  /-- NOP (R331): No operation. -/
  | nop
  /-- EXIT (R332): Exits active threads after a .dev release, freeing the group and workgroup when last. -/
  | exitI
  /-- TRAP (R331): Active threads trap SYSCALL with TVAL bit 16 set. -/
  | trap (k : BitVec 16)
  /-- BKPT (R331): Active threads trap BKPT or are routed to a debugger. -/
  | bkpt (k : BitVec 16)
  /-- CSRR (R334): Reads a control and status register. -/
  | csrr (d : BitVec 6) (c : BitVec 12)
  /-- CSRW (R334): Writes a control and status register, returning nothing. -/
  | csrw (d : BitVec 6) (c : BitVec 12)
  /-- CSRS (R334): Sets bits of a CSR, returning the old value. -/
  | csrs (d : BitVec 6) (c : BitVec 12)
  /-- CSRC (R334): Clears bits of a CSR, returning the old value. -/
  | csrc (d : BitVec 6) (c : BitVec 12)
  /-- ROLE (R54): Requests a bank role change, admitted or refused in one indivisible step. -/
  | role (d : BitVec 6) (a : BitVec 6)
  /-- PSTAT (R60): Reads a pool occupancy word. -/
  | pstat (d : BitVec 6) (s : BitVec 9)
  /-- SYSC (R338): Every thread of the entry traps SYSCALL. -/
  | sysc (k : BitVec 16)
  /-- ERET (R405): Returns from trap mode, or kills the region when TPC is zero. -/
  | eret
  /-- HALT (R338): Stops issue of the group and halts its region for debug. -/
  | halt
  /-- BTINV (R339): Invalidates cached buffer table entries at a scope. -/
  | btinv (d : BitVec 6) (c : BitVec 2) (l : BitVec 1)
  /-- TFENCE (R339): Invalidates cached translations of a root at a scope. -/
  | tfence (d : BitVec 6) (c : BitVec 2) (l : BitVec 1) (k : BitVec 6)
  /-- CTXSV (R340): Saves a named workgroup into a buffer area. -/
  | ctxsv (d : BitVec 6)
  /-- CTXLD (R340): Copies a saved record into the save pool for restoration. -/
  | ctxld (d : BitVec 6)
  /-- XW (R226): Hint extending the next instruction's immediate or code 127. -/
  | xw (p : BitVec 23)
  /-- XH (R220): Hint opening a hold window of c instructions. -/
  | xh (c : BitVec 3)
  /-- XM (R227): Hint carrying rounding, saturation, operand, predicate, fourth-operand and scope modifiers. -/
  | xm (r : BitVec 3) (s : BitVec 1) (n : BitVec 1) (a : BitVec 1) (m : BitVec 1) (b : BitVec 1) (p : BitVec 4) (l : BitVec 1) (o : BitVec 7) (c : BitVec 3)
  /-- WLOAD (R351): Queues a load of a weight tile into the back bank. -/
  | wload (t : BitVec 1) (d : BitVec 7) (b : BitVec 7) (c : BitVec 7)
  /-- WSWAP (R352): Queues a swap of the front weight bank. -/
  | wswap (c : BitVec 7)
  /-- MMA (R354): Queues activation rows through the array into the accumulator store. -/
  | mma (h : BitVec 3) (v : BitVec 7) (s : BitVec 7) (c : BitVec 7)
  /-- MMAX (R354): Queues block-scaled activation rows through the array. -/
  | mmax (h : BitVec 3) (v : BitVec 7) (s : BitVec 7) (c : BitVec 7)
  /-- ACLR (R359): Queues a clear of the whole accumulator store. -/
  | aclr (c : BitVec 7)
  /-- ACLR_ROWS (R359): Queues a clear of a range of store rows. -/
  | aclrRows (a : BitVec 7) (c : BitVec 7)
  /-- ARD (R361): Reads a 96-bit piece of an accumulator element and its row flags. -/
  | ard (d : BitVec 7) (i : BitVec 7)
  /-- AWR (R361): Writes a 96-bit piece of an accumulator element and its row flags. -/
  | awr (d : BitVec 7) (i : BitVec 7)
  /-- AST (R360): Queues a drain of store rows to memory, rounded once. -/
  | ast (h : BitVec 3) (v : BitVec 7) (s : BitVec 7) (c : BitVec 7)
  /-- MXCFG (R362): Sets mode and anchor and zeroes the store, or releases the engine. -/
  | mxcfg (a : BitVec 7)
  /-- MXSTAT (R363): Reads a matrix status word, clearing drain flags on selector 3. -/
  | mxstat (s : BitVec 7) (d : BitVec 7)
  /-- MXRES (R357): Queues resumption of the group's stopped matrix command. -/
  | mxres (c : BitVec 7)
  /-- STRM (R374): Binds a stream descriptor to a queue. -/
  | strm (q : BitVec 7) (b : BitVec 7) (c : BitVec 7)
  /-- STRQ (R376): Reads the state of a stream queue. -/
  | strq (q : BitVec 7) (d : BitVec 7)
  /-- STRQ_END (R376): Ends the stream bound to a queue. -/
  | strqEnd (q : BitVec 7)
  /-- CPY (R380): Issues a slice of a workgroup-collective copy. -/
  | cpy (b : BitVec 7) (v : BitVec 7) (c : BitVec 7)
  /-- CPYM (R382): Issues a multicast copy into cluster ranks. -/
  | cpym (b : BitVec 7) (v : BitVec 7) (c : BitVec 7)
  /-- CPST (R371): Reads a command's completion record, optionally clearing the error flag. -/
  | cpst (d : BitVec 7) (n : BitVec 7) (t : BitVec 7)
  /-- GATH (R383): Issues an indexed gather of rows into scratchpad. -/
  | gath (b : BitVec 7) (v : BitVec 7) (c : BitVec 7)
  /-- SCAT (R383): Issues an indexed scatter of rows to global memory. -/
  | scat (b : BitVec 7) (v : BitVec 7) (c : BitVec 7)
  /-- DBW (R384): Issues a 32-bit doorbell write after a .sys release. -/
  | dbw (h : BitVec 7) (v : BitVec 7) (c : BitVec 7)
  /-- DBW_X2 (R384): Issues a 64-bit doorbell write after a .sys release. -/
  | dbwX2 (h : BitVec 7) (v : BitVec 7) (c : BitVec 7)
  /-- NMC (R387): Issues a near-memory command. -/
  | nmc (b : BitVec 7) (w : BitVec 7) (c : BitVec 7)
  /-- LAUNCH (R388): Reads a launch packet and writes it into the region's device-side queue. -/
  | launch (p : BitVec 7) (s : BitVec 7) (c : BitVec 7)
  /-- TPOST (R390): Posts a continuation record to its steppe bucket. -/
  | tpost (p : BitVec 7) (r : BitVec 7) (c : BitVec 7)
  /-- TJOIN (R391): Lowers a record's join counter, making it runnable at zero. -/
  | tjoin (i : BitVec 7) (s : BitVec 7) (c : BitVec 7)
  /-- DEFER (R390): Posts a record gated on a grace request. -/
  | defer (p : BitVec 7) (r : BitVec 7) (c : BitVec 7)
  /-- COLL (R393): Joins the next collective of a communicator. -/
  | coll (b : BitVec 7) (c : BitVec 7)
  /-- CABORT (R396): Breaks a communicator and sends the abort notice. -/
  | cabort (m : BitVec 7) (c : BitVec 7)
  /-- CSTAT (R397): Reads the rank's view of a communicator. -/
  | cstat (m : BitVec 7) (d : BitVec 7)
  /-- BTE_FETCH (R465): A missed buffer table entry returns from memory and is cached or fails the access. -/
  | bteFetch (core region index : Nat)
  /-- WALK_START (R33): A queued page walk starts when a walker becomes free. -/
  | walkStart (basin : Nat)
  /-- WALK_COMPLETE (R24): A page walk returns its leaf, sets A and D, and serves the waiting misses. -/
  | walkComplete (basin : Nat)
  /-- PAGE_FAULT_RECORD (R35): A fault record is written to the basin's page-fault queue and its interrupt raised. -/
  | pageFaultRecord (basin : Nat)
  /-- PFQRESP_RETRY (R36): A RETRY response replays every lane and command parked on the record. -/
  | pfqrespRetry (basin seq : Nat)
  /-- PFQRESP_FAIL (R36): A FAIL response traps parked lanes and completes parked commands ENGFAULT. -/
  | pfqrespFail (basin seq : Nat)
  /-- PFQRESP_CLEAR_ERR (R37): A write with OUTCOME 0 and bit 61 set clears ERR. -/
  | pfqrespClearErr (basin : Nat)
  /-- PFQRESP_IGNORED (R37): OUTCOME 3, or 0 without bit 61, is ignored and sets ERR. -/
  | pfqrespIgnored (basin : Nat)
  /-- PINIT_START (R50): Writing START begins pool initialisation of a core. -/
  | pinitStart (core : Nat)
  /-- POOL_INIT_DONE (R50): Pool initialisation ends with the default layout and DONE set. -/
  | poolInitDone (core : Nat)
  /-- BANK_WAKE (R78): An OFF bank finishes power-up for a role change or placement. -/
  | bankWake (core bank : Nat)
  /-- WINDOW_MOVE (R65): A paused group's window is copied to reserved slabs and the group resumed. -/
  | windowMove (core : Nat)
  /-- SEGMENT_MOVE (R56): A live scratchpad segment is copied with its bits and its map redirected. -/
  | segmentMove (core : Nat)
  /-- CCH_BANK_DRAIN (R56): An outgoing CCH bank finishes writing back and invalidating its lines. -/
  | cchBankDrain (core bank : Nat)
  /-- BANK_CLEAR (R57): A bank finishes its clear and shows its new role in PROLE. -/
  | bankClear (core bank : Nat)
  /-- PATROL_SCRUB (R77): The scrubber visits a word, correcting or poisoning it. -/
  | patrolScrub (core bank word : Nat)
  /-- HOME_LOAD_MISS (R84): A load miss for a CCH line is handled at the home directory. -/
  | homeLoadMiss (core line : Nat)
  /-- HOME_STORE_MISS (R84): A store miss or upgrade (RDX) is handled at the home directory. -/
  | homeStoreMiss (core line : Nat)
  /-- HOME_RED_MISS (R84): A RED miss for a U line is handled at the home directory. -/
  | homeRedMiss (core line op typ : Nat)
  /-- HOME_ATOMIC (R309): An atomic is performed at the home after recalling copies. -/
  | homeAtomic (core key op typ value compare : Nat)
  /-- WRITE_BACK (R84): An evicted M line or U partial arrives at the home. -/
  | writeBack (core line : Nat)
  /-- RECALL (R86): A recall or invalidation from the home is answered by a core. -/
  | recall (core line : Nat)
  /-- SHU_OPERATION (R90): The owning SHU performs one scratchpad write or atomic. -/
  | shuOperation (workgroup address op typ value compare : Nat)
  /-- SEGMENT_TRANSFER (R91): A segment's ownership transfer completes and both cores leave T. -/
  | segmentTransfer (workgroup segment : Nat)
  /-- LEASE_REQUEST (R94): A read or write lease request is granted or waits at the home. -/
  | leaseRequest (basin line write : Nat)
  /-- LEASE_RELEASE_REQUEST (R94): A holder receives a release request or recall and writes back. -/
  | leaseReleaseRequest (holder line : Nat)
  /-- LEASE_RELEASE (R93): A holder's lease release arrives at the home. -/
  | leaseRelease (holder line : Nat)
  /-- HOLDER_LEASE_EXPIRY (R93): A lease expires on the holder's GTB and the copy is no longer used. -/
  | holderLeaseExpiry (basin line : Nat)
  /-- HOME_LEASE_EXPIRY (R94): A lease expires at the home, letting waiting requests proceed. -/
  | homeLeaseExpiry (basin line : Nat)
  /-- LEASE_DRIFT (R98): An agent's GTB uncertainty exceeds its guard band and leases are dropped. -/
  | leaseDrift (basin uncertainty : Nat)
  /-- IFETCH_MISS (R102): An instruction-cache miss fetches a line from its home. -/
  | ifetchMiss (group : Nat)
  /-- DX_FORCED_PUBLISH (R100): After 100 µs the home publishes the oldest dirty-for-execute line of a set. -/
  | dxForcedPublish (line : Nat)
  /-- XFRAME_SET (R99): Sets the execute-frame bit of an HBM4E frame. -/
  | xframeSet (frame : Nat)
  /-- XFRAME_CLEAR (R99): Clears the execute-frame bit and the frame's publication state. -/
  | xframeClear (frame : Nat)
  /-- HBMCTL_RETIRE (R109): The supervisor retires a channel of a stack. -/
  | hbmctlRetire (stack channel : Nat)
  /-- CHANNEL_TRAINING_FAIL (R109): A channel fails training and is retired. -/
  | channelTrainingFail (stack channel : Nat)
  /-- REPAIR_LIMIT (R109): A channel's parity repairs reach 64 within 1 s and it is retired. -/
  | repairLimit (stack channel : Nat)
  /-- REBUILD_SEGMENT (R111): The base die reconstructs or moves one row segment of a rebuild. -/
  | rebuildSegment (stack : Nat)
  /-- NMU_EXECUTE (R116): An NMU command passes its checks and processes granules. -/
  | nmuExecute (workgroup : Nat)
  /-- NMU_COMPLETE (R117): An NMU command completes with its status word and timeline advance. -/
  | nmuComplete (workgroup : Nat)
  /-- CXL_TIMEOUT (R119): A .mem request outstanding for TIMEOUT puts the port into containment. -/
  | cxlTimeout (port : Nat)
  /-- CXL_LINK_EVENT (R119): Link down, DPC, viral or fatal AER puts a CXL port into containment. -/
  | cxlLinkEvent (port cause : Nat)
  /-- CXLCTL_RESUME (R119): Writing RESUME ends containment of a trained port. -/
  | cxlctlResume (port : Nat)
  /-- KEY_SLOT_LOAD (R121): Firmware loads a sealed-storage key slot, raising its generation. -/
  | keySlotLoad (slot : Nat)
  /-- SEALCTL_REINIT (R125): Reinitialises an exhausted sealed frame under a key slot. -/
  | sealctlReinit (stack frame slot : Nat)
  /-- SEALCTL_POOLINIT (R125): Raises the pool epoch and zeroes the sealed pool. -/
  | sealctlPoolinit (stack : Nat)
  /-- SEAL_COMMAND_DONE (R125): A SEALCTL command finishes and BUSY clears. -/
  | sealCommandDone (stack : Nat)
  /-- RCBUPD_UPDATE (R162): Starts an update of a region's RCB, checked and refused or accepted. -/
  | rcbupdUpdate (region : Nat)
  /-- RCBUPD_CLRFAULT (R162): Clears the fault record of a DEAD region and applies its RCB. -/
  | rcbupdClrfault (region : Nat)
  /-- RCBUPD_APPLY (R162): Basins take the recomputed effective values and BUSY clears. -/
  | rcbupdApply
  /-- RGNKILL (R163): Raises a fatal fault of a region with cause 0xFF. -/
  | rgnkill (region : Nat)
  /-- HQPTR_PUT (R188): The supervisor advances a host queue's PUT, or overfills and disables it. -/
  | hqptrPut (basin queue put : Nat)
  /-- PACKET_TAKE (R188): The dispatcher takes a launch packet into a grid descriptor. -/
  | packetTake (basin : Nat)
  /-- WORKGROUP_PLACE (R197): A workgroup is placed on a core in one reserving step. -/
  | workgroupPlace (basin : Nat)
  /-- GLEN_COMPACTION (R200): The dispatcher slides windows of a glen downward to make a run fit. -/
  | glenCompaction (core glen : Nat)
  /-- TASK_START (R180): An idle slot starts the record at the head of its core's bucket. -/
  | taskStart (core : Nat)
  /-- TASK_WAIT_SAVE (R180): A task blocked for one quantum is saved, freeing its slot. -/
  | taskWaitSave (workgroup : Nat)
  /-- TASK_REQUEUE (R180): A waiting-saved task re-enters the head of its bucket one quantum later. -/
  | taskRequeue (workgroup : Nat)
  /-- QUANTUM_EXPIRY (R205): A workgroup's residency timer reaches QUANTUM and it becomes yieldable. -/
  | quantumExpiry (workgroup : Nat)
  /-- QUANTUM_SAVE (R205): A yieldable workgroup is saved so a waiting one can be placed. -/
  | quantumSave (workgroup : Nat)
  /-- YIELD_SAVE (R209): A fully blocked workgroup is saved for a waiting packet of its subtree. -/
  | yieldSave (workgroup : Nat)
  /-- WORKGROUP_RESTORE (R207): A saved workgroup is restored onto a core of its basin. -/
  | workgroupRestore (workgroup : Nat)
  /-- TURN_LIMIT (R203): A group ends its pipe turn after 64 issues outside a hold window. -/
  | turnLimit (pipe : Nat)
  /-- STARVED_TURN (R204): A ready group idle for 65,536 cycles receives the next turn. -/
  | starvedTurn (group : Nat)
  /-- ENTRY_AGE_LIMIT (R170): After 1,024 issues in a row the longest-waiting entry issues next. -/
  | entryAgeLimit (group : Nat)
  /-- FEB_TIMEOUT (R70): A wait on an empty line traps FEBTIMEOUT. -/
  | febTimeout (group lane : Nat)
  /-- WAIT_TIMEOUT (R185): A blocking wait lasting WAITTO traps WAITTIMEOUT. -/
  | waitTimeout (group lane : Nat)
  /-- TIMEAT_RELEASE (R321): The GTB reaches T and TIMEAT waiters are released. -/
  | timeatRelease (group : Nat)
  /-- TIMED_START (R211): A command held for its start time starts when the GTB reaches it. -/
  | timedStart (workgroup number : Nat)
  /-- BUDGET_PERIOD (R210): A new budget period begins and waiting requests are served. -/
  | budgetPeriod (basin : Nat)
  /-- ENGINE_CLAIM (R344): A waiting workgroup claims the released matrix engine in its initial state. -/
  | engineClaim (core : Nat)
  /-- MATRIX_UNIT (R355): The engine performs one unit of a queued command, or stops or parks on a failure. -/
  | matrixUnit (core : Nat)
  /-- MATRIX_COMPLETE (R348): A queued matrix command completes with its status on tl0. -/
  | matrixComplete (core : Nat)
  /-- STREAM_WORD (R374): A stream's access slice moves one word between memory and its queue. -/
  | streamWord (group queue : Nat)
  /-- CQBUSY_TIMEOUT (R378): A copy waiting a quantum for a queue entry is refused CQBUSY. -/
  | cqbusyTimeout (group : Nat)
  /-- COPY_START (R380): A copy starts once every slice has arrived and its start time passed. -/
  | copyStart (workgroup number : Nat)
  /-- COPY_COMPLETE (R381): A copy's payload is done, its NOTE action taken and the command completed. -/
  | copyComplete (workgroup number : Nat)
  /-- DOORBELL_SEND (R384): The DOP sends a doorbell as a posted write from the root port. -/
  | doorbellSend (port : Nat)
  /-- MSIX_ARRIVAL (R386): An MSI-X write to the interrupt window becomes a barrier arrival or is dropped. -/
  | msixArrival (port requester offset size : Nat)
  /-- ENDPOINT_REQUEST (R415): An endpoint memory request is bound to a region and checked by Translate. -/
  | endpointRequest (port requester pasid kind handle size value : Nat)
  /-- ATS_TRANSLATION_REQUEST (R416): An endpoint Translation Request is answered with a 4 KiB page's rights. -/
  | atsTranslationRequest (port requester pasid handle : Nat)
  /-- PRI_PAGE_REQUEST (R416): An endpoint Page Request writes a page-fault record. -/
  | priPageRequest (port requester pasid handle write : Nat)
  /-- ATS_INVAL_TIMEOUT (R417): An endpoint not acknowledging ATS invalidation within 1 ms is cut off by DPC. -/
  | atsInvalTimeout (port requester : Nat)
  /-- BAR_REQUEST_TIMEOUT (R413): A non-posted BAR or NTB request without completion within TIMEOUT completes LINKDOWN. -/
  | barRequestTimeout (request : Nat)
  /-- NTB_PEER_REQUEST (R418): A peer module's request through an NTB aperture is admitted or denied by the MAT. -/
  | ntbPeerRequest (peer address kind size value : Nat)
  /-- LINK_TRAINED (R411): A root port's link finishes training and LINKUP is set. -/
  | linkTrained (port speed width flit : Nat)
  /-- RPCTL_DPC_RELEASE (R411): Writing 1 to DPC releases containment and the link retrains. -/
  | rpctlDpcRelease (port : Nat)
  /-- COLL_STEP (R395): One transfer of a collective between two ranks is performed. -/
  | collStep (comm sender rank : Nat) (data : List Nat)
  /-- COLL_STEP_TIMEOUT (R395): A step's data missing for T aborts the collective and breaks the communicator. -/
  | collStepTimeout (comm rank sender : Nat)
  /-- ABORT_NOTICE (R395): A rank receives an abort notice and completes the collective ABORTED. -/
  | abortNotice (comm rank culprit cause : Nat)
  /-- COMMCMD_CREATE (R422): Creates a communicator from a descriptor. -/
  | commcmdCreate (descriptor : Nat)
  /-- COMMCMD_REFORM (R423): Re-forms a communicator without the excluded ranks. -/
  | commcmdReform (descriptor : Nat)
  /-- COMMCMD_DESTROY (R422): Destroys a communicator at the module. -/
  | commcmdDestroy (descriptor : Nat)
  /-- REFORM_ACK (R423): The last surviving rank acknowledges and the ranks become ACTIVE. -/
  | reformAck (comm : Nat)
  /-- REFORM_ACK_TIMEOUT (R423): A surviving rank fails to acknowledge in time; REFORM ends NORESP. -/
  | reformAckTimeout (comm : Nat)
  /-- EXCLUSION_NOTICE (R423): An excluded rank's module receives the notice and marks the rank BROKEN. -/
  | exclusionNotice (comm rank epoch : Nat)
  /-- STEP_REJECTION (R423): A step message with an old epoch is rejected with cause EXCLUDED. -/
  | stepRejection (comm rank epoch : Nat)
  /-- MODULE_RESET (R425): The boot ROM verifies and measures firmware or halts with a code. -/
  | moduleReset (code digest : Nat)
  /-- MEAS_EXTEND (R425): Firmware extends a measurement register through the extend port. -/
  | measExtend (register digest : Nat)
  /-- SVCUP_UP (R429): Writing UP ends reduced service and enables every core. -/
  | svcupUp
  /-- POWER_STEP (R430): The power controller changes the core clock by a sixteenth to hold LIMIT. -/
  | powerStep (step capped : Nat)
  /-- GTBSYNC_SRC (R421): A change of the GTB source keeps the value and re-enters slewing. -/
  | gtbsyncSrc (source : Nat)
  /-- LAPSE_ENTRY_CLEAR (R96): Clearing VALID of a lapse entry ends its LINKDOWN completions. -/
  | lapseEntryClear (basin entry : Nat)
  /-- LAPSECTL_CLEAR (R97): Clearing ALLLAPSED ends the completions it causes. -/
  | lapsectlClear (basin : Nat)
  /-- DBGCMD_HALT (R437): Halts a target region's subtree after a capability check. -/
  | dbgcmdHalt (command : Nat)
  /-- DBGCMD_RESUME (R438): Resumes every group of a halt. -/
  | dbgcmdResume (command : Nat)
  /-- DBGCMD_STEP (R438): Lets one named halted group issue one instruction. -/
  | dbgcmdStep (command : Nat)
  /-- DBGCMD_READ (R435): Reads one word of a halted thread into DBGDATA. -/
  | dbgcmdRead (command : Nat)
  /-- DBGCMD_WRITE (R435): Writes one word, PC or priority of a halted thread from DBGDATA. -/
  | dbgcmdWrite (command : Nat)
  /-- DBGWPB_WRITE (R440): Sets a watchpoint, checked against its capability. -/
  | dbgwpbWrite (watchpoint value : Nat)
  /-- CAPABILITY_RECHECK (R438): Every 100 µs a halted region's capability is read and a revoked one resumes it. -/
  | capabilityRecheck (region : Nat)
  /-- PC_SAMPLE (R444): A core records a PC sample every 2^PERIOD cycles. -/
  | pcSample (core : Nat)
  /-- REGISTER_WRITE (R29): A write to a basin register with no row of its own stores its fields. -/
  | registerWrite (basin offset size value : Nat)
  /-- ILLEGAL_ENCODING (R230): A frontier entry tries to issue a word that is an illegal encoding and every thread of the entry traps ILLOP. -/
  | illegalEncoding (word reason : Nat)
  /-- ATS_INVALIDATION_COMPLETION (R38): An endpoint's acknowledgement of an ATS invalidation arrives and lets a .sys TFENCE or BTINV complete. -/
  | atsInvalidationCompletion (port requester : Nat)
  /-- ROOT_PORT_COMPLETION (R466): A completion for a non-posted request to a BAR window or NTB aperture arrives at a root port and completes the request with data, ACCESSDENY or LINKDOWN. -/
  | rootPortCompletion (request status data : Nat)
  /-- CXL_MEM_COMPLETION (R119): A .mem completion from a CXL expander arrives, returning data or poison, or is discarded while the port is contained. -/
  | cxlMemCompletion (port poisoned : Nat)
  /-- PCIE_LINK_DOWN (R413): A root port serving BAR or NTB targets loses its link or takes a DPC trigger from a fatal error and enters containment. -/
  | pcieLinkDown (port dpc : Nat)
  /-- HBM_TRAINING_DONE (R429): HBM4E training and the repair scan end, after which an SVCUP write may end reduced service. -/
  | hbmTrainingDone
  /-- GTB_DISCIPLINE (R421): A PTM or IEEE 1588 time update disciplines the GTB, changing UNCERT and LOCKED and bringing the uncertainty back within a guard band. -/
  | gtbDiscipline (uncertainty : Nat)
  deriving DecidableEq, Repr

end Sys2Proof
end

