-- ==== Sys2Proof/Machine/Shape.lean ====
section
/-! DEFINITION. What each encoded instruction accepts: its operand codes and widths (R217, R218, R264, R297, R367, R372),
the modifiers it accepts (R228), whether an XW extends it (R226), whether it may stand in a hold window (R220).
Decoding, well-formedness and issue all read these tables. -/
namespace Sys2Proof.Machine

/-- The sets of operand codes an operand position accepts. -/
inductive OpClass where
  /-- A source of formats R and I (R217); 127 needs an XW and is illegal where the format carries imm9. -/
  | src
  /-- A source of format I, where code 127 is illegal. -/
  | srcI
  /-- A destination v register, queue code or discard (R217). -/
  | dst
  /-- As `dst`, with s0 to s15 accepted as well (R265). -/
  | dstU
  /-- A destination that is also read: v registers only (R265). -/
  | rw
  /-- PEERS' destination: a v register (R278). -/
  | vOnly
  /-- A load destination (R297). -/
  | load
  /-- A store source (R297). -/
  | store
  /-- Uniform data s0 to s15 (R297). -/
  | sOne
  /-- Atomic, barrier and wait data (R297). -/
  | atom
  /-- A range length (R297). -/
  | len
  /-- An ownership result: a v register or 127 (R297). -/
  | own
  /-- A format-M address pair (R296): v0 to v94 or s0 to s14. -/
  | addr
  /-- A format-M uniform address pair (R301). -/
  | addrU
  /-- A per-thread address register of the scratchpad or the window (R296). -/
  | addrV
  /-- An even v or s pair (R318, R324). -/
  | pair
  /-- As `pair`, or 127 with an XW (R318, R321). -/
  | pairX
  /-- As `pair`, or 127: a completion operand or a discarded result (R320, R367). -/
  | comp
  /-- A status: v, s or 127 (R318, R320). -/
  | status
  /-- An even s pair (R367, R372). -/
  | sPair
  /-- An even s pair or 120 (R367, R372). -/
  | sPairZ
  /-- An even s pair or 127 (R372). -/
  | sPairD
  /-- An even v pair (R354). -/
  | vPair
  /-- s0 to s15 or 120 (R372). -/
  | sOneZ
  /-- s0 to s15 or 127 (R372). -/
  | sOneD
  /-- s0, s4, s8 or s12 (R367, R372). -/
  | sQuad
  /-- s0 or s8: eight registers (R372). -/
  | desc
  /-- A v register, a multiple of 4, for ARD and AWR (R361). -/
  | vQuad
  /-- The index of ARD and AWR (R361). -/
  | index
  /-- The source of MSET: s0 to s15, zero, or 127 with XW (R329). -/
  | mset
  deriving DecidableEq, Repr

/-- An operand: class, code, registers, and whether it is read and written. -/
structure Operand where
  cls   : OpClass
  code  : Nat
  n     : Nat
  read  : Bool
  write : Bool
  deriving DecidableEq, Repr

/-- Whether code `c` is one the class accepts at all (else reason 0x04). -/
def OpClass.accepts (k : OpClass) (c : Nat) : Bool :=
  let v := c < 96
  let y := 96 ≤ c && c < 100
  let q := 100 ≤ c && c < 104
  let s := 104 ≤ c && c < 120
  let z := 120 ≤ c && c ≤ 124
  match k with
  | .src => v || y || q || s || z || c == 127
  | .srcI => v || y || q || s || z
  | .dst => v || q || c == 127
  | .dstU => v || q || s || c == 127
  | .rw | .vOnly | .vPair | .vQuad => v
  | .load => v || q || c == 127
  | .store => v || q || s || z
  | .sOne | .sPair | .desc | .sQuad | .addrU => s
  | .atom | .addr | .pair | .index => v || s
  | .addrV => v
  | .len => v || s || z
  | .own => v || c == 127
  | .pairX | .comp | .status => v || s || c == 127
  | .sPairZ | .sOneZ => s || c == 120
  | .sPairD | .sOneD => s || c == 127
  | .mset => s || c == 120 || c == 127

/-- Whether the register number of code `c` fits `n` registers (else reason 0x05): v numbers, s numbers from 104, and
latches only for n below 4 (R218).  A uniform descriptor of four or eight registers starts at a multiple of its size. -/
def OpClass.aligned (k : OpClass) (c n : Nat) : Bool :=
  let m := match k with
    | .sQuad | .vQuad => 4
    | .desc => 8
    | _ => n
  if c < 96 then c % m == 0
  else if c < 100 then n < 4
  else if c < 104 then true
  else if c < 120 then (c - 104) % m == 0
  else true

/-- The ILLOP reason of one operand, if it breaks R217 or R218.  R367 and R372 name their uniform descriptors by their
codes, so a code outside s0, s4, s8, s12 (s0, s8) is a code outside the column (reason 0x04). -/
def Operand.bad (o : Operand) : Option Nat :=
  if !o.cls.accepts o.code then some 0x04
  else if !o.cls.aligned o.code o.n then some (match o.cls with | .sQuad | .desc => 0x04 | _ => 0x05)
  else none

/-- Which XM modifiers an instruction accepts (R228, R265): `opd` with RM = 6, `own` a fourth operand of its description. -/
structure Mods where
  rm    : Bool := false
  sat   : Bool := false
  ab    : Bool := false
  opd   : Bool := false
  own   : Bool := false
  pred  : Bool := false
  scope : Bool := false
  deriving DecidableEq, Repr

/-- Registers named by a width field: 2^wd (R218). -/
def widthN (w : BitVec 2) : Nat := 2 ^ w.toNat

def oSrc (c : BitVec 7) (n : Nat) : Operand := { cls := .src, code := c.toNat, n := n, read := true, write := false }
def oSrcI (c : BitVec 7) : Operand := { cls := .srcI, code := c.toNat, n := 1, read := true, write := false }
def oDst (c : BitVec 7) (n : Nat) : Operand := { cls := .dst, code := c.toNat, n := n, read := false, write := true }
def oDstU (c : BitVec 7) (n : Nat) : Operand := { cls := .dstU, code := c.toNat, n := n, read := false, write := true }
def oRw (c : BitVec 7) (n : Nat) : Operand := { cls := .rw, code := c.toNat, n := n, read := true, write := true }
def oIn (k : OpClass) (c : BitVec 7) (n : Nat) : Operand := { cls := k, code := c.toNat, n := n, read := true, write := false }
def oOut (k : OpClass) (c : BitVec 7) (n : Nat) : Operand := { cls := k, code := c.toNat, n := n, read := false, write := true }
def oBoth (k : OpClass) (c : BitVec 7) (n : Nat) : Operand := { cls := k, code := c.toNat, n := n, read := true, write := true }

/-- The address operand of format M: code 2 × p, a pair for a global handle, one register otherwise (R215, R296). -/
def oAddr (p : BitVec 6) (sp : Bool) : Operand :=
  { cls := .addr, code := 2 * p.toNat, n := if sp then 1 else 2, read := true, write := false }
def oAddrV (p : BitVec 6) : Operand := { cls := .addrV, code := 2 * p.toNat, n := 1, read := true, write := false }
def oAddrU (p : BitVec 6) : Operand := { cls := .addrU, code := 2 * p.toNat, n := 2, read := true, write := false }

/-- Operands of a three-operand instruction of width n. -/
def ops3 (d a b : BitVec 7) (n : Nat) : List Operand := [oDst d n, oSrc a n, oSrc b n]
def ops3rw (d a b : BitVec 7) (n : Nat) : List Operand := [oRw d n, oSrc a n, oSrc b n]
def ops2 (d a : BitVec 7) (n : Nat) : List Operand := [oDst d n, oSrc a n]

/-- Registers per thread of a load or store: a narrow size moves one (R215). -/
def memN (w : BitVec 2) (n : BitVec 1) : Nat := if n == 1#1 then 1 else widthN w

/-- Registers of an atomic's operand type (R307). -/
def typN (t : BitVec 3) : Nat := if t == 2#3 || t == 3#3 || t == 5#3 then 2 else 1

/-- Registers of a CVT integer type and a CVT float code (R287). -/
def cvtIntN (i : BitVec 2) : Nat := if i.toNat ≥ 2 then 2 else 1
def cvtFltN (f : Nat) : Nat := if f == 1 then 2 else 1

end Sys2Proof.Machine

namespace Sys2Proof
open Machine

/-- The operand codes of an encoded instruction, in the order of its fields; an event has none. -/
def Instr.operands : Instr → List Operand
  | .iadd w d a b | .isub w d a b | .iadds w d a b | .isubs w d a b | .imul w d a b | .imulhI32 w d a b
  | .imulhN32 w d a b | .andR w d a b | .orR w d a b | .xorR w d a b | .andn w d a b | .shl w d a b | .shr w d a b
  | .sar w d a b | .rotl w d a b | .fadd w d a b | .fsub w d a b | .fmul w d a b
  | .fmin w d a b | .fmax w d a b | .fminm w d a b | .fcpysgn w d a b | .fdiv w d a b | .hadd2 w d a b | .hsub2 w d a b
  | .hmul2 w d a b | .badd2 w d a b | .bsub2 w d a b | .bmul2 w d a b | .hmin2 w d a b | .hmax2 w d a b | .bmin2 w d a b
  | .bmax2 w d a b | .scaleb w d a b => ops3 d a b (widthN w)
  | .idiv w d a b _ | .irem w d a b _ | .imin w d a b _ | .imax w d a b _ | .bfx w d a b _ | .sel w d a b _ =>
    ops3 d a b (widthN w)
  | .imad w d a b | .bfi w d a b | .bytsel w d a b | .fmac w d a b | .hmac2 w d a b | .bmac2 w d a b =>
    ops3rw d a b (widthN w)
  | .dp4 w d a b _ | .dp2 w d a b _ => ops3rw d a b (widthN w)
  | .lxch w d a b _ => ops3 d a b (widthN w)
  | .popc w d a | .clz w d a | .ctz w d a | .brev w d a | .iabs w d a | .ineg w d a | .mov w d a | .notR w d a
  | .fsqrt w d a | .frcp w d a | .frsq w d a | .fexp2 w d a | .flog2 w d a | .fsin w d a | .fcos w d a | .ftanh w d a
  | .fsigm w d a | .ferf w d a | .fclass w d a | .frnd w d a | .frndNx w d a => ops2 d a (widthN w)
  | .icmp w _ _ a b _ | .fcmp w _ _ a b _ => [oSrc a (widthN w), oSrc b (widthN w)]
  | .lea d a b => ops3 d a b 2
  | .leas d a b _ => [oDst d 2, oSrc a 2, oSrc b 2]
  | .iaddi d a _ | .andi d a _ | .ori d a _ | .xori d a _ | .shli d a _ | .shri d a _ | .sari d a _ | .rotli d a _
  | .imuli d a _ => [oDst d 1, oSrcI a]
  | .movi d _ => [oDst d 1]
  | .icmpi _ _ _ a _ => [oSrcI a]
  | .imini _ d a _ | .imaxi _ d a _ => [oDst d 1, oSrcI a]
  | .ballot w d a | .lanesAll w d a | .lanesAny w d a => [oDstU d 1, oSrc a (widthN w)]
  | .peers w d a => [oOut .vOnly d 1, oSrc a (widthN w)]
  | .rank d a => ops2 d a 1
  | .mpopc d a => [oDstU d 1, oSrc a 1]
  | .lfold w d a _ _ => [oDstU d (widthN w), oSrc a (widthN w)]
  | .cvtIntToFloat d a i f => [oDst d (cvtFltN f.toNat), oSrc a (cvtIntN i)]
  | .cvtFloatToInt d a i f => [oDst d (cvtIntN i), oSrc a (cvtFltN f.toNat)]
  | .cvtFloat d a s f => [oDst d (cvtFltN f.toNat), oSrc a (cvtFltN s.toNat)]
  | .pack8 d a _ _ => [oRw d 1, oSrc a 1]
  | .unpack8 d a _ _ => ops2 d a 1
  | .pack4 _ d a _ => [oRw d 1, oSrc a 1]
  | .unpack4 _ d a _ => ops2 d a 1
  | .xval d a b => ops3 d a b 1
  | .sadd .. | .ssub .. | .smul .. | .smin .. | .smax .. | .sminn .. | .smaxn .. | .sand .. | .sor .. | .sxor ..
  | .sshl .. | .sshr .. | .ssar .. | .srotl .. | .smov .. | .smovi .. | .scmp .. | .ssel .. | .vrd .. | .vwr ..
  | .slea .. => []
  | .ld w d p n _ => [oOut .load d (memN w n), oAddr p false]
  | .st w d p n _ => [oIn .store d (memN w n), oAddr p false]
  | .lds w d p n _ => [oOut .load d (memN w n), oAddr p true]
  | .sts w d p n _ => [oIn .store d (memN w n), oAddr p true]
  | .ldu w d p _ => [oOut .sOne d (widthN w), oAddrU p]
  | .stu w d p _ => [oIn .sOne d (widthN w), oAddrU p]
  | .ldx d p _ => [oOut .load d 1, oAddr p true]
  | .stx d p _ => [oIn .store d 1, oAddr p true]
  | .ldacq w d p _ s _ => [oOut .load d (widthN w), oAddr p (s == 1#1)]
  | .strel w d p _ s _ => [oIn .store d (widthN w), oAddr p (s == 1#1)]
  | .pref p => [oAddr p false]
  | .wbr l p _ | .invr l p _ | .invd l p _ | .xpub l p _ => [oIn .len l 1, oAddr p false]
  | .setf p _ _ => [oAddr p true]
  | .clrf p _ => [oAddr p true]
  | .ownseg d p | .dropseg d p => [oOut .own d 1, oAddr p true]
  | .aadd _ d p s f _ t | .amin _ d p s f _ t | .amax _ d p s f _ t | .aand _ d p s f _ t | .aor _ d p s f _ t
  | .axor _ d p s f _ t | .axchg _ d p s f _ t =>
    [{ cls := .atom, code := d.toNat, n := typN t, read := true, write := f == 1#1 }, oAddr p (s == 1#1)]
  | .acas _ d p s f _ t =>
    [{ cls := .atom, code := d.toNat, n := 2 * typN t, read := true, write := f == 1#1 }, oAddr p (s == 1#1)]
  | .red _ d p s _ t _ => [oIn .atom d (typN t), oAddr p (s == 1#1)]
  | .fence _ => []
  | .barinit d p s _ | .bararr d p s _ | .barwait d p s _ => [oBoth .atom d 1, oAddr p (s == 1#1)]
  | .barkill d p s _ => [oOut .atom d 1, oAddr p (s == 1#1)]
  | .waitaddr w d p _ s _ => [oBoth .atom d (widthN w), oAddr p (s == 1#1)]
  | .tlwait _ n d => [oIn .pairX n 2, oOut .status d 1]
  | .tlread _ d => [oOut .pair d 2]
  | .rsect | .rsecx | .qpass => []
  | .gpwait t d => [oOut .comp t 2, oOut .status d 1]
  | .timeat t => [oIn .pairX t 2]
  | .timerd d => [oOut .pair d 2]
  | .bra .. => []
  | .brx a => [oIn .pair a 2]
  | .call => []
  | .callx a => [oIn .pair a 2]
  | .ret | .join _ | .leave _ | .waitm _ => []
  | .mset _ s => [oIn .mset s 1]
  | .mand .. | .mor .. | .mxor .. | .mnot .. | .mmov .. | .prio _ | .nop | .exitI | .trap _ | .bkpt _ => []
  | .csrr .. | .csrw .. | .csrs .. | .csrc .. | .role .. | .pstat .. | .sysc _ | .eret | .halt | .btinv .. | .tfence ..
  | .ctxsv _ | .ctxld _ | .xw _ | .xh _ | .xm .. => []
  | .wload _ d b c => [oIn .sQuad d 4, oIn .sPairZ b 2, oOut .comp c 2]
  | .wswap c | .aclr c | .mxres c => [oOut .comp c 2]
  | .mma _ v s c | .mmax _ v s c | .ast _ v s c => [oIn .vPair v 2, oIn .sPair s 2, oOut .comp c 2]
  | .aclrRows a c => [oIn .sOne a 1, oOut .comp c 2]
  | .ard d i => [oOut .vQuad d 4, oIn .index i 1]
  | .awr d i => [oIn .vQuad d 4, oIn .index i 1]
  | .mxcfg a => [oIn .sOne a 1]
  | .mxstat _ d => [oOut .sOne d 1]
  | .strm _ b c => [oIn .desc b 8, oOut .comp c 2]
  | .strq _ d => [oOut .sOne d 1]
  | .strqEnd _ => []
  | .cpy b v c | .cpym b v c | .gath b v c | .scat b v c => [oIn .desc b 8, oIn .sOneZ v 1, oOut .comp c 2]
  | .cpst d n _ => [oOut .sQuad d 4, oIn .sPair n 2]
  | .dbw h v c => [oIn .sPair h 2, oIn .sOne v 1, oOut .comp c 2]
  | .dbwX2 h v c => [oIn .sPair h 2, oIn .sPair v 2, oOut .comp c 2]
  | .nmc b w c => [oIn .desc b 8, oIn .sPairZ w 2, oOut .comp c 2]
  | .launch p s c => [oIn .sPair p 2, oOut .sOneD s 1, oOut .comp c 2]
  | .tpost p r c | .defer p r c => [oIn .sPair p 2, oOut .sPairD r 2, oOut .comp c 2]
  | .tjoin i s c => [oIn .sOne i 1, oOut .sOneD s 1, oOut .comp c 2]
  | .coll b c => [oIn .desc b 8, oOut .comp c 2]
  | .cabort m c => [oIn .sOne m 1, oOut .comp c 2]
  | .cstat m d => [oIn .sOne m 1, oOut .sQuad d 4]
  | .bteFetch .. | .walkStart .. | .walkComplete .. | .pageFaultRecord .. | .pfqrespRetry .. | .pfqrespFail ..
  | .pfqrespClearErr .. | .pfqrespIgnored .. | .pinitStart .. | .poolInitDone .. | .bankWake .. | .windowMove ..
  | .segmentMove .. | .cchBankDrain .. | .bankClear .. | .patrolScrub .. | .homeLoadMiss .. | .homeStoreMiss ..
  | .homeRedMiss .. | .homeAtomic .. | .writeBack .. | .recall .. | .shuOperation .. | .segmentTransfer ..
  | .leaseRequest .. | .leaseReleaseRequest .. | .leaseRelease .. | .holderLeaseExpiry .. | .homeLeaseExpiry ..
  | .leaseDrift .. | .ifetchMiss .. | .dxForcedPublish .. | .xframeSet .. | .xframeClear .. | .hbmctlRetire ..
  | .channelTrainingFail .. | .repairLimit .. | .rebuildSegment .. | .nmuExecute .. | .nmuComplete .. | .cxlTimeout ..
  | .cxlLinkEvent .. | .cxlctlResume .. | .keySlotLoad .. | .sealctlReinit .. | .sealctlPoolinit .. | .sealCommandDone ..
  | .rcbupdUpdate .. | .rcbupdClrfault .. | .rcbupdApply | .rgnkill .. | .hqptrPut .. | .packetTake ..
  | .workgroupPlace .. | .glenCompaction .. | .taskStart .. | .taskWaitSave .. | .taskRequeue .. | .quantumExpiry ..
  | .quantumSave .. | .yieldSave .. | .workgroupRestore .. | .turnLimit .. | .starvedTurn .. | .entryAgeLimit ..
  | .febTimeout .. | .waitTimeout .. | .timeatRelease .. | .timedStart .. | .budgetPeriod .. | .engineClaim ..
  | .matrixUnit .. | .matrixComplete .. | .streamWord .. | .cqbusyTimeout .. | .copyStart .. | .copyComplete ..
  | .doorbellSend .. | .msixArrival .. | .endpointRequest .. | .atsTranslationRequest .. | .priPageRequest ..
  | .atsInvalTimeout .. | .barRequestTimeout .. | .ntbPeerRequest .. | .linkTrained .. | .rpctlDpcRelease .. | .collStep ..
  | .collStepTimeout .. | .abortNotice .. | .commcmdCreate .. | .commcmdReform .. | .commcmdDestroy .. | .reformAck ..
  | .reformAckTimeout .. | .exclusionNotice .. | .stepRejection .. | .moduleReset .. | .measExtend .. | .svcupUp
  | .powerStep .. | .gtbsyncSrc .. | .lapseEntryClear .. | .lapsectlClear .. | .dbgcmdHalt .. | .dbgcmdResume ..
  | .dbgcmdStep .. | .dbgcmdRead .. | .dbgcmdWrite .. | .dbgwpbWrite .. | .capabilityRecheck .. | .pcSample ..
  | .registerWrite .. | .illegalEncoding .. | .atsInvalidationCompletion .. | .rootPortCompletion .. | .cxlMemCompletion ..
  | .pcieLinkDown .. | .hbmTrainingDone | .gtbDiscipline .. => []

/-- Width classes (R264): `wd` odd with W32, above 1 with E, nonzero with Z do not agree with the type (reason 0x05). -/
def badW32 (w : BitVec 2) : Option Nat := if w == 0#2 || w == 2#2 then none else some 0x05
def badE (w : BitVec 2) : Option Nat := if w.toNat ≤ 1 then none else some 0x05
def badZ (w : BitVec 2) : Option Nat := if w == 0#2 then none else some 0x05
def badMask (m : BitVec 4) : Option Nat := if m.toNat ≤ 11 then none else some 0x03

/-- Both checks, the lower reason first. -/
def bothBad (x y : Option Nat) : Option Nat :=
  match x, y with
  | some a, some b => some (min a b)
  | some a, none => some a
  | none, y => y

def failIf (c : Bool) (r : Nat) : Option Nat := if c then some r else none

/-- An atomic's type and width (R307, R308): `maxT` the highest type accepted. -/
def badAtomic (w : BitVec 2) (t : BitVec 3) (maxT : Nat) : Option Nat :=
  bothBad (failIf (maxT < t.toNat) 0x03) (failIf (w.toNat != typN t - 1) 0x05)

/-- RED's operation {F, OP} and its types (R308). -/
def badRed (w : BitVec 2) (t : BitVec 3) (f : BitVec 1) (o : BitVec 2) : Option Nat :=
  let op := 4 * f.toNat + o.toNat
  bothBad (failIf (5 < op) 0x03) (badAtomic w t (if op == 0 then 5 else 3))

/-- A uniform operand y: K = 0 reserves bits 8:6 (R214). -/
def badY (k : BitVec 1) (y : BitVec 9) : Option Nat := failIf (k == 0#1 && (y.extractLsb' 6 3) != 0#3) 0x02

/-- System sd: s0 to s15 (reason 0x04), aligned as the instruction requires (reason 0x04) (R333). -/
def badSd (d : BitVec 6) (m : Nat) : Option Nat := failIf (15 < d.toNat || d.toNat % m != 0) 0x04

/-- Width, alignment and value of CSR numbers (R334, R335): 64-bit CSRs. -/
def csrWide (c : BitVec 12) : Bool := c == 0x030#12 || c == 0x041#12 || c == 0x042#12

/-- Whether the CSR map assigns the number (R335). -/
def csrAssigned (c : BitVec 12) : Bool :=
  let n := c.toNat
  n ≤ 1 || (0x010 ≤ n && n ≤ 0x013) || (0x020 ≤ n && n ≤ 0x029) || n == 0x030 || n == 0x031
    || (0x040 ≤ n && n ≤ 0x044) || n == 0x050

/-- Field values the description does not assign, beyond the operand codes: the ILLOP reason (R230, R231). -/
def Instr.fieldBad : Instr → Option Nat
  | .imulhI32 w _ _ _ | .imulhN32 w _ _ _ | .bfi w _ _ _ | .bytsel w _ _ _ => badW32 w
  | .bfx w _ _ _ _ | .dp4 w _ _ _ _ | .dp2 w _ _ _ _ => badW32 w
  | .icmp w _ m _ _ _ => bothBad (badMask m) (badE w)
  | .fcmp w _ m _ _ _ => bothBad (badMask m) (badE w)
  | .icmpi _ _ m _ _ => badMask m
  | .leas _ _ _ s => failIf (s == 0#2) 0x03
  | .ballot w _ _ | .lanesAll w _ _ | .lanesAny w _ _ | .peers w _ _ => badE w
  | .lfold w _ _ o k =>
    bothBad (failIf (if k == 0#1 then 7 < o.toNat else !(o == 0#7 || o == 1#7 || o == 3#7)) 0x03) (badE w)
  | .cvtFloat _ _ s f => failIf (5 < s.toNat || 5 < f.toNat || s == f) 0x03
  | .pack8 _ _ f _ | .unpack8 _ _ f _ => failIf (4 < f.toNat) 0x03
  | .pack4 w _ _ _ | .unpack4 w _ _ _ => badZ w
  | .sadd _ _ k y | .ssub _ _ k y | .smul _ _ k y | .smin _ _ k y | .smax _ _ k y | .sminn _ _ k y | .smaxn _ _ k y
  | .sand _ _ k y | .sor _ _ k y | .sxor _ _ k y | .scmp _ _ k y => badY k y
  | .sshl _ _ k y | .sshr _ _ k y | .ssar _ _ k y | .srotl _ _ k y => badY k y
  | .vrd _ _ j | .vwr _ _ j => failIf (95 < j.toNat) 0x03
  | .slea _ d a k y => bothBad (badY k y) (failIf (d.toNat % 2 == 1 || a.toNat % 2 == 1) 0x05)
  | .st w _ _ n _ | .sts w _ _ n _ => failIf (n == 1#1 && (w == 1#2 || w == 3#2)) 0x03
  | .ldacq w .. | .strel w .. => failIf (w == 3#2) 0x03
  | .aadd w _ _ _ _ _ t | .axchg w _ _ _ _ _ t => badAtomic w t 5
  | .amin w _ _ _ _ _ t | .amax w _ _ _ _ _ t | .aand w _ _ _ _ _ t | .aor w _ _ _ _ _ t | .axor w _ _ _ _ _ t
  | .acas w _ _ _ _ _ t => badAtomic w t 3
  | .red w _ _ _ f t o => badRed w t f o
  | .waitaddr w .. => failIf (1 < w.toNat) 0x03
  | .tlwait t .. | .tlread t .. => failIf (8 < t.toNat) 0x03
  | .bra m p _ => failIf (12 < m.toNat || (m == 12#4 && p == 1#1)) 0x03
  | .join m | .leave m | .waitm m => failIf (11 < m.toNat) 0x03
  | .mset d _ => failIf (11 < d.toNat) 0x03
  | .mand d a b | .mor d a b | .mxor d a b => failIf (11 < d.toNat || 11 < a.toNat || 11 < b.toNat) 0x03
  | .mnot d a => failIf (11 < d.toNat || 11 < a.toNat) 0x03
  | .mmov d a => bothBad (failIf (11 < a.toNat) 0x03) (failIf (!(d.toNat ≤ 11 || (104 ≤ d.toNat && d.toNat < 120))) 0x04)
  | .csrr d c | .csrw d c | .csrs d c | .csrc d c =>
    bothBad (failIf (!csrAssigned c) 0x03) (badSd d (if csrWide c then 2 else 1))
  | .role d a => bothBad (badSd d 4) (failIf (15 < a.toNat) 0x04)
  | .pstat d _ => badSd d 1
  | .btinv d _ _ => badSd d 2
  | .tfence d _ _ k => bothBad (failIf (45 < k.toNat) 0x03) (badSd d 4)
  | .ctxsv d | .ctxld d => badSd d 4
  | .xm r _ _ _ _ _ p l _ c =>
    failIf (r == 7#3 || 12 < p.toNat || (p == 12#4 && l == 1#1) || 4 < c.toNat) 0x03
  | .wload t d b c => let _ := (t, d, b, c); none
  | .mxstat s _ => failIf (3 < s.toNat) 0x03
  | .strm q _ _ | .strq q _ | .strqEnd q => failIf (3 < q.toNat) 0x03
  | .cpst _ _ t => failIf (15 < t.toNat) 0x03
  | .ldu w d _ _ | .stu w d _ _ => let _ := (w, d); none
  | _ => none

/-- The ILLOP reason of an encoded instruction taken by itself, without its hints: the lowest that applies. -/
def Instr.illegal (i : Instr) : Option Nat :=
  i.operands.foldl (fun r o => bothBad r o.bad) i.fieldBad

/-- Encoded instructions, rows 0 to 229 of the table; the rest are events. -/
def Instr.isHint : Instr → Bool
  | .xw _ | .xh _ | .xm .. => true
  | _ => false

/-- Whether the format carries imm9 that an XW extends (R226, R277, R291, R296). -/
def Instr.takesXw : Instr → Bool
  | .iaddi .. | .andi .. | .ori .. | .xori .. | .shli .. | .shri .. | .sari .. | .rotli .. | .movi .. | .imuli ..
  | .icmpi .. | .imini .. | .imaxi .. | .smovi .. | .ld .. | .st .. | .lds .. | .sts .. | .ldu .. | .stu .. => true
  | .sadd _ _ k _ | .ssub _ _ k _ | .smul _ _ k _ | .smin _ _ k _ | .smax _ _ k _ | .sminn _ _ k _ | .smaxn _ _ k _
  | .sand _ _ k _ | .sor _ _ k _ | .sxor _ _ k _ | .scmp _ _ k _ | .slea _ _ _ k _ => k == 1#1
  | .sshl _ _ k _ | .sshr _ _ k _ | .ssar _ _ k _ | .srotl _ _ k _ => k == 1#1
  | _ => false

/-- Whether a source operand is coded 127, so that an XW supplies it (R217, R226); the a of a CALL always is (R324). -/
def Instr.uses127 : Instr → Bool
  | .call => true
  | i => i.operands.any fun o => o.code == 127 && o.read && !o.write

/-- The modifiers an instruction accepts (R228, R265 and the XM columns). -/
def Instr.mods : Instr → Mods
  | .iadd .. | .isub .. | .imul .. | .imad .. | .iabs .. | .ineg .. | .dp4 .. | .dp2 .. | .iaddi .. | .imuli .. =>
    { sat := true, pred := true }
  | .sel .. => { opd := true, own := true, pred := true }
  | .lfold _ _ _ _ k => { rm := k == 1#1, opd := k == 1#1, pred := true }
  | .fadd .. | .fsub .. | .fmul .. | .fmac .. | .fdiv .. | .fsqrt .. | .frcp .. | .frsq .. | .fexp2 .. | .flog2 ..
  | .fsin .. | .fcos .. | .hadd2 .. | .hsub2 .. | .hmul2 .. | .hmac2 .. | .badd2 .. | .bsub2 .. | .bmul2 .. | .bmac2 .. =>
    { rm := true, sat := true, ab := true, opd := true, pred := true }
  | .fmin .. | .fmax .. | .fminm .. | .fcpysgn .. | .fcmp .. | .hmin2 .. | .hmax2 .. | .bmin2 .. | .bmax2 .. =>
    { ab := true, pred := true }
  | .ftanh .. | .fsigm .. | .ferf .. | .frnd .. | .frndNx .. => { rm := true, ab := true, opd := true, pred := true }
  | .cvtIntToFloat .. | .cvtFloatToInt .. | .cvtFloat .. | .pack8 .. | .scaleb .. | .xval .. =>
    { rm := true, sat := true, opd := true, pred := true }
  | .unpack4 .. => { rm := true, sat := true, opd := true, own := true, pred := true }
  | .pack4 .. => { rm := true, opd := true, pred := true }
  | .iadds .. | .isubs .. | .imulhI32 .. | .imulhN32 .. | .idiv .. | .irem .. | .imin .. | .imax .. | .andR .. | .orR ..
  | .xorR .. | .andn .. | .shl .. | .shr .. | .sar .. | .rotl .. | .popc .. | .clz .. | .ctz .. | .brev .. | .bfx ..
  | .bfi .. | .bytsel .. | .icmp .. | .mov .. | .notR .. | .lea .. | .leas .. | .andi .. | .ori .. | .xori .. | .shli ..
  | .shri .. | .sari .. | .rotli .. | .movi .. | .icmpi .. | .imini .. | .imaxi .. | .lxch .. | .ballot .. | .lanesAll ..
  | .lanesAny .. | .peers .. | .rank .. | .mpopc .. | .fclass .. | .unpack8 .. => { pred := true }
  | .ld .. | .st .. | .lds .. | .sts .. | .ldx .. | .stx .. | .ldacq .. | .strel .. | .pref .. | .wbr .. | .invr ..
  | .invd .. | .setf .. | .clrf .. | .ownseg .. | .dropseg .. | .aadd .. | .amin .. | .amax .. | .aand .. | .aor ..
  | .axor .. | .axchg .. | .acas .. | .red .. | .fence .. | .xpub .. | .barinit .. | .bararr .. | .barwait ..
  | .barkill .. | .waitaddr .. | .timeat .. => { pred := true }
  | .tlwait .. | .tlread .. => { pred := true, scope := true }
  | .bra .. | .brx .. | .call | .callx .. | .ret | .join .. | .leave .. | .waitm .. | .prio .. | .exitI | .trap ..
  | .bkpt .. => { pred := true }
  | .wload .. | .wswap .. | .aclr .. | .aclrRows .. | .mxres .. => { scope := true }
  | .mma .. | .mmax .. => { pred := true, scope := true }
  | .ast .. => { pred := true, scope := true, rm := true }
  | .ard .. | .awr .. => { pred := true }
  | .strm .. | .strqEnd .. | .dbw .. | .dbwX2 .. | .nmc .. | .launch .. | .tpost .. | .tjoin .. | .defer ..
  | .cabort .. => { pred := true, scope := true }
  | .strq .. | .cpst .. | .cstat .. => { pred := true }
  | .cpy .. | .cpym .. | .gath .. | .scat .. | .coll .. => { pred := true, scope := true, opd := true, own := true }
  | _ => {}

/-- Whether the instruction may stand in a hold window (R220): majors 0x01–0x14, 0x1C–0x1F, 0x20–0x29, 0x30–0x36, LDS. -/
def Instr.windowOk : Instr → Bool
  | .iadd .. | .isub .. | .iadds .. | .isubs .. | .imul .. | .imulhI32 .. | .imulhN32 .. | .imad .. | .idiv .. | .irem ..
  | .imin .. | .imax .. | .andR .. | .orR .. | .xorR .. | .andn .. | .shl .. | .shr .. | .sar .. | .rotl .. | .popc ..
  | .clz .. | .ctz .. | .brev .. | .bfx .. | .bfi .. | .bytsel .. | .icmp .. | .sel .. | .iabs .. | .ineg .. | .mov ..
  | .notR .. | .dp4 .. | .dp2 .. | .lea .. | .leas .. | .iaddi .. | .andi .. | .ori .. | .xori .. | .shli .. | .shri ..
  | .sari .. | .rotli .. | .movi .. | .imuli .. | .icmpi .. | .imini .. | .imaxi .. | .lxch .. | .ballot .. | .lanesAll ..
  | .lanesAny .. | .peers .. | .rank .. | .mpopc .. | .lfold .. | .fadd .. | .fsub .. | .fmul .. | .fmac .. | .fmin ..
  | .fmax .. | .fminm .. | .fcpysgn .. | .fcmp .. | .fdiv .. | .fsqrt .. | .frcp .. | .frsq .. | .fexp2 .. | .flog2 ..
  | .fsin .. | .fcos .. | .ftanh .. | .fsigm .. | .ferf .. | .fclass .. | .hadd2 .. | .hsub2 .. | .hmul2 .. | .hmac2 ..
  | .badd2 .. | .bsub2 .. | .bmul2 .. | .bmac2 .. | .hmin2 .. | .hmax2 .. | .bmin2 .. | .bmax2 .. | .frnd .. | .frndNx ..
  | .cvtIntToFloat .. | .cvtFloatToInt .. | .cvtFloat .. | .pack8 .. | .unpack8 .. | .pack4 .. | .unpack4 .. | .scaleb ..
  | .xval .. | .lds .. => true
  | _ => false

/-- Registers the fourth operand named by XM OPD has: the widest operand's (R228, R248, R274), a time pair for the
engine commands (R369). -/
def Instr.opdWidth : Instr → Nat
  | .cpy .. | .cpym .. | .gath .. | .scat .. | .coll .. => 2
  | .cvtFloatToInt _ _ i _ => cvtIntN i
  | .cvtIntToFloat _ _ _ f => cvtFltN f.toNat
  | .cvtFloat _ _ _ f => cvtFltN f.toNat
  | .pack4 _ _ _ k => if k.toNat ≥ 4 then 2 else 1
  | i => (i.operands.head?.map (·.n)).getD 1

/-- Instructions that end the SFR of their active threads: classes ACQ, REL, AR, SECTION and ISSUE (R127, R128). -/
def Instr.endsSfr : Instr → Bool
  | .ldacq .. | .waitaddr .. | .barwait .. | .tlwait .. | .tlread .. | .gpwait .. => true
  | .strel .. | .barinit .. | .bararr .. | .barkill .. | .setf .. | .qpass | .exitI => true
  | .aadd .. | .amin .. | .amax .. | .aand .. | .aor .. | .axor .. | .axchg .. | .acas .. | .fence .. | .xpub .. => true
  | .rsect | .rsecx | .timeat .. | .ownseg .. | .dropseg .. => true
  | .wload .. | .wswap .. | .mma .. | .mmax .. | .aclr .. | .aclrRows .. | .ast .. | .mxres .. | .strm .. | .strqEnd ..
  | .cpy .. | .cpym .. | .gath .. | .scat .. | .dbw .. | .dbwX2 .. | .nmc .. | .launch .. | .tpost .. | .tjoin ..
  | .defer .. | .coll .. | .cabort .. => true
  | _ => false

/-- Whether the instruction acts once per issue on uniform state, with no active-thread set: it accepts no PRED and runs
for the whole entry (R291, R298, R319, R321, R329, R333). -/
def Instr.isUniform : Instr → Bool
  | .sadd .. | .ssub .. | .smul .. | .smin .. | .smax .. | .sminn .. | .smaxn .. | .sand .. | .sor .. | .sxor .. | .sshl ..
  | .sshr .. | .ssar .. | .srotl .. | .smov .. | .smovi .. | .scmp .. | .ssel .. | .vrd .. | .vwr .. | .slea .. | .ldu ..
  | .stu .. | .rsect | .rsecx | .qpass | .gpwait .. | .timerd .. | .mset .. | .mand .. | .mor .. | .mxor .. | .mnot ..
  | .mmov .. | .nop | .csrr .. | .csrw .. | .csrs .. | .csrc .. | .role .. | .pstat .. | .sysc _ | .eret | .halt
  | .btinv .. | .tfence .. | .ctxsv _ | .ctxld _ | .wload .. | .wswap .. | .aclr .. | .aclrRows .. | .mxres .. | .mxcfg ..
  | .mxstat .. => true
  | _ => false

end Sys2Proof
end

