-- ==== Sys2Proof/WellFormed.lean ====
section
/-! DEFINITION. Which instructions are well formed: the encoded ones that are no illegal encoding taken by themselves. -/
namespace Sys2Proof

/-- Whether the instruction is one of the 120 events, which have no encoding. -/
def Instr.isEvent (i : Instr) : Bool := 230 ≤ i.ctorIdx

/-- An encoded instruction is well formed when no field of it is illegal (R217, R218, R230, R264). -/
def Instr.wellFormed (i : Instr) : Bool := !i.isEvent && i.illegal.isNone

end Sys2Proof
end

