-- ==== Sys2Proof/Decode.lean ====
section
/-! DEFINITION. The decoder: total on any word, answering the instruction or the ILLOP reason (R212 to R231), and the
encoder, both laid out from the formats of R214 and the opcode map of R232. -/
namespace Sys2Proof

/-- Bits lo + n - 1 to lo of a word. -/
def fld (w : BitVec 32) (lo n : Nat) : BitVec n := w.extractLsb' lo n

/-- Require a field to hold `v`, else answer reason `r`. -/
def need (w : BitVec 32) (lo n v r : Nat) (k : Except Nat Instr) : Except Nat Instr :=
  if (fld w lo n).toNat = v then k else .error r

/-- The instruction a word names, or why it is illegal: unassigned majors 0x01, nonzero reserved fields 0x02, unassigned
sub, func or field values 0x03 (R372 gives it to the operands that it has be 0), a width field the instruction fixes 0x05 in format R and 0x03 in format M. -/
def decodeRaw (w : BitVec 32) : Except Nat Instr :=
  match (fld w 25 7).toNat with
  | 0x01 =>
    match (fld w 0 2).toNat with
    | 0 => .ok (.iadd (fld w 23 2) (fld w 16 7) (fld w 9 7) (fld w 2 7))
    | 1 => .ok (.isub (fld w 23 2) (fld w 16 7) (fld w 9 7) (fld w 2 7))
    | 2 => .ok (.iadds (fld w 23 2) (fld w 16 7) (fld w 9 7) (fld w 2 7))
    | _ => .ok (.isubs (fld w 23 2) (fld w 16 7) (fld w 9 7) (fld w 2 7))
  | 0x02 =>
    match (fld w 0 2).toNat with
    | 0 => .ok (.imul (fld w 23 2) (fld w 16 7) (fld w 9 7) (fld w 2 7))
    | 1 => .ok (.imulhI32 (fld w 23 2) (fld w 16 7) (fld w 9 7) (fld w 2 7))
    | 2 => .ok (.imulhN32 (fld w 23 2) (fld w 16 7) (fld w 9 7) (fld w 2 7))
    | _ => .ok (.imad (fld w 23 2) (fld w 16 7) (fld w 9 7) (fld w 2 7))
  | 0x03 =>
    match (fld w 0 2).toNat with
    | 0 | 1 => .ok (.idiv (fld w 23 2) (fld w 16 7) (fld w 9 7) (fld w 2 7) (fld w 0 1))
    | _ => .ok (.irem (fld w 23 2) (fld w 16 7) (fld w 9 7) (fld w 2 7) (fld w 0 1))
  | 0x04 =>
    match (fld w 0 2).toNat with
    | 0 | 1 => .ok (.imin (fld w 23 2) (fld w 16 7) (fld w 9 7) (fld w 2 7) (fld w 0 1))
    | _ => .ok (.imax (fld w 23 2) (fld w 16 7) (fld w 9 7) (fld w 2 7) (fld w 0 1))
  | 0x05 =>
    match (fld w 0 2).toNat with
    | 0 => .ok (.andR (fld w 23 2) (fld w 16 7) (fld w 9 7) (fld w 2 7))
    | 1 => .ok (.orR (fld w 23 2) (fld w 16 7) (fld w 9 7) (fld w 2 7))
    | 2 => .ok (.xorR (fld w 23 2) (fld w 16 7) (fld w 9 7) (fld w 2 7))
    | _ => .ok (.andn (fld w 23 2) (fld w 16 7) (fld w 9 7) (fld w 2 7))
  | 0x06 =>
    match (fld w 0 2).toNat with
    | 0 => .ok (.shl (fld w 23 2) (fld w 16 7) (fld w 9 7) (fld w 2 7))
    | 1 => .ok (.shr (fld w 23 2) (fld w 16 7) (fld w 9 7) (fld w 2 7))
    | 2 => .ok (.sar (fld w 23 2) (fld w 16 7) (fld w 9 7) (fld w 2 7))
    | _ => .ok (.rotl (fld w 23 2) (fld w 16 7) (fld w 9 7) (fld w 2 7))
  | 0x07 =>
    match (fld w 0 2).toNat with
    | 0 => need w 2 7 0 2 (.ok (.popc (fld w 23 2) (fld w 16 7) (fld w 9 7)))
    | 1 => need w 2 7 0 2 (.ok (.clz (fld w 23 2) (fld w 16 7) (fld w 9 7)))
    | 2 => need w 2 7 0 2 (.ok (.ctz (fld w 23 2) (fld w 16 7) (fld w 9 7)))
    | _ => need w 2 7 0 2 (.ok (.brev (fld w 23 2) (fld w 16 7) (fld w 9 7)))
  | 0x08 =>
    match (fld w 0 2).toNat with
    | 0 | 1 => .ok (.bfx (fld w 23 2) (fld w 16 7) (fld w 9 7) (fld w 2 7) (fld w 0 1))
    | 2 => .ok (.bfi (fld w 23 2) (fld w 16 7) (fld w 9 7) (fld w 2 7))
    | _ => .ok (.bytsel (fld w 23 2) (fld w 16 7) (fld w 9 7) (fld w 2 7))
  | 0x09 => .ok (.icmp (fld w 23 2) (fld w 20 3) (fld w 16 4) (fld w 9 7) (fld w 2 7) (fld w 0 2))
  | 0x0A => .ok (.sel (fld w 23 2) (fld w 16 7) (fld w 9 7) (fld w 2 7) (fld w 0 2))
  | 0x0B =>
    match (fld w 0 2).toNat with
    | 0 => need w 2 7 0 2 (.ok (.iabs (fld w 23 2) (fld w 16 7) (fld w 9 7)))
    | 1 => need w 2 7 0 2 (.ok (.ineg (fld w 23 2) (fld w 16 7) (fld w 9 7)))
    | 2 => need w 2 7 0 2 (.ok (.mov (fld w 23 2) (fld w 16 7) (fld w 9 7)))
    | _ => need w 2 7 0 2 (.ok (.notR (fld w 23 2) (fld w 16 7) (fld w 9 7)))
  | 0x0C =>
    match (fld w 0 2).toNat with
    | 0 | 1 => .ok (.dp4 (fld w 23 2) (fld w 16 7) (fld w 9 7) (fld w 2 7) (fld w 0 1))
    | _ => .ok (.dp2 (fld w 23 2) (fld w 16 7) (fld w 9 7) (fld w 2 7) (fld w 0 1))
  | 0x0D =>
    match (fld w 0 2).toNat with
    | 0 => need w 23 2 1 5 (.ok (.lea (fld w 16 7) (fld w 9 7) (fld w 2 7)))
    | _ => need w 23 2 1 5 (.ok (.leas (fld w 16 7) (fld w 9 7) (fld w 2 7) (fld w 0 2)))
  | 0x0E =>
    match (fld w 23 2).toNat with
    | 0 => .ok (.iaddi (fld w 16 7) (fld w 9 7) (fld w 0 9))
    | _ => .error 0x03
  | 0x0F =>
    match (fld w 23 2).toNat with
    | 0 => .ok (.andi (fld w 16 7) (fld w 9 7) (fld w 0 9))
    | 1 => .ok (.ori (fld w 16 7) (fld w 9 7) (fld w 0 9))
    | 2 => .ok (.xori (fld w 16 7) (fld w 9 7) (fld w 0 9))
    | _ => .error 0x03
  | 0x10 =>
    match (fld w 23 2).toNat with
    | 0 => .ok (.shli (fld w 16 7) (fld w 9 7) (fld w 0 9))
    | 1 => .ok (.shri (fld w 16 7) (fld w 9 7) (fld w 0 9))
    | 2 => .ok (.sari (fld w 16 7) (fld w 9 7) (fld w 0 9))
    | _ => .ok (.rotli (fld w 16 7) (fld w 9 7) (fld w 0 9))
  | 0x11 =>
    match (fld w 23 2).toNat with
    | 0 => need w 9 7 0 2 (.ok (.movi (fld w 16 7) (fld w 0 9)))
    | _ => .error 0x03
  | 0x12 =>
    match (fld w 23 2).toNat with
    | 0 => .ok (.imuli (fld w 16 7) (fld w 9 7) (fld w 0 9))
    | _ => .error 0x03
  | 0x13 => .ok (.icmpi (fld w 23 2) (fld w 20 3) (fld w 16 4) (fld w 9 7) (fld w 0 9))
  | 0x14 =>
    match (fld w 23 2).toNat with
    | 0 | 1 => .ok (.imini (fld w 23 1) (fld w 16 7) (fld w 9 7) (fld w 0 9))
    | _ => .ok (.imaxi (fld w 23 1) (fld w 16 7) (fld w 9 7) (fld w 0 9))
  | 0x1C => .ok (.lxch (fld w 23 2) (fld w 16 7) (fld w 9 7) (fld w 2 7) (fld w 0 2))
  | 0x1D =>
    match (fld w 0 2).toNat with
    | 0 => need w 2 7 0 2 (.ok (.ballot (fld w 23 2) (fld w 16 7) (fld w 9 7)))
    | 1 => need w 2 7 0 2 (.ok (.lanesAll (fld w 23 2) (fld w 16 7) (fld w 9 7)))
    | 2 => need w 2 7 0 2 (.ok (.lanesAny (fld w 23 2) (fld w 16 7) (fld w 9 7)))
    | _ => need w 2 7 0 2 (.ok (.peers (fld w 23 2) (fld w 16 7) (fld w 9 7)))
  | 0x1E =>
    match (fld w 0 2).toNat with
    | 0 => need w 2 7 0 2 (need w 23 2 0 5 (.ok (.rank (fld w 16 7) (fld w 9 7))))
    | 1 => need w 2 7 0 2 (need w 23 2 0 5 (.ok (.mpopc (fld w 16 7) (fld w 9 7))))
    | _ => .error 0x03
  | 0x1F =>
    match (fld w 0 2).toNat with
    | 0 | 1 => .ok (.lfold (fld w 23 2) (fld w 16 7) (fld w 9 7) (fld w 2 7) (fld w 0 1))
    | _ => .error 0x03
  | 0x20 =>
    match (fld w 0 2).toNat with
    | 0 => .ok (.fadd (fld w 23 2) (fld w 16 7) (fld w 9 7) (fld w 2 7))
    | 1 => .ok (.fsub (fld w 23 2) (fld w 16 7) (fld w 9 7) (fld w 2 7))
    | 2 => .ok (.fmul (fld w 23 2) (fld w 16 7) (fld w 9 7) (fld w 2 7))
    | _ => .ok (.fmac (fld w 23 2) (fld w 16 7) (fld w 9 7) (fld w 2 7))
  | 0x21 =>
    match (fld w 0 2).toNat with
    | 0 => .ok (.fmin (fld w 23 2) (fld w 16 7) (fld w 9 7) (fld w 2 7))
    | 1 => .ok (.fmax (fld w 23 2) (fld w 16 7) (fld w 9 7) (fld w 2 7))
    | 2 => .ok (.fminm (fld w 23 2) (fld w 16 7) (fld w 9 7) (fld w 2 7))
    | _ => .ok (.fcpysgn (fld w 23 2) (fld w 16 7) (fld w 9 7) (fld w 2 7))
  | 0x22 => .ok (.fcmp (fld w 23 2) (fld w 20 3) (fld w 16 4) (fld w 9 7) (fld w 2 7) (fld w 0 2))
  | 0x23 =>
    match (fld w 0 2).toNat with
    | 0 => .ok (.fdiv (fld w 23 2) (fld w 16 7) (fld w 9 7) (fld w 2 7))
    | 1 => need w 2 7 0 2 (.ok (.fsqrt (fld w 23 2) (fld w 16 7) (fld w 9 7)))
    | 2 => need w 2 7 0 2 (.ok (.frcp (fld w 23 2) (fld w 16 7) (fld w 9 7)))
    | _ => need w 2 7 0 2 (.ok (.frsq (fld w 23 2) (fld w 16 7) (fld w 9 7)))
  | 0x24 =>
    match (fld w 0 2).toNat with
    | 0 => need w 2 7 0 2 (.ok (.fexp2 (fld w 23 2) (fld w 16 7) (fld w 9 7)))
    | 1 => need w 2 7 0 2 (.ok (.flog2 (fld w 23 2) (fld w 16 7) (fld w 9 7)))
    | 2 => need w 2 7 0 2 (.ok (.fsin (fld w 23 2) (fld w 16 7) (fld w 9 7)))
    | _ => need w 2 7 0 2 (.ok (.fcos (fld w 23 2) (fld w 16 7) (fld w 9 7)))
  | 0x25 =>
    match (fld w 0 2).toNat with
    | 0 => need w 2 7 0 2 (.ok (.ftanh (fld w 23 2) (fld w 16 7) (fld w 9 7)))
    | 1 => need w 2 7 0 2 (.ok (.fsigm (fld w 23 2) (fld w 16 7) (fld w 9 7)))
    | 2 => need w 2 7 0 2 (.ok (.ferf (fld w 23 2) (fld w 16 7) (fld w 9 7)))
    | _ => need w 2 7 0 2 (.ok (.fclass (fld w 23 2) (fld w 16 7) (fld w 9 7)))
  | 0x26 =>
    match (fld w 0 2).toNat with
    | 0 => .ok (.hadd2 (fld w 23 2) (fld w 16 7) (fld w 9 7) (fld w 2 7))
    | 1 => .ok (.hsub2 (fld w 23 2) (fld w 16 7) (fld w 9 7) (fld w 2 7))
    | 2 => .ok (.hmul2 (fld w 23 2) (fld w 16 7) (fld w 9 7) (fld w 2 7))
    | _ => .ok (.hmac2 (fld w 23 2) (fld w 16 7) (fld w 9 7) (fld w 2 7))
  | 0x27 =>
    match (fld w 0 2).toNat with
    | 0 => .ok (.badd2 (fld w 23 2) (fld w 16 7) (fld w 9 7) (fld w 2 7))
    | 1 => .ok (.bsub2 (fld w 23 2) (fld w 16 7) (fld w 9 7) (fld w 2 7))
    | 2 => .ok (.bmul2 (fld w 23 2) (fld w 16 7) (fld w 9 7) (fld w 2 7))
    | _ => .ok (.bmac2 (fld w 23 2) (fld w 16 7) (fld w 9 7) (fld w 2 7))
  | 0x28 =>
    match (fld w 0 2).toNat with
    | 0 => .ok (.hmin2 (fld w 23 2) (fld w 16 7) (fld w 9 7) (fld w 2 7))
    | 1 => .ok (.hmax2 (fld w 23 2) (fld w 16 7) (fld w 9 7) (fld w 2 7))
    | 2 => .ok (.bmin2 (fld w 23 2) (fld w 16 7) (fld w 9 7) (fld w 2 7))
    | _ => .ok (.bmax2 (fld w 23 2) (fld w 16 7) (fld w 9 7) (fld w 2 7))
  | 0x29 =>
    match (fld w 0 2).toNat with
    | 0 => need w 2 7 0 2 (.ok (.frnd (fld w 23 2) (fld w 16 7) (fld w 9 7)))
    | 1 => need w 2 7 0 2 (.ok (.frndNx (fld w 23 2) (fld w 16 7) (fld w 9 7)))
    | _ => .error 0x03
  | 0x30 =>
    match (fld w 0 2).toNat with
    | 0 => need w 2 3 0 2 (need w 23 2 0 5 (.ok (.cvtIntToFloat (fld w 16 7) (fld w 9 7) (fld w 7 2) (fld w 5 2))))
    | 1 => need w 2 3 0 2 (need w 23 2 0 5 (.ok (.cvtFloatToInt (fld w 16 7) (fld w 9 7) (fld w 7 2) (fld w 5 2))))
    | _ => .error 0x03
  | 0x31 =>
    match (fld w 0 2).toNat with
    | 0 => need w 2 1 0 2 (need w 23 2 0 5 (.ok (.cvtFloat (fld w 16 7) (fld w 9 7) (fld w 6 3) (fld w 3 3))))
    | _ => .error 0x03
  | 0x32 => need w 2 4 0 2 (need w 23 2 0 5 (.ok (.pack8 (fld w 16 7) (fld w 9 7) (fld w 6 3) (fld w 0 2))))
  | 0x33 => need w 2 4 0 2 (need w 23 2 0 5 (.ok (.unpack8 (fld w 16 7) (fld w 9 7) (fld w 6 3) (fld w 0 2))))
  | 0x34 =>
    match (fld w 0 2).toNat with
    | 0 => need w 2 4 0 2 (.ok (.pack4 (fld w 23 2) (fld w 16 7) (fld w 9 7) (fld w 6 3)))
    | _ => .error 0x03
  | 0x35 =>
    match (fld w 0 2).toNat with
    | 0 => need w 2 4 0 2 (.ok (.unpack4 (fld w 23 2) (fld w 16 7) (fld w 9 7) (fld w 6 3)))
    | _ => .error 0x03
  | 0x36 =>
    match (fld w 0 2).toNat with
    | 0 => .ok (.scaleb (fld w 23 2) (fld w 16 7) (fld w 9 7) (fld w 2 7))
    | 1 => need w 23 2 0 5 (.ok (.xval (fld w 16 7) (fld w 9 7) (fld w 2 7)))
    | _ => .error 0x03
  | 0x38 =>
    match (fld w 22 3).toNat with
    | 0 => .ok (.sadd (fld w 16 6) (fld w 10 6) (fld w 9 1) (fld w 0 9))
    | 1 => .ok (.ssub (fld w 16 6) (fld w 10 6) (fld w 9 1) (fld w 0 9))
    | 2 => .ok (.smul (fld w 16 6) (fld w 10 6) (fld w 9 1) (fld w 0 9))
    | 3 => .ok (.smin (fld w 16 6) (fld w 10 6) (fld w 9 1) (fld w 0 9))
    | 4 => .ok (.smax (fld w 16 6) (fld w 10 6) (fld w 9 1) (fld w 0 9))
    | 5 => .ok (.sminn (fld w 16 6) (fld w 10 6) (fld w 9 1) (fld w 0 9))
    | 6 => .ok (.smaxn (fld w 16 6) (fld w 10 6) (fld w 9 1) (fld w 0 9))
    | _ => .error 0x03
  | 0x39 =>
    match (fld w 22 3).toNat with
    | 0 => .ok (.sand (fld w 16 6) (fld w 10 6) (fld w 9 1) (fld w 0 9))
    | 1 => .ok (.sor (fld w 16 6) (fld w 10 6) (fld w 9 1) (fld w 0 9))
    | 2 => .ok (.sxor (fld w 16 6) (fld w 10 6) (fld w 9 1) (fld w 0 9))
    | 3 => .ok (.sshl (fld w 16 6) (fld w 10 6) (fld w 9 1) (fld w 0 9))
    | 4 => .ok (.sshr (fld w 16 6) (fld w 10 6) (fld w 9 1) (fld w 0 9))
    | 5 => .ok (.ssar (fld w 16 6) (fld w 10 6) (fld w 9 1) (fld w 0 9))
    | 6 => .ok (.srotl (fld w 16 6) (fld w 10 6) (fld w 9 1) (fld w 0 9))
    | _ => .error 0x03
  | 0x3A =>
    match (fld w 22 3).toNat with
    | 0 => need w 10 6 0 2 (need w 6 3 0 2 (need w 9 1 0 3 (.ok (.smov (fld w 16 6) (fld w 0 6)))))
    | 1 => need w 10 6 0 2 (need w 9 1 1 3 (.ok (.smovi (fld w 16 6) (fld w 0 9))))
    | 2 => .ok (.scmp (fld w 16 6) (fld w 10 6) (fld w 9 1) (fld w 0 9))
    | 3 => need w 6 3 0 2 (need w 9 1 0 3 (.ok (.ssel (fld w 16 6) (fld w 10 6) (fld w 0 6))))
    | _ => .error 0x03
  | 0x3B =>
    match (fld w 22 3).toNat with
    | 0 => need w 7 2 0 2 (need w 9 1 1 3 (.ok (.vrd (fld w 16 6) (fld w 10 6) (fld w 0 7))))
    | 1 => need w 7 2 0 2 (need w 9 1 1 3 (.ok (.vwr (fld w 16 6) (fld w 10 6) (fld w 0 7))))
    | _ => .error 0x03
  | 0x3C =>
    match (fld w 22 3).toNat with
    | 0 | 1 | 2 | 3 => .ok (.slea (fld w 22 2) (fld w 16 6) (fld w 10 6) (fld w 9 1) (fld w 0 9))
    | _ => .error 0x03
  | 0x40 => .ok (.ld (fld w 23 2) (fld w 16 7) (fld w 10 6) (fld w 9 1) (fld w 0 9))
  | 0x41 => .ok (.st (fld w 23 2) (fld w 16 7) (fld w 10 6) (fld w 9 1) (fld w 0 9))
  | 0x42 => .ok (.lds (fld w 23 2) (fld w 16 7) (fld w 10 6) (fld w 9 1) (fld w 0 9))
  | 0x43 => .ok (.sts (fld w 23 2) (fld w 16 7) (fld w 10 6) (fld w 9 1) (fld w 0 9))
  | 0x44 =>
    match (fld w 9 1).toNat with
    | 0 => .ok (.ldu (fld w 23 2) (fld w 16 7) (fld w 10 6) (fld w 0 9))
    | _ => .ok (.stu (fld w 23 2) (fld w 16 7) (fld w 10 6) (fld w 0 9))
  | 0x45 =>
    match (fld w 9 1).toNat with
    | 0 => need w 23 2 0 3 (.ok (.ldx (fld w 16 7) (fld w 10 6) (fld w 0 9)))
    | _ => need w 23 2 0 3 (.ok (.stx (fld w 16 7) (fld w 10 6) (fld w 0 9)))
  | 0x46 =>
    match (fld w 9 1).toNat with
    | 0 => .ok (.ldacq (fld w 23 2) (fld w 16 7) (fld w 10 6) (fld w 7 2) (fld w 6 1) (fld w 0 6))
    | _ => .ok (.strel (fld w 23 2) (fld w 16 7) (fld w 10 6) (fld w 7 2) (fld w 6 1) (fld w 0 6))
  | 0x47 =>
    match (fld w 7 2).toNat with
    | 0 => need w 16 7 0 2 (need w 0 7 0 2 (need w 9 1 0 3 (need w 23 2 0 3 (.ok (.pref (fld w 10 6))))))
    | 1 => need w 0 5 0 2 (need w 9 1 0 3 (need w 23 2 0 3 (.ok (.wbr (fld w 16 7) (fld w 10 6) (fld w 5 2)))))
    | 2 => need w 0 5 0 2 (need w 9 1 0 3 (need w 23 2 0 3 (.ok (.invr (fld w 16 7) (fld w 10 6) (fld w 5 2)))))
    | _ => need w 0 5 0 2 (need w 9 1 0 3 (need w 23 2 0 3 (.ok (.invd (fld w 16 7) (fld w 10 6) (fld w 5 2)))))
  | 0x48 =>
    match (fld w 9 1).toNat with
    | 0 => need w 16 7 0 2 (need w 23 2 0 3 (.ok (.setf (fld w 10 6) (fld w 7 2) (fld w 0 7))))
    | _ => need w 16 7 0 2 (need w 7 2 0 2 (need w 23 2 0 3 (.ok (.clrf (fld w 10 6) (fld w 0 7)))))
  | 0x49 =>
    match (fld w 9 1).toNat with
    | 0 => need w 0 9 0 2 (need w 23 2 0 3 (.ok (.ownseg (fld w 16 7) (fld w 10 6))))
    | _ => need w 0 9 0 2 (need w 23 2 0 3 (.ok (.dropseg (fld w 16 7) (fld w 10 6))))
  | 0x50 =>
    match (fld w 0 2).toNat with
    | 0 => need w 9 1 0 3 (.ok (.aadd (fld w 23 2) (fld w 16 7) (fld w 10 6) (fld w 8 1) (fld w 7 1) (fld w 5 2) (fld w 2 3)))
    | _ => .error 0x03
  | 0x51 =>
    match (fld w 0 2).toNat with
    | 0 => need w 9 1 0 3 (.ok (.amin (fld w 23 2) (fld w 16 7) (fld w 10 6) (fld w 8 1) (fld w 7 1) (fld w 5 2) (fld w 2 3)))
    | 1 => need w 9 1 0 3 (.ok (.amax (fld w 23 2) (fld w 16 7) (fld w 10 6) (fld w 8 1) (fld w 7 1) (fld w 5 2) (fld w 2 3)))
    | _ => .error 0x03
  | 0x52 =>
    match (fld w 0 2).toNat with
    | 0 => need w 9 1 0 3 (.ok (.aand (fld w 23 2) (fld w 16 7) (fld w 10 6) (fld w 8 1) (fld w 7 1) (fld w 5 2) (fld w 2 3)))
    | 1 => need w 9 1 0 3 (.ok (.aor (fld w 23 2) (fld w 16 7) (fld w 10 6) (fld w 8 1) (fld w 7 1) (fld w 5 2) (fld w 2 3)))
    | 2 => need w 9 1 0 3 (.ok (.axor (fld w 23 2) (fld w 16 7) (fld w 10 6) (fld w 8 1) (fld w 7 1) (fld w 5 2) (fld w 2 3)))
    | _ => need w 9 1 0 3 (.ok (.axchg (fld w 23 2) (fld w 16 7) (fld w 10 6) (fld w 8 1) (fld w 7 1) (fld w 5 2) (fld w 2 3)))
  | 0x53 =>
    match (fld w 0 2).toNat with
    | 0 => need w 9 1 0 3 (.ok (.acas (fld w 23 2) (fld w 16 7) (fld w 10 6) (fld w 8 1) (fld w 7 1) (fld w 5 2) (fld w 2 3)))
    | _ => .error 0x03
  | 0x54 => need w 5 2 0 2 (need w 9 1 0 3 (.ok (.red (fld w 23 2) (fld w 16 7) (fld w 10 6) (fld w 8 1) (fld w 7 1) (fld w 2 3) (fld w 0 2))))
  | 0x58 => .ok (.bra (fld w 21 4) (fld w 20 1) (fld w 0 20))
  | 0x59 =>
    match (fld w 0 2).toNat with
    | 0 => need w 16 7 0 2 (need w 2 7 0 2 (need w 23 2 1 5 (.ok (.brx (fld w 9 7)))))
    | _ => .error 0x03
  | 0x5A =>
    match (fld w 0 2).toNat with
    | 0 => need w 16 7 0 2 (need w 2 7 0 2 (need w 9 7 127 4 (need w 23 2 0 5 (.ok .call))))
    | 1 => need w 16 7 0 2 (need w 2 7 0 2 (need w 23 2 1 5 (.ok (.callx (fld w 9 7)))))
    | 2 => need w 2 21 0 2 (need w 23 2 0 5 (.ok .ret))
    | _ => .error 0x03
  | 0x5B =>
    match (fld w 21 4).toNat with
    | 0 => need w 0 14 0 2 (.ok (.join (fld w 14 7)))
    | 1 => need w 0 14 0 2 (.ok (.leave (fld w 14 7)))
    | 2 => need w 0 14 0 2 (.ok (.waitm (fld w 14 7)))
    | _ => .error 0x03
  | 0x5C =>
    match (fld w 21 4).toNat with
    | 0 => need w 0 7 0 2 (.ok (.mset (fld w 14 7) (fld w 7 7)))
    | 1 => .ok (.mand (fld w 14 7) (fld w 7 7) (fld w 0 7))
    | 2 => .ok (.mor (fld w 14 7) (fld w 7 7) (fld w 0 7))
    | 3 => .ok (.mxor (fld w 14 7) (fld w 7 7) (fld w 0 7))
    | 4 => need w 0 7 0 2 (.ok (.mnot (fld w 14 7) (fld w 7 7)))
    | 5 => need w 0 7 0 2 (.ok (.mmov (fld w 14 7) (fld w 7 7)))
    | _ => .error 0x03
  | 0x5D =>
    match (fld w 23 2).toNat with
    | 0 => need w 9 14 0 2 (need w 8 1 0 3 (.ok (.prio (fld w 0 8))))
    | _ => .error 0x03
  | 0x5E =>
    match (fld w 16 9).toNat with
    | 0 => need w 0 16 0 2 (.ok .nop)
    | 1 => need w 0 16 0 2 (.ok .exitI)
    | 2 => .ok (.trap (fld w 0 16))
    | 3 => .ok (.bkpt (fld w 0 16))
    | _ => .error 0x03
  | 0x60 =>
    match (fld w 7 2).toNat with
    | 0 => need w 10 13 0 2 (need w 0 5 0 2 (need w 9 1 0 3 (need w 23 2 0 3 (.ok (.fence (fld w 5 2))))))
    | 1 => need w 0 5 0 2 (need w 9 1 0 3 (need w 23 2 0 3 (.ok (.xpub (fld w 16 7) (fld w 10 6) (fld w 5 2)))))
    | _ => .error 0x03
  | 0x61 =>
    match (fld w 7 2).toNat with
    | 0 => need w 0 4 0 2 (need w 9 1 0 3 (need w 23 2 0 3 (.ok (.barinit (fld w 16 7) (fld w 10 6) (fld w 6 1) (fld w 4 2)))))
    | 1 => need w 0 4 0 2 (need w 9 1 0 3 (need w 23 2 0 3 (.ok (.bararr (fld w 16 7) (fld w 10 6) (fld w 6 1) (fld w 4 2)))))
    | 2 => need w 0 4 0 2 (need w 9 1 0 3 (need w 23 2 0 3 (.ok (.barwait (fld w 16 7) (fld w 10 6) (fld w 6 1) (fld w 4 2)))))
    | _ => need w 0 4 0 2 (need w 9 1 0 3 (need w 23 2 0 3 (.ok (.barkill (fld w 16 7) (fld w 10 6) (fld w 6 1) (fld w 4 2)))))
  | 0x62 => need w 0 3 0 2 (need w 9 1 0 3 (.ok (.waitaddr (fld w 23 2) (fld w 16 7) (fld w 10 6) (fld w 6 3) (fld w 5 1) (fld w 3 2))))
  | 0x63 =>
    match (fld w 21 4).toNat with
    | 0 => .ok (.tlwait (fld w 14 7) (fld w 7 7) (fld w 0 7))
    | 1 => need w 7 7 0 2 (.ok (.tlread (fld w 14 7) (fld w 0 7)))
    | _ => .error 0x03
  | 0x64 =>
    match (fld w 21 4).toNat with
    | 0 => need w 0 21 0 2 (.ok .rsect)
    | 1 => need w 0 21 0 2 (.ok .rsecx)
    | 2 => need w 0 21 0 2 (.ok .qpass)
    | 3 => need w 7 7 0 2 (.ok (.gpwait (fld w 14 7) (fld w 0 7)))
    | _ => .error 0x03
  | 0x65 =>
    match (fld w 21 4).toNat with
    | 0 => need w 14 7 0 2 (need w 0 7 0 2 (.ok (.timeat (fld w 7 7))))
    | 1 => need w 7 14 0 2 (.ok (.timerd (fld w 0 7)))
    | _ => .error 0x03
  | 0x68 =>
    match (fld w 21 4).toNat with
    | 0 | 1 => .ok (.wload (fld w 21 1) (fld w 14 7) (fld w 7 7) (fld w 0 7))
    | _ => .error 0x03
  | 0x69 =>
    match (fld w 21 4).toNat with
    | 0 => need w 7 14 0 2 (.ok (.wswap (fld w 0 7)))
    | _ => .error 0x03
  | 0x6A =>
    match (fld w 21 4).toNat with
    | 0 | 1 | 2 | 3 | 4 | 5 | 6 | 7 => .ok (.mma (fld w 21 3) (fld w 14 7) (fld w 7 7) (fld w 0 7))
    | _ => .error 0x03
  | 0x6B =>
    match (fld w 21 4).toNat with
    | 0 | 1 | 2 | 3 | 4 | 5 | 6 | 7 => .ok (.mmax (fld w 21 3) (fld w 14 7) (fld w 7 7) (fld w 0 7))
    | _ => .error 0x03
  | 0x6C =>
    match (fld w 21 4).toNat with
    | 0 => need w 7 14 0 2 (.ok (.aclr (fld w 0 7)))
    | 1 => need w 7 7 0 2 (.ok (.aclrRows (fld w 14 7) (fld w 0 7)))
    | _ => .error 0x03
  | 0x6D =>
    match (fld w 21 4).toNat with
    | 0 => need w 0 7 0 2 (.ok (.ard (fld w 14 7) (fld w 7 7)))
    | 1 => need w 0 7 0 2 (.ok (.awr (fld w 14 7) (fld w 7 7)))
    | _ => .error 0x03
  | 0x6E =>
    match (fld w 21 4).toNat with
    | 0 | 1 | 2 | 3 | 4 | 5 | 6 | 7 => .ok (.ast (fld w 21 3) (fld w 14 7) (fld w 7 7) (fld w 0 7))
    | _ => .error 0x03
  | 0x6F =>
    match (fld w 21 4).toNat with
    | 0 => need w 0 14 0 2 (.ok (.mxcfg (fld w 14 7)))
    | 1 => need w 7 7 0 2 (.ok (.mxstat (fld w 14 7) (fld w 0 7)))
    | 2 => need w 7 14 0 2 (.ok (.mxres (fld w 0 7)))
    | _ => .error 0x03
  | 0x70 =>
    match (fld w 21 4).toNat with
    | 0 => .ok (.strm (fld w 14 7) (fld w 7 7) (fld w 0 7))
    | 1 => need w 7 7 0 3 (.ok (.strq (fld w 14 7) (fld w 0 7)))
    | 2 => need w 0 14 0 3 (.ok (.strqEnd (fld w 14 7)))
    | _ => .error 0x03
  | 0x71 =>
    match (fld w 21 4).toNat with
    | 0 => .ok (.cpy (fld w 14 7) (fld w 7 7) (fld w 0 7))
    | 1 => .ok (.cpym (fld w 14 7) (fld w 7 7) (fld w 0 7))
    | 2 => .ok (.cpst (fld w 14 7) (fld w 7 7) (fld w 0 7))
    | _ => .error 0x03
  | 0x72 =>
    match (fld w 21 4).toNat with
    | 0 => .ok (.gath (fld w 14 7) (fld w 7 7) (fld w 0 7))
    | 1 => .ok (.scat (fld w 14 7) (fld w 7 7) (fld w 0 7))
    | _ => .error 0x03
  | 0x73 =>
    match (fld w 21 4).toNat with
    | 0 => .ok (.dbw (fld w 14 7) (fld w 7 7) (fld w 0 7))
    | 1 => .ok (.dbwX2 (fld w 14 7) (fld w 7 7) (fld w 0 7))
    | _ => .error 0x03
  | 0x74 =>
    match (fld w 21 4).toNat with
    | 0 => .ok (.nmc (fld w 14 7) (fld w 7 7) (fld w 0 7))
    | _ => .error 0x03
  | 0x75 =>
    match (fld w 21 4).toNat with
    | 0 => .ok (.launch (fld w 14 7) (fld w 7 7) (fld w 0 7))
    | 1 => .ok (.tpost (fld w 14 7) (fld w 7 7) (fld w 0 7))
    | 2 => .ok (.tjoin (fld w 14 7) (fld w 7 7) (fld w 0 7))
    | 3 => .ok (.defer (fld w 14 7) (fld w 7 7) (fld w 0 7))
    | _ => .error 0x03
  | 0x76 =>
    match (fld w 21 4).toNat with
    | 0 => need w 7 7 0 3 (.ok (.coll (fld w 14 7) (fld w 0 7)))
    | 1 => need w 7 7 0 3 (.ok (.cabort (fld w 14 7) (fld w 0 7)))
    | 2 => need w 7 7 0 3 (.ok (.cstat (fld w 14 7) (fld w 0 7)))
    | _ => .error 0x03
  | 0x78 =>
    match (fld w 22 3).toNat with
    | 0 => need w 12 4 0 2 (.ok (.csrr (fld w 16 6) (fld w 0 12)))
    | 1 => need w 12 4 0 2 (.ok (.csrw (fld w 16 6) (fld w 0 12)))
    | 2 => need w 12 4 0 2 (.ok (.csrs (fld w 16 6) (fld w 0 12)))
    | 3 => need w 12 4 0 2 (.ok (.csrc (fld w 16 6) (fld w 0 12)))
    | _ => .error 0x03
  | 0x79 =>
    match (fld w 22 3).toNat with
    | 0 => need w 0 10 0 2 (.ok (.role (fld w 16 6) (fld w 10 6)))
    | 1 => need w 9 7 0 2 (.ok (.pstat (fld w 16 6) (fld w 0 9)))
    | _ => .error 0x03
  | 0x7A =>
    match (fld w 22 3).toNat with
    | 0 => need w 16 6 0 2 (.ok (.sysc (fld w 0 16)))
    | 1 => need w 0 22 0 2 (.ok .eret)
    | 2 => need w 0 22 0 2 (.ok .halt)
    | _ => .error 0x03
  | 0x7B =>
    match (fld w 22 3).toNat with
    | 0 => need w 0 13 0 2 (.ok (.btinv (fld w 16 6) (fld w 14 2) (fld w 13 1)))
    | 1 => need w 6 7 0 2 (.ok (.tfence (fld w 16 6) (fld w 14 2) (fld w 13 1) (fld w 0 6)))
    | _ => .error 0x03
  | 0x7C =>
    match (fld w 22 3).toNat with
    | 0 => need w 0 16 0 2 (.ok (.ctxsv (fld w 16 6)))
    | 1 => need w 0 16 0 2 (.ok (.ctxld (fld w 16 6)))
    | _ => .error 0x03
  | 0x7F =>
    match (fld w 23 2).toNat with
    | 0 => .ok (.xw (fld w 0 23))
    | 1 => need w 3 20 0 2 (.ok (.xh (fld w 0 3)))
    | 2 => .ok (.xm (fld w 20 3) (fld w 19 1) (fld w 18 1) (fld w 17 1) (fld w 16 1) (fld w 15 1) (fld w 11 4) (fld w 10 1) (fld w 3 7) (fld w 0 3))
    | _ => .error 0x03
  | _ => .error 0x01

/-- Decode a word: the instruction, or its ILLOP reason (R231), operand codes and widths included. -/
def decodeWord (w : BitVec 32) : Except Nat Instr :=
  match decodeRaw w with
  | .ok i => match i.illegal with
    | none => .ok i
    | some r => .error r
  | .error r => .error r

/-- The word of an encoded instruction as a number; an event has none. -/
def encodeNat : Instr → Option Nat
  | .iadd w d a b => some (0x02000000 + w.toNat * 8388608 + d.toNat * 65536 + a.toNat * 512 + b.toNat * 4)
  | .isub w d a b => some (0x02000001 + w.toNat * 8388608 + d.toNat * 65536 + a.toNat * 512 + b.toNat * 4)
  | .iadds w d a b => some (0x02000002 + w.toNat * 8388608 + d.toNat * 65536 + a.toNat * 512 + b.toNat * 4)
  | .isubs w d a b => some (0x02000003 + w.toNat * 8388608 + d.toNat * 65536 + a.toNat * 512 + b.toNat * 4)
  | .imul w d a b => some (0x04000000 + w.toNat * 8388608 + d.toNat * 65536 + a.toNat * 512 + b.toNat * 4)
  | .imulhI32 w d a b => some (0x04000001 + w.toNat * 8388608 + d.toNat * 65536 + a.toNat * 512 + b.toNat * 4)
  | .imulhN32 w d a b => some (0x04000002 + w.toNat * 8388608 + d.toNat * 65536 + a.toNat * 512 + b.toNat * 4)
  | .imad w d a b => some (0x04000003 + w.toNat * 8388608 + d.toNat * 65536 + a.toNat * 512 + b.toNat * 4)
  | .idiv w d a b s => some (0x06000000 + w.toNat * 8388608 + d.toNat * 65536 + a.toNat * 512 + b.toNat * 4 + s.toNat)
  | .irem w d a b s => some (0x06000002 + w.toNat * 8388608 + d.toNat * 65536 + a.toNat * 512 + b.toNat * 4 + s.toNat)
  | .imin w d a b s => some (0x08000000 + w.toNat * 8388608 + d.toNat * 65536 + a.toNat * 512 + b.toNat * 4 + s.toNat)
  | .imax w d a b s => some (0x08000002 + w.toNat * 8388608 + d.toNat * 65536 + a.toNat * 512 + b.toNat * 4 + s.toNat)
  | .andR w d a b => some (0x0A000000 + w.toNat * 8388608 + d.toNat * 65536 + a.toNat * 512 + b.toNat * 4)
  | .orR w d a b => some (0x0A000001 + w.toNat * 8388608 + d.toNat * 65536 + a.toNat * 512 + b.toNat * 4)
  | .xorR w d a b => some (0x0A000002 + w.toNat * 8388608 + d.toNat * 65536 + a.toNat * 512 + b.toNat * 4)
  | .andn w d a b => some (0x0A000003 + w.toNat * 8388608 + d.toNat * 65536 + a.toNat * 512 + b.toNat * 4)
  | .shl w d a b => some (0x0C000000 + w.toNat * 8388608 + d.toNat * 65536 + a.toNat * 512 + b.toNat * 4)
  | .shr w d a b => some (0x0C000001 + w.toNat * 8388608 + d.toNat * 65536 + a.toNat * 512 + b.toNat * 4)
  | .sar w d a b => some (0x0C000002 + w.toNat * 8388608 + d.toNat * 65536 + a.toNat * 512 + b.toNat * 4)
  | .rotl w d a b => some (0x0C000003 + w.toNat * 8388608 + d.toNat * 65536 + a.toNat * 512 + b.toNat * 4)
  | .popc w d a => some (0x0E000000 + w.toNat * 8388608 + d.toNat * 65536 + a.toNat * 512)
  | .clz w d a => some (0x0E000001 + w.toNat * 8388608 + d.toNat * 65536 + a.toNat * 512)
  | .ctz w d a => some (0x0E000002 + w.toNat * 8388608 + d.toNat * 65536 + a.toNat * 512)
  | .brev w d a => some (0x0E000003 + w.toNat * 8388608 + d.toNat * 65536 + a.toNat * 512)
  | .bfx w d a b s => some (0x10000000 + w.toNat * 8388608 + d.toNat * 65536 + a.toNat * 512 + b.toNat * 4 + s.toNat)
  | .bfi w d a b => some (0x10000002 + w.toNat * 8388608 + d.toNat * 65536 + a.toNat * 512 + b.toNat * 4)
  | .bytsel w d a b => some (0x10000003 + w.toNat * 8388608 + d.toNat * 65536 + a.toNat * 512 + b.toNat * 4)
  | .icmp w c m a b o => some (0x12000000 + w.toNat * 8388608 + c.toNat * 1048576 + m.toNat * 65536 + a.toNat * 512 + b.toNat * 4 + o.toNat)
  | .sel w d a b t => some (0x14000000 + w.toNat * 8388608 + d.toNat * 65536 + a.toNat * 512 + b.toNat * 4 + t.toNat)
  | .iabs w d a => some (0x16000000 + w.toNat * 8388608 + d.toNat * 65536 + a.toNat * 512)
  | .ineg w d a => some (0x16000001 + w.toNat * 8388608 + d.toNat * 65536 + a.toNat * 512)
  | .mov w d a => some (0x16000002 + w.toNat * 8388608 + d.toNat * 65536 + a.toNat * 512)
  | .notR w d a => some (0x16000003 + w.toNat * 8388608 + d.toNat * 65536 + a.toNat * 512)
  | .dp4 w d a b s => some (0x18000000 + w.toNat * 8388608 + d.toNat * 65536 + a.toNat * 512 + b.toNat * 4 + s.toNat)
  | .dp2 w d a b s => some (0x18000002 + w.toNat * 8388608 + d.toNat * 65536 + a.toNat * 512 + b.toNat * 4 + s.toNat)
  | .lea d a b => some (0x1A800000 + d.toNat * 65536 + a.toNat * 512 + b.toNat * 4)
  | .leas d a b s => some (0x1A800000 + d.toNat * 65536 + a.toNat * 512 + b.toNat * 4 + s.toNat)
  | .iaddi d a i => some (0x1C000000 + d.toNat * 65536 + a.toNat * 512 + i.toNat)
  | .andi d a i => some (0x1E000000 + d.toNat * 65536 + a.toNat * 512 + i.toNat)
  | .ori d a i => some (0x1E800000 + d.toNat * 65536 + a.toNat * 512 + i.toNat)
  | .xori d a i => some (0x1F000000 + d.toNat * 65536 + a.toNat * 512 + i.toNat)
  | .shli d a i => some (0x20000000 + d.toNat * 65536 + a.toNat * 512 + i.toNat)
  | .shri d a i => some (0x20800000 + d.toNat * 65536 + a.toNat * 512 + i.toNat)
  | .sari d a i => some (0x21000000 + d.toNat * 65536 + a.toNat * 512 + i.toNat)
  | .rotli d a i => some (0x21800000 + d.toNat * 65536 + a.toNat * 512 + i.toNat)
  | .movi d i => some (0x22000000 + d.toNat * 65536 + i.toNat)
  | .imuli d a i => some (0x24000000 + d.toNat * 65536 + a.toNat * 512 + i.toNat)
  | .icmpi o c m a i => some (0x26000000 + o.toNat * 8388608 + c.toNat * 1048576 + m.toNat * 65536 + a.toNat * 512 + i.toNat)
  | .imini s d a i => some (0x28000000 + s.toNat * 8388608 + d.toNat * 65536 + a.toNat * 512 + i.toNat)
  | .imaxi s d a i => some (0x29000000 + s.toNat * 8388608 + d.toNat * 65536 + a.toNat * 512 + i.toNat)
  | .lxch w d a b v => some (0x38000000 + w.toNat * 8388608 + d.toNat * 65536 + a.toNat * 512 + b.toNat * 4 + v.toNat)
  | .ballot w d a => some (0x3A000000 + w.toNat * 8388608 + d.toNat * 65536 + a.toNat * 512)
  | .lanesAll w d a => some (0x3A000001 + w.toNat * 8388608 + d.toNat * 65536 + a.toNat * 512)
  | .lanesAny w d a => some (0x3A000002 + w.toNat * 8388608 + d.toNat * 65536 + a.toNat * 512)
  | .peers w d a => some (0x3A000003 + w.toNat * 8388608 + d.toNat * 65536 + a.toNat * 512)
  | .rank d a => some (0x3C000000 + d.toNat * 65536 + a.toNat * 512)
  | .mpopc d a => some (0x3C000001 + d.toNat * 65536 + a.toNat * 512)
  | .lfold w d a o k => some (0x3E000000 + w.toNat * 8388608 + d.toNat * 65536 + a.toNat * 512 + o.toNat * 4 + k.toNat)
  | .fadd w d a b => some (0x40000000 + w.toNat * 8388608 + d.toNat * 65536 + a.toNat * 512 + b.toNat * 4)
  | .fsub w d a b => some (0x40000001 + w.toNat * 8388608 + d.toNat * 65536 + a.toNat * 512 + b.toNat * 4)
  | .fmul w d a b => some (0x40000002 + w.toNat * 8388608 + d.toNat * 65536 + a.toNat * 512 + b.toNat * 4)
  | .fmac w d a b => some (0x40000003 + w.toNat * 8388608 + d.toNat * 65536 + a.toNat * 512 + b.toNat * 4)
  | .fmin w d a b => some (0x42000000 + w.toNat * 8388608 + d.toNat * 65536 + a.toNat * 512 + b.toNat * 4)
  | .fmax w d a b => some (0x42000001 + w.toNat * 8388608 + d.toNat * 65536 + a.toNat * 512 + b.toNat * 4)
  | .fminm w d a b => some (0x42000002 + w.toNat * 8388608 + d.toNat * 65536 + a.toNat * 512 + b.toNat * 4)
  | .fcpysgn w d a b => some (0x42000003 + w.toNat * 8388608 + d.toNat * 65536 + a.toNat * 512 + b.toNat * 4)
  | .fcmp w c m a b o => some (0x44000000 + w.toNat * 8388608 + c.toNat * 1048576 + m.toNat * 65536 + a.toNat * 512 + b.toNat * 4 + o.toNat)
  | .fdiv w d a b => some (0x46000000 + w.toNat * 8388608 + d.toNat * 65536 + a.toNat * 512 + b.toNat * 4)
  | .fsqrt w d a => some (0x46000001 + w.toNat * 8388608 + d.toNat * 65536 + a.toNat * 512)
  | .frcp w d a => some (0x46000002 + w.toNat * 8388608 + d.toNat * 65536 + a.toNat * 512)
  | .frsq w d a => some (0x46000003 + w.toNat * 8388608 + d.toNat * 65536 + a.toNat * 512)
  | .fexp2 w d a => some (0x48000000 + w.toNat * 8388608 + d.toNat * 65536 + a.toNat * 512)
  | .flog2 w d a => some (0x48000001 + w.toNat * 8388608 + d.toNat * 65536 + a.toNat * 512)
  | .fsin w d a => some (0x48000002 + w.toNat * 8388608 + d.toNat * 65536 + a.toNat * 512)
  | .fcos w d a => some (0x48000003 + w.toNat * 8388608 + d.toNat * 65536 + a.toNat * 512)
  | .ftanh w d a => some (0x4A000000 + w.toNat * 8388608 + d.toNat * 65536 + a.toNat * 512)
  | .fsigm w d a => some (0x4A000001 + w.toNat * 8388608 + d.toNat * 65536 + a.toNat * 512)
  | .ferf w d a => some (0x4A000002 + w.toNat * 8388608 + d.toNat * 65536 + a.toNat * 512)
  | .fclass w d a => some (0x4A000003 + w.toNat * 8388608 + d.toNat * 65536 + a.toNat * 512)
  | .hadd2 w d a b => some (0x4C000000 + w.toNat * 8388608 + d.toNat * 65536 + a.toNat * 512 + b.toNat * 4)
  | .hsub2 w d a b => some (0x4C000001 + w.toNat * 8388608 + d.toNat * 65536 + a.toNat * 512 + b.toNat * 4)
  | .hmul2 w d a b => some (0x4C000002 + w.toNat * 8388608 + d.toNat * 65536 + a.toNat * 512 + b.toNat * 4)
  | .hmac2 w d a b => some (0x4C000003 + w.toNat * 8388608 + d.toNat * 65536 + a.toNat * 512 + b.toNat * 4)
  | .badd2 w d a b => some (0x4E000000 + w.toNat * 8388608 + d.toNat * 65536 + a.toNat * 512 + b.toNat * 4)
  | .bsub2 w d a b => some (0x4E000001 + w.toNat * 8388608 + d.toNat * 65536 + a.toNat * 512 + b.toNat * 4)
  | .bmul2 w d a b => some (0x4E000002 + w.toNat * 8388608 + d.toNat * 65536 + a.toNat * 512 + b.toNat * 4)
  | .bmac2 w d a b => some (0x4E000003 + w.toNat * 8388608 + d.toNat * 65536 + a.toNat * 512 + b.toNat * 4)
  | .hmin2 w d a b => some (0x50000000 + w.toNat * 8388608 + d.toNat * 65536 + a.toNat * 512 + b.toNat * 4)
  | .hmax2 w d a b => some (0x50000001 + w.toNat * 8388608 + d.toNat * 65536 + a.toNat * 512 + b.toNat * 4)
  | .bmin2 w d a b => some (0x50000002 + w.toNat * 8388608 + d.toNat * 65536 + a.toNat * 512 + b.toNat * 4)
  | .bmax2 w d a b => some (0x50000003 + w.toNat * 8388608 + d.toNat * 65536 + a.toNat * 512 + b.toNat * 4)
  | .frnd w d a => some (0x52000000 + w.toNat * 8388608 + d.toNat * 65536 + a.toNat * 512)
  | .frndNx w d a => some (0x52000001 + w.toNat * 8388608 + d.toNat * 65536 + a.toNat * 512)
  | .cvtIntToFloat d a i f => some (0x60000000 + d.toNat * 65536 + a.toNat * 512 + i.toNat * 128 + f.toNat * 32)
  | .cvtFloatToInt d a i f => some (0x60000001 + d.toNat * 65536 + a.toNat * 512 + i.toNat * 128 + f.toNat * 32)
  | .cvtFloat d a s f => some (0x62000000 + d.toNat * 65536 + a.toNat * 512 + s.toNat * 64 + f.toNat * 8)
  | .pack8 d a f k => some (0x64000000 + d.toNat * 65536 + a.toNat * 512 + f.toNat * 64 + k.toNat)
  | .unpack8 d a f k => some (0x66000000 + d.toNat * 65536 + a.toNat * 512 + f.toNat * 64 + k.toNat)
  | .pack4 w d a k => some (0x68000000 + w.toNat * 8388608 + d.toNat * 65536 + a.toNat * 512 + k.toNat * 64)
  | .unpack4 w d a k => some (0x6A000000 + w.toNat * 8388608 + d.toNat * 65536 + a.toNat * 512 + k.toNat * 64)
  | .scaleb w d a b => some (0x6C000000 + w.toNat * 8388608 + d.toNat * 65536 + a.toNat * 512 + b.toNat * 4)
  | .xval d a b => some (0x6C000001 + d.toNat * 65536 + a.toNat * 512 + b.toNat * 4)
  | .sadd d a k y => some (0x70000000 + d.toNat * 65536 + a.toNat * 1024 + k.toNat * 512 + y.toNat)
  | .ssub d a k y => some (0x70400000 + d.toNat * 65536 + a.toNat * 1024 + k.toNat * 512 + y.toNat)
  | .smul d a k y => some (0x70800000 + d.toNat * 65536 + a.toNat * 1024 + k.toNat * 512 + y.toNat)
  | .smin d a k y => some (0x70C00000 + d.toNat * 65536 + a.toNat * 1024 + k.toNat * 512 + y.toNat)
  | .smax d a k y => some (0x71000000 + d.toNat * 65536 + a.toNat * 1024 + k.toNat * 512 + y.toNat)
  | .sminn d a k y => some (0x71400000 + d.toNat * 65536 + a.toNat * 1024 + k.toNat * 512 + y.toNat)
  | .smaxn d a k y => some (0x71800000 + d.toNat * 65536 + a.toNat * 1024 + k.toNat * 512 + y.toNat)
  | .sand d a k y => some (0x72000000 + d.toNat * 65536 + a.toNat * 1024 + k.toNat * 512 + y.toNat)
  | .sor d a k y => some (0x72400000 + d.toNat * 65536 + a.toNat * 1024 + k.toNat * 512 + y.toNat)
  | .sxor d a k y => some (0x72800000 + d.toNat * 65536 + a.toNat * 1024 + k.toNat * 512 + y.toNat)
  | .sshl d a k y => some (0x72C00000 + d.toNat * 65536 + a.toNat * 1024 + k.toNat * 512 + y.toNat)
  | .sshr d a k y => some (0x73000000 + d.toNat * 65536 + a.toNat * 1024 + k.toNat * 512 + y.toNat)
  | .ssar d a k y => some (0x73400000 + d.toNat * 65536 + a.toNat * 1024 + k.toNat * 512 + y.toNat)
  | .srotl d a k y => some (0x73800000 + d.toNat * 65536 + a.toNat * 1024 + k.toNat * 512 + y.toNat)
  | .smov d b => some (0x74000000 + d.toNat * 65536 + b.toNat)
  | .smovi d i => some (0x74400200 + d.toNat * 65536 + i.toNat)
  | .scmp d a k y => some (0x74800000 + d.toNat * 65536 + a.toNat * 1024 + k.toNat * 512 + y.toNat)
  | .ssel d a b => some (0x74C00000 + d.toNat * 65536 + a.toNat * 1024 + b.toNat)
  | .vrd d a j => some (0x76000200 + d.toNat * 65536 + a.toNat * 1024 + j.toNat)
  | .vwr d a j => some (0x76400200 + d.toNat * 65536 + a.toNat * 1024 + j.toNat)
  | .slea c d a k y => some (0x78000000 + c.toNat * 4194304 + d.toNat * 65536 + a.toNat * 1024 + k.toNat * 512 + y.toNat)
  | .ld w d p n i => some (0x80000000 + w.toNat * 8388608 + d.toNat * 65536 + p.toNat * 1024 + n.toNat * 512 + i.toNat)
  | .st w d p n i => some (0x82000000 + w.toNat * 8388608 + d.toNat * 65536 + p.toNat * 1024 + n.toNat * 512 + i.toNat)
  | .lds w d p n i => some (0x84000000 + w.toNat * 8388608 + d.toNat * 65536 + p.toNat * 1024 + n.toNat * 512 + i.toNat)
  | .sts w d p n i => some (0x86000000 + w.toNat * 8388608 + d.toNat * 65536 + p.toNat * 1024 + n.toNat * 512 + i.toNat)
  | .ldu w d p i => some (0x88000000 + w.toNat * 8388608 + d.toNat * 65536 + p.toNat * 1024 + i.toNat)
  | .stu w d p i => some (0x88000200 + w.toNat * 8388608 + d.toNat * 65536 + p.toNat * 1024 + i.toNat)
  | .ldx d p i => some (0x8A000000 + d.toNat * 65536 + p.toNat * 1024 + i.toNat)
  | .stx d p i => some (0x8A000200 + d.toNat * 65536 + p.toNat * 1024 + i.toNat)
  | .ldacq w d p c s x => some (0x8C000000 + w.toNat * 8388608 + d.toNat * 65536 + p.toNat * 1024 + c.toNat * 128 + s.toNat * 64 + x.toNat)
  | .strel w d p c s x => some (0x8C000200 + w.toNat * 8388608 + d.toNat * 65536 + p.toNat * 1024 + c.toNat * 128 + s.toNat * 64 + x.toNat)
  | .pref p => some (0x8E000000 + p.toNat * 1024)
  | .wbr l p c => some (0x8E000080 + l.toNat * 65536 + p.toNat * 1024 + c.toNat * 32)
  | .invr l p c => some (0x8E000100 + l.toNat * 65536 + p.toNat * 1024 + c.toNat * 32)
  | .invd l p c => some (0x8E000180 + l.toNat * 65536 + p.toNat * 1024 + c.toNat * 32)
  | .setf p c x => some (0x90000000 + p.toNat * 1024 + c.toNat * 128 + x.toNat)
  | .clrf p x => some (0x90000200 + p.toNat * 1024 + x.toNat)
  | .ownseg d p => some (0x92000000 + d.toNat * 65536 + p.toNat * 1024)
  | .dropseg d p => some (0x92000200 + d.toNat * 65536 + p.toNat * 1024)
  | .aadd w d p s f c t => some (0xA0000000 + w.toNat * 8388608 + d.toNat * 65536 + p.toNat * 1024 + s.toNat * 256 + f.toNat * 128 + c.toNat * 32 + t.toNat * 4)
  | .amin w d p s f c t => some (0xA2000000 + w.toNat * 8388608 + d.toNat * 65536 + p.toNat * 1024 + s.toNat * 256 + f.toNat * 128 + c.toNat * 32 + t.toNat * 4)
  | .amax w d p s f c t => some (0xA2000001 + w.toNat * 8388608 + d.toNat * 65536 + p.toNat * 1024 + s.toNat * 256 + f.toNat * 128 + c.toNat * 32 + t.toNat * 4)
  | .aand w d p s f c t => some (0xA4000000 + w.toNat * 8388608 + d.toNat * 65536 + p.toNat * 1024 + s.toNat * 256 + f.toNat * 128 + c.toNat * 32 + t.toNat * 4)
  | .aor w d p s f c t => some (0xA4000001 + w.toNat * 8388608 + d.toNat * 65536 + p.toNat * 1024 + s.toNat * 256 + f.toNat * 128 + c.toNat * 32 + t.toNat * 4)
  | .axor w d p s f c t => some (0xA4000002 + w.toNat * 8388608 + d.toNat * 65536 + p.toNat * 1024 + s.toNat * 256 + f.toNat * 128 + c.toNat * 32 + t.toNat * 4)
  | .axchg w d p s f c t => some (0xA4000003 + w.toNat * 8388608 + d.toNat * 65536 + p.toNat * 1024 + s.toNat * 256 + f.toNat * 128 + c.toNat * 32 + t.toNat * 4)
  | .acas w d p s f c t => some (0xA6000000 + w.toNat * 8388608 + d.toNat * 65536 + p.toNat * 1024 + s.toNat * 256 + f.toNat * 128 + c.toNat * 32 + t.toNat * 4)
  | .red w d p s f t o => some (0xA8000000 + w.toNat * 8388608 + d.toNat * 65536 + p.toNat * 1024 + s.toNat * 256 + f.toNat * 128 + t.toNat * 4 + o.toNat)
  | .fence c => some (0xC0000000 + c.toNat * 32)
  | .xpub l p c => some (0xC0000080 + l.toNat * 65536 + p.toNat * 1024 + c.toNat * 32)
  | .barinit d p s c => some (0xC2000000 + d.toNat * 65536 + p.toNat * 1024 + s.toNat * 64 + c.toNat * 16)
  | .bararr d p s c => some (0xC2000080 + d.toNat * 65536 + p.toNat * 1024 + s.toNat * 64 + c.toNat * 16)
  | .barwait d p s c => some (0xC2000100 + d.toNat * 65536 + p.toNat * 1024 + s.toNat * 64 + c.toNat * 16)
  | .barkill d p s c => some (0xC2000180 + d.toNat * 65536 + p.toNat * 1024 + s.toNat * 64 + c.toNat * 16)
  | .waitaddr w d p k s c => some (0xC4000000 + w.toNat * 8388608 + d.toNat * 65536 + p.toNat * 1024 + k.toNat * 64 + s.toNat * 32 + c.toNat * 8)
  | .tlwait t n d => some (0xC6000000 + t.toNat * 16384 + n.toNat * 128 + d.toNat)
  | .tlread t d => some (0xC6200000 + t.toNat * 16384 + d.toNat)
  | .rsect => some (0xC8000000)
  | .rsecx => some (0xC8200000)
  | .qpass => some (0xC8400000)
  | .gpwait t d => some (0xC8600000 + t.toNat * 16384 + d.toNat)
  | .timeat t => some (0xCA000000 + t.toNat * 128)
  | .timerd d => some (0xCA200000 + d.toNat)
  | .bra m p o => some (0xB0000000 + m.toNat * 2097152 + p.toNat * 1048576 + o.toNat)
  | .brx a => some (0xB2800000 + a.toNat * 512)
  | .call => some (0xB400FE00)
  | .callx a => some (0xB4800001 + a.toNat * 512)
  | .ret => some (0xB4000002)
  | .join m => some (0xB6000000 + m.toNat * 16384)
  | .leave m => some (0xB6200000 + m.toNat * 16384)
  | .waitm m => some (0xB6400000 + m.toNat * 16384)
  | .mset d s => some (0xB8000000 + d.toNat * 16384 + s.toNat * 128)
  | .mand d a b => some (0xB8200000 + d.toNat * 16384 + a.toNat * 128 + b.toNat)
  | .mor d a b => some (0xB8400000 + d.toNat * 16384 + a.toNat * 128 + b.toNat)
  | .mxor d a b => some (0xB8600000 + d.toNat * 16384 + a.toNat * 128 + b.toNat)
  | .mnot d a => some (0xB8800000 + d.toNat * 16384 + a.toNat * 128)
  | .mmov d a => some (0xB8A00000 + d.toNat * 16384 + a.toNat * 128)
  | .prio n => some (0xBA000000 + n.toNat)
  | .nop => some (0xBC000000)
  | .exitI => some (0xBC010000)
  | .trap k => some (0xBC020000 + k.toNat)
  | .bkpt k => some (0xBC030000 + k.toNat)
  | .csrr d c => some (0xF0000000 + d.toNat * 65536 + c.toNat)
  | .csrw d c => some (0xF0400000 + d.toNat * 65536 + c.toNat)
  | .csrs d c => some (0xF0800000 + d.toNat * 65536 + c.toNat)
  | .csrc d c => some (0xF0C00000 + d.toNat * 65536 + c.toNat)
  | .role d a => some (0xF2000000 + d.toNat * 65536 + a.toNat * 1024)
  | .pstat d s => some (0xF2400000 + d.toNat * 65536 + s.toNat)
  | .sysc k => some (0xF4000000 + k.toNat)
  | .eret => some (0xF4400000)
  | .halt => some (0xF4800000)
  | .btinv d c l => some (0xF6000000 + d.toNat * 65536 + c.toNat * 16384 + l.toNat * 8192)
  | .tfence d c l k => some (0xF6400000 + d.toNat * 65536 + c.toNat * 16384 + l.toNat * 8192 + k.toNat)
  | .ctxsv d => some (0xF8000000 + d.toNat * 65536)
  | .ctxld d => some (0xF8400000 + d.toNat * 65536)
  | .xw p => some (0xFE000000 + p.toNat)
  | .xh c => some (0xFE800000 + c.toNat)
  | .xm r s n a m b p l o c => some (0xFF000000 + r.toNat * 1048576 + s.toNat * 524288 + n.toNat * 262144 + a.toNat * 131072 + m.toNat * 65536 + b.toNat * 32768 + p.toNat * 2048 + l.toNat * 1024 + o.toNat * 8 + c.toNat)
  | .wload t d b c => some (0xD0000000 + t.toNat * 2097152 + d.toNat * 16384 + b.toNat * 128 + c.toNat)
  | .wswap c => some (0xD2000000 + c.toNat)
  | .mma h v s c => some (0xD4000000 + h.toNat * 2097152 + v.toNat * 16384 + s.toNat * 128 + c.toNat)
  | .mmax h v s c => some (0xD6000000 + h.toNat * 2097152 + v.toNat * 16384 + s.toNat * 128 + c.toNat)
  | .aclr c => some (0xD8000000 + c.toNat)
  | .aclrRows a c => some (0xD8200000 + a.toNat * 16384 + c.toNat)
  | .ard d i => some (0xDA000000 + d.toNat * 16384 + i.toNat * 128)
  | .awr d i => some (0xDA200000 + d.toNat * 16384 + i.toNat * 128)
  | .ast h v s c => some (0xDC000000 + h.toNat * 2097152 + v.toNat * 16384 + s.toNat * 128 + c.toNat)
  | .mxcfg a => some (0xDE000000 + a.toNat * 16384)
  | .mxstat s d => some (0xDE200000 + s.toNat * 16384 + d.toNat)
  | .mxres c => some (0xDE400000 + c.toNat)
  | .strm q b c => some (0xE0000000 + q.toNat * 16384 + b.toNat * 128 + c.toNat)
  | .strq q d => some (0xE0200000 + q.toNat * 16384 + d.toNat)
  | .strqEnd q => some (0xE0400000 + q.toNat * 16384)
  | .cpy b v c => some (0xE2000000 + b.toNat * 16384 + v.toNat * 128 + c.toNat)
  | .cpym b v c => some (0xE2200000 + b.toNat * 16384 + v.toNat * 128 + c.toNat)
  | .cpst d n t => some (0xE2400000 + d.toNat * 16384 + n.toNat * 128 + t.toNat)
  | .gath b v c => some (0xE4000000 + b.toNat * 16384 + v.toNat * 128 + c.toNat)
  | .scat b v c => some (0xE4200000 + b.toNat * 16384 + v.toNat * 128 + c.toNat)
  | .dbw h v c => some (0xE6000000 + h.toNat * 16384 + v.toNat * 128 + c.toNat)
  | .dbwX2 h v c => some (0xE6200000 + h.toNat * 16384 + v.toNat * 128 + c.toNat)
  | .nmc b w c => some (0xE8000000 + b.toNat * 16384 + w.toNat * 128 + c.toNat)
  | .launch p s c => some (0xEA000000 + p.toNat * 16384 + s.toNat * 128 + c.toNat)
  | .tpost p r c => some (0xEA200000 + p.toNat * 16384 + r.toNat * 128 + c.toNat)
  | .tjoin i s c => some (0xEA400000 + i.toNat * 16384 + s.toNat * 128 + c.toNat)
  | .defer p r c => some (0xEA600000 + p.toNat * 16384 + r.toNat * 128 + c.toNat)
  | .coll b c => some (0xEC000000 + b.toNat * 16384 + c.toNat)
  | .cabort m c => some (0xEC200000 + m.toNat * 16384 + c.toNat)
  | .cstat m d => some (0xEC400000 + m.toNat * 16384 + d.toNat)
  | .bteFetch .. | .walkStart .. | .walkComplete .. | .pageFaultRecord .. | .pfqrespRetry ..
  | .pfqrespFail .. | .pfqrespClearErr .. | .pfqrespIgnored .. | .pinitStart .. | .poolInitDone ..
  | .bankWake .. | .windowMove .. | .segmentMove .. | .cchBankDrain .. | .bankClear ..
  | .patrolScrub .. | .homeLoadMiss .. | .homeStoreMiss .. | .homeRedMiss .. | .homeAtomic ..
  | .writeBack .. | .recall .. | .shuOperation .. | .segmentTransfer .. | .leaseRequest ..
  | .leaseReleaseRequest .. | .leaseRelease .. | .holderLeaseExpiry .. | .homeLeaseExpiry .. | .leaseDrift ..
  | .ifetchMiss .. | .dxForcedPublish .. | .xframeSet .. | .xframeClear .. | .hbmctlRetire ..
  | .channelTrainingFail .. | .repairLimit .. | .rebuildSegment .. | .nmuExecute .. | .nmuComplete ..
  | .cxlTimeout .. | .cxlLinkEvent .. | .cxlctlResume .. | .keySlotLoad .. | .sealctlReinit ..
  | .sealctlPoolinit .. | .sealCommandDone .. | .rcbupdUpdate .. | .rcbupdClrfault .. | .rcbupdApply
  | .rgnkill .. | .hqptrPut .. | .packetTake .. | .workgroupPlace .. | .glenCompaction ..
  | .taskStart .. | .taskWaitSave .. | .taskRequeue .. | .quantumExpiry .. | .quantumSave ..
  | .yieldSave .. | .workgroupRestore .. | .turnLimit .. | .starvedTurn .. | .entryAgeLimit ..
  | .febTimeout .. | .waitTimeout .. | .timeatRelease .. | .timedStart .. | .budgetPeriod ..
  | .engineClaim .. | .matrixUnit .. | .matrixComplete .. | .streamWord .. | .cqbusyTimeout ..
  | .copyStart .. | .copyComplete .. | .doorbellSend .. | .msixArrival .. | .endpointRequest ..
  | .atsTranslationRequest .. | .priPageRequest .. | .atsInvalTimeout .. | .barRequestTimeout .. | .ntbPeerRequest ..
  | .linkTrained .. | .rpctlDpcRelease .. | .collStep .. | .collStepTimeout .. | .abortNotice ..
  | .commcmdCreate .. | .commcmdReform .. | .commcmdDestroy .. | .reformAck .. | .reformAckTimeout ..
  | .exclusionNotice .. | .stepRejection .. | .moduleReset .. | .measExtend .. | .svcupUp
  | .powerStep .. | .gtbsyncSrc .. | .lapseEntryClear .. | .lapsectlClear .. | .dbgcmdHalt ..
  | .dbgcmdResume .. | .dbgcmdStep .. | .dbgcmdRead .. | .dbgcmdWrite .. | .dbgwpbWrite ..
  | .capabilityRecheck .. | .pcSample .. | .registerWrite .. | .illegalEncoding .. | .atsInvalidationCompletion ..
  | .rootPortCompletion .. | .cxlMemCompletion .. | .pcieLinkDown .. | .hbmTrainingDone | .gtbDiscipline .. => none

/-- The word of a well-formed instruction. -/
def encode (i : Instr) : Option (BitVec 32) :=
  if i.wellFormed then (encodeNat i).map (BitVec.ofNat 32) else none

/-- The word held by four bytes, the lowest address first (R5, R212). -/
def wordOfBytes (b0 b1 b2 b3 : Byte) : BitVec 32 := b3 ++ b2 ++ b1 ++ b0

/-- The bytes of a word, lowest address first. -/
def bytesOfWord (w : BitVec 32) : List Byte :=
  [w.extractLsb' 0 8, w.extractLsb' 8 8, w.extractLsb' 16 8, w.extractLsb' 24 8]

/-- Decode a list of bytes: the instruction or reason, and the bytes left; none when fewer than four remain. -/
def decodeBytes : List Byte → Option (Except Nat Instr × List Byte)
  | b0 :: b1 :: b2 :: b3 :: rest => some (decodeWord (wordOfBytes b0 b1 b2 b3), rest)
  | _ => none

/-- The instruction of a row of the opcode table whose bits are w; every instruction is one 32-bit word. -/
def decodeTableWord (nbits w : Nat) : Option Instr :=
  match decodeWord (BitVec.ofNat 32 (w % 2 ^ nbits)) with
  | .ok i => some i
  | .error _ => none

end Sys2Proof
end

