-- ==== Sys2Proof/Machine/Bits.lean ====
section
/-! DEFINITION. Bit fields of numbers, sign extension, byte lists, and byte memory in canonical form. -/
namespace Sys2Proof.Machine

/-- Bits lo + n - 1 to lo of a number. -/
def bits (x lo n : Nat) : Nat := x / 2 ^ lo % 2 ^ n

/-- Bit i of a number as a Bool. -/
def bit (x i : Nat) : Bool := x / 2 ^ i % 2 == 1

/-- Replace bits lo + n - 1 to lo of x by v. -/
def setBits (x lo n v : Nat) : Nat := x - bits x lo n * 2 ^ lo + v % 2 ^ n * 2 ^ lo

/-- The signed value of an n-bit number. -/
def sext (n x : Nat) : Int := if x % 2 ^ n < 2 ^ (n - 1) then ↑(x % 2 ^ n) else ↑(x % 2 ^ n) - ↑(2 ^ n : Nat)

/-- An integer modulo 2^n as a number. -/
def wrap (n : Nat) (x : Int) : Nat := (x % ↑(2 ^ n : Nat)).toNat

/-- Round up the quotient of two numbers. -/
def ceilDiv (a b : Nat) : Nat := (a + b - 1) / b

/-- Little-endian value of the bytes (R5). -/
def bytesToNat : List Byte → Nat
  | [] => 0
  | b :: bs => b.toNat + 256 * bytesToNat bs

/-- The n little-endian bytes of a number (R5). -/
def natToBytes : Nat → Nat → List Byte
  | 0, _ => []
  | n + 1, x => BitVec.ofNat 8 x :: natToBytes n (x / 256)

/-- Byte at address `a`; an unlisted address reads as zero (log entry 1, R67 for scratchpad). -/
def cellGet : List Host.Cell → Nat → Byte
  | [], _ => 0#8
  | (k, v) :: m, a => if k == a then v else cellGet m a

/-- Write a byte, keeping the addresses strictly rising and no zero byte listed. -/
def cellSet : List Host.Cell → Nat → Byte → List Host.Cell
  | [], a, b => if b == 0#8 then [] else [(a, b)]
  | (k, v) :: m, a, b =>
    if k < a then (k, v) :: cellSet m a b
    else if k == a then (if b == 0#8 then m else (a, b) :: m)
    else (if b == 0#8 then (k, v) :: m else (a, b) :: (k, v) :: m)

/-- The canonical form: addresses strictly rising, no entry equal to what an unlisted address reads as. -/
def cellsWf : List Host.Cell → Bool
  | [] => true
  | [(_, v)] => v != 0#8
  | (k, v) :: (j, w) :: m => v != 0#8 && k < j && cellsWf ((j, w) :: m)

/-- The bytes at a, a + 1, …, a + n - 1. -/
def cellsRead (m : List Host.Cell) (a : Nat) : Nat → List Byte
  | 0 => []
  | n + 1 => cellGet m a :: cellsRead m (a + 1) n

/-- Write consecutive bytes from a. -/
def cellsWrite (m : List Host.Cell) (a : Nat) : List Byte → List Host.Cell
  | [] => m
  | b :: bs => cellsWrite (cellSet m a b) (a + 1) bs

/-- Little-endian number at a. -/
def cellsNat (m : List Host.Cell) (a n : Nat) : Nat := bytesToNat (cellsRead m a n)

/-- Insert into a list of numbers kept without repeats. -/
def insertNat (l : List Nat) (x : Nat) : List Nat := if l.contains x then l else x :: l

/-- The numbers lo, lo + 1, …, lo + n - 1. -/
def rangeFrom (lo : Nat) : Nat → List Nat
  | 0 => []
  | n + 1 => lo :: rangeFrom (lo + 1) n

/-- The low 64 bits of two words, low word first (R8). -/
def dword (lo hi : Word) : DWord := hi ++ lo
def loWord (d : DWord) : Word := d.extractLsb' 0 32
def hiWord (d : DWord) : Word := d.extractLsb' 32 32

end Sys2Proof.Machine
end

