-- ==== Sys2Proof/Machine/Event.lean ====
section
/-! DEFINITION. Events waiting to be performed, as the state holds them: one constructor for each event of Sys2Proof.Instr,
with the same name and fields.  (Code cannot build constructors of Instr this far down its list, so the agenda has a type of
its own.) -/
namespace Sys2Proof.Machine

/-- An event of the part, of its supervisor or of an outside agent: see the constructor of Instr of the same name. -/
inductive Event where
  /-- BTE_FETCH (R465): A missed buffer table entry returns from memory and is cached or fails the access. -/
  | bteFetch (core region index : Nat)
  /-- WALK_START (R33): A queued page walk starts when a walker becomes free. -/
  | walkStart (basin : Nat)
  /-- WALK_COMPLETE (R24): A page walk returns its leaf, sets A and D, and serves the waiting misses. -/
  | walkComplete (basin : Nat)
  /-- PAGE_FAULT_RECORD (R35): A fault record is written to the basin's page-fault queue and its interrupt raised. -/
  | pageFaultRecord (basin : Nat)
  /-- PFQRESP_RETRY (R36): A RETRY response replays every lane and command parked on the record. -/
  | pfqrespRetry (basin seq : Nat)
  /-- PFQRESP_FAIL (R36): A FAIL response traps parked lanes and completes parked commands ENGFAULT. -/
  | pfqrespFail (basin seq : Nat)
  /-- PFQRESP_CLEAR_ERR (R37): A write with OUTCOME 0 and bit 61 set clears ERR. -/
  | pfqrespClearErr (basin : Nat)
  /-- PFQRESP_IGNORED (R37): OUTCOME 3, or 0 without bit 61, is ignored and sets ERR. -/
  | pfqrespIgnored (basin : Nat)
  /-- PINIT_START (R50): Writing START begins pool initialisation of a core. -/
  | pinitStart (core : Nat)
  /-- POOL_INIT_DONE (R50): Pool initialisation ends with the default layout and DONE set. -/
  | poolInitDone (core : Nat)
  /-- BANK_WAKE (R78): An OFF bank finishes power-up for a role change or placement. -/
  | bankWake (core bank : Nat)
  /-- WINDOW_MOVE (R65): A paused group's window is copied to reserved slabs and the group resumed. -/
  | windowMove (core : Nat)
  /-- SEGMENT_MOVE (R56): A live scratchpad segment is copied with its bits and its map redirected. -/
  | segmentMove (core : Nat)
  /-- CCH_BANK_DRAIN (R56): An outgoing CCH bank finishes writing back and invalidating its lines. -/
  | cchBankDrain (core bank : Nat)
  /-- BANK_CLEAR (R57): A bank finishes its clear and shows its new role in PROLE. -/
  | bankClear (core bank : Nat)
  /-- PATROL_SCRUB (R77): The scrubber visits a word, correcting or poisoning it. -/
  | patrolScrub (core bank word : Nat)
  /-- HOME_LOAD_MISS (R84): A load miss for a CCH line is handled at the home directory. -/
  | homeLoadMiss (core line : Nat)
  /-- HOME_STORE_MISS (R84): A store miss or upgrade (RDX) is handled at the home directory. -/
  | homeStoreMiss (core line : Nat)
  /-- HOME_RED_MISS (R84): A RED miss for a U line is handled at the home directory. -/
  | homeRedMiss (core line op typ : Nat)
  /-- HOME_ATOMIC (R309): An atomic is performed at the home after recalling copies. -/
  | homeAtomic (core key op typ value compare : Nat)
  /-- WRITE_BACK (R84): An evicted M line or U partial arrives at the home. -/
  | writeBack (core line : Nat)
  /-- RECALL (R86): A recall or invalidation from the home is answered by a core. -/
  | recall (core line : Nat)
  /-- SHU_OPERATION (R90): The owning SHU performs one scratchpad write or atomic. -/
  | shuOperation (workgroup address op typ value compare : Nat)
  /-- SEGMENT_TRANSFER (R91): A segment's ownership transfer completes and both cores leave T. -/
  | segmentTransfer (workgroup segment : Nat)
  /-- LEASE_REQUEST (R94): A read or write lease request is granted or waits at the home. -/
  | leaseRequest (basin line write : Nat)
  /-- LEASE_RELEASE_REQUEST (R94): A holder receives a release request or recall and writes back. -/
  | leaseReleaseRequest (holder line : Nat)
  /-- LEASE_RELEASE (R93): A holder's lease release arrives at the home. -/
  | leaseRelease (holder line : Nat)
  /-- HOLDER_LEASE_EXPIRY (R93): A lease expires on the holder's GTB and the copy is no longer used. -/
  | holderLeaseExpiry (basin line : Nat)
  /-- HOME_LEASE_EXPIRY (R94): A lease expires at the home, letting waiting requests proceed. -/
  | homeLeaseExpiry (basin line : Nat)
  /-- LEASE_DRIFT (R98): An agent's GTB uncertainty exceeds its guard band and leases are dropped. -/
  | leaseDrift (basin uncertainty : Nat)
  /-- IFETCH_MISS (R102): An instruction-cache miss fetches a line from its home. -/
  | ifetchMiss (group : Nat)
  /-- DX_FORCED_PUBLISH (R100): After 100 µs the home publishes the oldest dirty-for-execute line of a set. -/
  | dxForcedPublish (line : Nat)
  /-- XFRAME_SET (R99): Sets the execute-frame bit of an HBM4E frame. -/
  | xframeSet (frame : Nat)
  /-- XFRAME_CLEAR (R99): Clears the execute-frame bit and the frame's publication state. -/
  | xframeClear (frame : Nat)
  /-- HBMCTL_RETIRE (R109): The supervisor retires a channel of a stack. -/
  | hbmctlRetire (stack channel : Nat)
  /-- CHANNEL_TRAINING_FAIL (R109): A channel fails training and is retired. -/
  | channelTrainingFail (stack channel : Nat)
  /-- REPAIR_LIMIT (R109): A channel's parity repairs reach 64 within 1 s and it is retired. -/
  | repairLimit (stack channel : Nat)
  /-- REBUILD_SEGMENT (R111): The base die reconstructs or moves one row segment of a rebuild. -/
  | rebuildSegment (stack : Nat)
  /-- NMU_EXECUTE (R116): An NMU command passes its checks and processes granules. -/
  | nmuExecute (workgroup : Nat)
  /-- NMU_COMPLETE (R117): An NMU command completes with its status word and timeline advance. -/
  | nmuComplete (workgroup : Nat)
  /-- CXL_TIMEOUT (R119): A .mem request outstanding for TIMEOUT puts the port into containment. -/
  | cxlTimeout (port : Nat)
  /-- CXL_LINK_EVENT (R119): Link down, DPC, viral or fatal AER puts a CXL port into containment. -/
  | cxlLinkEvent (port cause : Nat)
  /-- CXLCTL_RESUME (R119): Writing RESUME ends containment of a trained port. -/
  | cxlctlResume (port : Nat)
  /-- KEY_SLOT_LOAD (R121): Firmware loads a sealed-storage key slot, raising its generation. -/
  | keySlotLoad (slot : Nat)
  /-- SEALCTL_REINIT (R125): Reinitialises an exhausted sealed frame under a key slot. -/
  | sealctlReinit (stack frame slot : Nat)
  /-- SEALCTL_POOLINIT (R125): Raises the pool epoch and zeroes the sealed pool. -/
  | sealctlPoolinit (stack : Nat)
  /-- SEAL_COMMAND_DONE (R125): A SEALCTL command finishes and BUSY clears. -/
  | sealCommandDone (stack : Nat)
  /-- RCBUPD_UPDATE (R162): Starts an update of a region's RCB, checked and refused or accepted. -/
  | rcbupdUpdate (region : Nat)
  /-- RCBUPD_CLRFAULT (R162): Clears the fault record of a DEAD region and applies its RCB. -/
  | rcbupdClrfault (region : Nat)
  /-- RCBUPD_APPLY (R162): Basins take the recomputed effective values and BUSY clears. -/
  | rcbupdApply
  /-- RGNKILL (R163): Raises a fatal fault of a region with cause 0xFF. -/
  | rgnkill (region : Nat)
  /-- HQPTR_PUT (R188): The supervisor advances a host queue's PUT, or overfills and disables it. -/
  | hqptrPut (basin queue put : Nat)
  /-- PACKET_TAKE (R188): The dispatcher takes a launch packet into a grid descriptor. -/
  | packetTake (basin : Nat)
  /-- WORKGROUP_PLACE (R197): A workgroup is placed on a core in one reserving step. -/
  | workgroupPlace (basin : Nat)
  /-- GLEN_COMPACTION (R200): The dispatcher slides windows of a glen downward to make a run fit. -/
  | glenCompaction (core glen : Nat)
  /-- TASK_START (R180): An idle slot starts the record at the head of its core's bucket. -/
  | taskStart (core : Nat)
  /-- TASK_WAIT_SAVE (R180): A task blocked for one quantum is saved, freeing its slot. -/
  | taskWaitSave (workgroup : Nat)
  /-- TASK_REQUEUE (R180): A waiting-saved task re-enters the head of its bucket one quantum later. -/
  | taskRequeue (workgroup : Nat)
  /-- QUANTUM_EXPIRY (R205): A workgroup's residency timer reaches QUANTUM and it becomes yieldable. -/
  | quantumExpiry (workgroup : Nat)
  /-- QUANTUM_SAVE (R205): A yieldable workgroup is saved so a waiting one can be placed. -/
  | quantumSave (workgroup : Nat)
  /-- YIELD_SAVE (R209): A fully blocked workgroup is saved for a waiting packet of its subtree. -/
  | yieldSave (workgroup : Nat)
  /-- WORKGROUP_RESTORE (R207): A saved workgroup is restored onto a core of its basin. -/
  | workgroupRestore (workgroup : Nat)
  /-- TURN_LIMIT (R203): A group ends its pipe turn after 64 issues outside a hold window. -/
  | turnLimit (pipe : Nat)
  /-- STARVED_TURN (R204): A ready group idle for 65,536 cycles receives the next turn. -/
  | starvedTurn (group : Nat)
  /-- ENTRY_AGE_LIMIT (R170): After 1,024 issues in a row the longest-waiting entry issues next. -/
  | entryAgeLimit (group : Nat)
  /-- FEB_TIMEOUT (R70): A wait on an empty line traps FEBTIMEOUT. -/
  | febTimeout (group lane : Nat)
  /-- WAIT_TIMEOUT (R185): A blocking wait lasting WAITTO traps WAITTIMEOUT. -/
  | waitTimeout (group lane : Nat)
  /-- TIMEAT_RELEASE (R321): The GTB reaches T and TIMEAT waiters are released. -/
  | timeatRelease (group : Nat)
  /-- TIMED_START (R211): A command held for its start time starts when the GTB reaches it. -/
  | timedStart (workgroup number : Nat)
  /-- BUDGET_PERIOD (R210): A new budget period begins and waiting requests are served. -/
  | budgetPeriod (basin : Nat)
  /-- ENGINE_CLAIM (R344): A waiting workgroup claims the released matrix engine in its initial state. -/
  | engineClaim (core : Nat)
  /-- MATRIX_UNIT (R355): The engine performs one unit of a queued command, or stops or parks on a failure. -/
  | matrixUnit (core : Nat)
  /-- MATRIX_COMPLETE (R348): A queued matrix command completes with its status on tl0. -/
  | matrixComplete (core : Nat)
  /-- STREAM_WORD (R374): A stream's access slice moves one word between memory and its queue. -/
  | streamWord (group queue : Nat)
  /-- CQBUSY_TIMEOUT (R378): A copy waiting a quantum for a queue entry is refused CQBUSY. -/
  | cqbusyTimeout (group : Nat)
  /-- COPY_START (R380): A copy starts once every slice has arrived and its start time passed. -/
  | copyStart (workgroup number : Nat)
  /-- COPY_COMPLETE (R381): A copy's payload is done, its NOTE action taken and the command completed. -/
  | copyComplete (workgroup number : Nat)
  /-- DOORBELL_SEND (R384): The DOP sends a doorbell as a posted write from the root port. -/
  | doorbellSend (port : Nat)
  /-- MSIX_ARRIVAL (R386): An MSI-X write to the interrupt window becomes a barrier arrival or is dropped. -/
  | msixArrival (port requester offset size : Nat)
  /-- ENDPOINT_REQUEST (R415): An endpoint memory request is bound to a region and checked by Translate. -/
  | endpointRequest (port requester pasid kind handle size value : Nat)
  /-- ATS_TRANSLATION_REQUEST (R416): An endpoint Translation Request is answered with a 4 KiB page's rights. -/
  | atsTranslationRequest (port requester pasid handle : Nat)
  /-- PRI_PAGE_REQUEST (R416): An endpoint Page Request writes a page-fault record. -/
  | priPageRequest (port requester pasid handle write : Nat)
  /-- ATS_INVAL_TIMEOUT (R417): An endpoint not acknowledging ATS invalidation within 1 ms is cut off by DPC. -/
  | atsInvalTimeout (port requester : Nat)
  /-- BAR_REQUEST_TIMEOUT (R413): A non-posted BAR or NTB request without completion within TIMEOUT completes LINKDOWN. -/
  | barRequestTimeout (request : Nat)
  /-- NTB_PEER_REQUEST (R418): A peer module's request through an NTB aperture is admitted or denied by the MAT. -/
  | ntbPeerRequest (peer address kind size value : Nat)
  /-- LINK_TRAINED (R411): A root port's link finishes training and LINKUP is set. -/
  | linkTrained (port speed width flit : Nat)
  /-- RPCTL_DPC_RELEASE (R411): Writing 1 to DPC releases containment and the link retrains. -/
  | rpctlDpcRelease (port : Nat)
  /-- COLL_STEP (R395): One transfer of a collective between two ranks is performed. -/
  | collStep (comm sender rank : Nat) (data : List Nat)
  /-- COLL_STEP_TIMEOUT (R395): A step's data missing for T aborts the collective and breaks the communicator. -/
  | collStepTimeout (comm rank sender : Nat)
  /-- ABORT_NOTICE (R395): A rank receives an abort notice and completes the collective ABORTED. -/
  | abortNotice (comm rank culprit cause : Nat)
  /-- COMMCMD_CREATE (R422): Creates a communicator from a descriptor. -/
  | commcmdCreate (descriptor : Nat)
  /-- COMMCMD_REFORM (R423): Re-forms a communicator without the excluded ranks. -/
  | commcmdReform (descriptor : Nat)
  /-- COMMCMD_DESTROY (R422): Destroys a communicator at the module. -/
  | commcmdDestroy (descriptor : Nat)
  /-- REFORM_ACK (R423): The last surviving rank acknowledges and the ranks become ACTIVE. -/
  | reformAck (comm : Nat)
  /-- REFORM_ACK_TIMEOUT (R423): A surviving rank fails to acknowledge in time; REFORM ends NORESP. -/
  | reformAckTimeout (comm : Nat)
  /-- EXCLUSION_NOTICE (R423): An excluded rank's module receives the notice and marks the rank BROKEN. -/
  | exclusionNotice (comm rank epoch : Nat)
  /-- STEP_REJECTION (R423): A step message with an old epoch is rejected with cause EXCLUDED. -/
  | stepRejection (comm rank epoch : Nat)
  /-- MODULE_RESET (R425): The boot ROM verifies and measures firmware or halts with a code. -/
  | moduleReset (code digest : Nat)
  /-- MEAS_EXTEND (R425): Firmware extends a measurement register through the extend port. -/
  | measExtend (register digest : Nat)
  /-- SVCUP_UP (R429): Writing UP ends reduced service and enables every core. -/
  | svcupUp
  /-- POWER_STEP (R430): The power controller changes the core clock by a sixteenth to hold LIMIT. -/
  | powerStep (step capped : Nat)
  /-- GTBSYNC_SRC (R421): A change of the GTB source keeps the value and re-enters slewing. -/
  | gtbsyncSrc (source : Nat)
  /-- LAPSE_ENTRY_CLEAR (R96): Clearing VALID of a lapse entry ends its LINKDOWN completions. -/
  | lapseEntryClear (basin entry : Nat)
  /-- LAPSECTL_CLEAR (R97): Clearing ALLLAPSED ends the completions it causes. -/
  | lapsectlClear (basin : Nat)
  /-- DBGCMD_HALT (R437): Halts a target region's subtree after a capability check. -/
  | dbgcmdHalt (command : Nat)
  /-- DBGCMD_RESUME (R438): Resumes every group of a halt. -/
  | dbgcmdResume (command : Nat)
  /-- DBGCMD_STEP (R438): Lets one named halted group issue one instruction. -/
  | dbgcmdStep (command : Nat)
  /-- DBGCMD_READ (R435): Reads one word of a halted thread into DBGDATA. -/
  | dbgcmdRead (command : Nat)
  /-- DBGCMD_WRITE (R435): Writes one word, PC or priority of a halted thread from DBGDATA. -/
  | dbgcmdWrite (command : Nat)
  /-- DBGWPB_WRITE (R440): Sets a watchpoint, checked against its capability. -/
  | dbgwpbWrite (watchpoint value : Nat)
  /-- CAPABILITY_RECHECK (R438): Every 100 µs a halted region's capability is read and a revoked one resumes it. -/
  | capabilityRecheck (region : Nat)
  /-- PC_SAMPLE (R444): A core records a PC sample every 2^PERIOD cycles. -/
  | pcSample (core : Nat)
  /-- REGISTER_WRITE (R29): A write to a basin register with no row of its own stores its fields. -/
  | registerWrite (basin offset size value : Nat)
  /-- ILLEGAL_ENCODING (R230): A frontier entry tries to issue a word that is an illegal encoding and every thread of the entry traps ILLOP. -/
  | illegalEncoding (word reason : Nat)
  /-- ATS_INVALIDATION_COMPLETION (R38): An endpoint's acknowledgement of an ATS invalidation arrives and lets a .sys TFENCE or BTINV complete. -/
  | atsInvalidationCompletion (port requester : Nat)
  /-- ROOT_PORT_COMPLETION (R466): A completion for a non-posted request to a BAR window or NTB aperture arrives at a root port and completes the request with data, ACCESSDENY or LINKDOWN. -/
  | rootPortCompletion (request status data : Nat)
  /-- CXL_MEM_COMPLETION (R119): A .mem completion from a CXL expander arrives, returning data or poison, or is discarded while the port is contained. -/
  | cxlMemCompletion (port poisoned : Nat)
  /-- PCIE_LINK_DOWN (R413): A root port serving BAR or NTB targets loses its link or takes a DPC trigger from a fatal error and enters containment. -/
  | pcieLinkDown (port dpc : Nat)
  /-- HBM_TRAINING_DONE (R429): HBM4E training and the repair scan end, after which an SVCUP write may end reduced service. -/
  | hbmTrainingDone
  /-- GTB_DISCIPLINE (R421): A PTM or IEEE 1588 time update disciplines the GTB, changing UNCERT and LOCKED and bringing the uncertainty back within a guard band. -/
  | gtbDiscipline (uncertainty : Nat)
  deriving DecidableEq, Repr

/-- The instruction an event of the agenda is. -/
def Event.Is (e : Event) (i : Instr) : Prop :=
  match e with
  | .bteFetch core region index => i = .bteFetch core region index
  | .walkStart basin => i = .walkStart basin
  | .walkComplete basin => i = .walkComplete basin
  | .pageFaultRecord basin => i = .pageFaultRecord basin
  | .pfqrespRetry basin seq => i = .pfqrespRetry basin seq
  | .pfqrespFail basin seq => i = .pfqrespFail basin seq
  | .pfqrespClearErr basin => i = .pfqrespClearErr basin
  | .pfqrespIgnored basin => i = .pfqrespIgnored basin
  | .pinitStart core => i = .pinitStart core
  | .poolInitDone core => i = .poolInitDone core
  | .bankWake core bank => i = .bankWake core bank
  | .windowMove core => i = .windowMove core
  | .segmentMove core => i = .segmentMove core
  | .cchBankDrain core bank => i = .cchBankDrain core bank
  | .bankClear core bank => i = .bankClear core bank
  | .patrolScrub core bank word => i = .patrolScrub core bank word
  | .homeLoadMiss core line => i = .homeLoadMiss core line
  | .homeStoreMiss core line => i = .homeStoreMiss core line
  | .homeRedMiss core line op typ => i = .homeRedMiss core line op typ
  | .homeAtomic core key op typ value compare => i = .homeAtomic core key op typ value compare
  | .writeBack core line => i = .writeBack core line
  | .recall core line => i = .recall core line
  | .shuOperation workgroup address op typ value compare => i = .shuOperation workgroup address op typ value compare
  | .segmentTransfer workgroup segment => i = .segmentTransfer workgroup segment
  | .leaseRequest basin line write => i = .leaseRequest basin line write
  | .leaseReleaseRequest holder line => i = .leaseReleaseRequest holder line
  | .leaseRelease holder line => i = .leaseRelease holder line
  | .holderLeaseExpiry basin line => i = .holderLeaseExpiry basin line
  | .homeLeaseExpiry basin line => i = .homeLeaseExpiry basin line
  | .leaseDrift basin uncertainty => i = .leaseDrift basin uncertainty
  | .ifetchMiss group => i = .ifetchMiss group
  | .dxForcedPublish line => i = .dxForcedPublish line
  | .xframeSet frame => i = .xframeSet frame
  | .xframeClear frame => i = .xframeClear frame
  | .hbmctlRetire stack channel => i = .hbmctlRetire stack channel
  | .channelTrainingFail stack channel => i = .channelTrainingFail stack channel
  | .repairLimit stack channel => i = .repairLimit stack channel
  | .rebuildSegment stack => i = .rebuildSegment stack
  | .nmuExecute workgroup => i = .nmuExecute workgroup
  | .nmuComplete workgroup => i = .nmuComplete workgroup
  | .cxlTimeout port => i = .cxlTimeout port
  | .cxlLinkEvent port cause => i = .cxlLinkEvent port cause
  | .cxlctlResume port => i = .cxlctlResume port
  | .keySlotLoad slot => i = .keySlotLoad slot
  | .sealctlReinit stack frame slot => i = .sealctlReinit stack frame slot
  | .sealctlPoolinit stack => i = .sealctlPoolinit stack
  | .sealCommandDone stack => i = .sealCommandDone stack
  | .rcbupdUpdate region => i = .rcbupdUpdate region
  | .rcbupdClrfault region => i = .rcbupdClrfault region
  | .rcbupdApply => i = .rcbupdApply
  | .rgnkill region => i = .rgnkill region
  | .hqptrPut basin queue put => i = .hqptrPut basin queue put
  | .packetTake basin => i = .packetTake basin
  | .workgroupPlace basin => i = .workgroupPlace basin
  | .glenCompaction core glen => i = .glenCompaction core glen
  | .taskStart core => i = .taskStart core
  | .taskWaitSave workgroup => i = .taskWaitSave workgroup
  | .taskRequeue workgroup => i = .taskRequeue workgroup
  | .quantumExpiry workgroup => i = .quantumExpiry workgroup
  | .quantumSave workgroup => i = .quantumSave workgroup
  | .yieldSave workgroup => i = .yieldSave workgroup
  | .workgroupRestore workgroup => i = .workgroupRestore workgroup
  | .turnLimit pipe => i = .turnLimit pipe
  | .starvedTurn group => i = .starvedTurn group
  | .entryAgeLimit group => i = .entryAgeLimit group
  | .febTimeout group lane => i = .febTimeout group lane
  | .waitTimeout group lane => i = .waitTimeout group lane
  | .timeatRelease group => i = .timeatRelease group
  | .timedStart workgroup number => i = .timedStart workgroup number
  | .budgetPeriod basin => i = .budgetPeriod basin
  | .engineClaim core => i = .engineClaim core
  | .matrixUnit core => i = .matrixUnit core
  | .matrixComplete core => i = .matrixComplete core
  | .streamWord group queue => i = .streamWord group queue
  | .cqbusyTimeout group => i = .cqbusyTimeout group
  | .copyStart workgroup number => i = .copyStart workgroup number
  | .copyComplete workgroup number => i = .copyComplete workgroup number
  | .doorbellSend port => i = .doorbellSend port
  | .msixArrival port requester offset size => i = .msixArrival port requester offset size
  | .endpointRequest port requester pasid kind handle size value => i = .endpointRequest port requester pasid kind handle size value
  | .atsTranslationRequest port requester pasid handle => i = .atsTranslationRequest port requester pasid handle
  | .priPageRequest port requester pasid handle write => i = .priPageRequest port requester pasid handle write
  | .atsInvalTimeout port requester => i = .atsInvalTimeout port requester
  | .barRequestTimeout request => i = .barRequestTimeout request
  | .ntbPeerRequest peer address kind size value => i = .ntbPeerRequest peer address kind size value
  | .linkTrained port speed width flit => i = .linkTrained port speed width flit
  | .rpctlDpcRelease port => i = .rpctlDpcRelease port
  | .collStep comm sender rank data => i = .collStep comm sender rank data
  | .collStepTimeout comm rank sender => i = .collStepTimeout comm rank sender
  | .abortNotice comm rank culprit cause => i = .abortNotice comm rank culprit cause
  | .commcmdCreate descriptor => i = .commcmdCreate descriptor
  | .commcmdReform descriptor => i = .commcmdReform descriptor
  | .commcmdDestroy descriptor => i = .commcmdDestroy descriptor
  | .reformAck comm => i = .reformAck comm
  | .reformAckTimeout comm => i = .reformAckTimeout comm
  | .exclusionNotice comm rank epoch => i = .exclusionNotice comm rank epoch
  | .stepRejection comm rank epoch => i = .stepRejection comm rank epoch
  | .moduleReset code digest => i = .moduleReset code digest
  | .measExtend register digest => i = .measExtend register digest
  | .svcupUp => i = .svcupUp
  | .powerStep step capped => i = .powerStep step capped
  | .gtbsyncSrc source => i = .gtbsyncSrc source
  | .lapseEntryClear basin entry => i = .lapseEntryClear basin entry
  | .lapsectlClear basin => i = .lapsectlClear basin
  | .dbgcmdHalt command => i = .dbgcmdHalt command
  | .dbgcmdResume command => i = .dbgcmdResume command
  | .dbgcmdStep command => i = .dbgcmdStep command
  | .dbgcmdRead command => i = .dbgcmdRead command
  | .dbgcmdWrite command => i = .dbgcmdWrite command
  | .dbgwpbWrite watchpoint value => i = .dbgwpbWrite watchpoint value
  | .capabilityRecheck region => i = .capabilityRecheck region
  | .pcSample core => i = .pcSample core
  | .registerWrite basin offset size value => i = .registerWrite basin offset size value
  | .illegalEncoding word reason => i = .illegalEncoding word reason
  | .atsInvalidationCompletion port requester => i = .atsInvalidationCompletion port requester
  | .rootPortCompletion request status data => i = .rootPortCompletion request status data
  | .cxlMemCompletion port poisoned => i = .cxlMemCompletion port poisoned
  | .pcieLinkDown port dpc => i = .pcieLinkDown port dpc
  | .hbmTrainingDone => i = .hbmTrainingDone
  | .gtbDiscipline uncertainty => i = .gtbDiscipline uncertainty

end Sys2Proof.Machine
end

