-- ==== Sys2Proof/Machine/State.lean ====
section
/-! DEFINITION. The state of the module as plain data, the reasons a step can stop, and the state after reset.
Every structure names the rule of the spec that gives it. A map with a default lists only what differs from the default. -/
namespace Sys2Proof.Machine

/-- Why a step stops with a fault. -/
inductive Fault where
  /-- Raised by the meaning of an encoded instruction in a state in which no group issues (State.cur is none, or names
  no resident group with a thread to issue): there is no thread the instruction could act for. Safe: step never issues so. -/
  | noIssuer
  deriving DecidableEq, Repr

/-- Why a step is refused. -/
inductive Refusal where
  /-- An instruction without a meaning yet, by its mnemonic. Safe. -/
  | notModelled (mnemonic : String)
  deriving DecidableEq, Repr

/-- Trap causes, in the order of their codes (R400). -/
inductive Cause where
  | illop | misalign | pagefault | nullbuf | bufbound | bufrights | bufowner | scrbound | xperm | xtorn | mmx | poison
  | linkdown | febtimeout | waittimeout | regerr | ctrexh | accessdeny | engfault | fptrap | syscall | bkpt | watch
  | step | callovf
  deriving DecidableEq, Repr

/-- Stall reasons, in the order of their numbers (R441). -/
inductive Stall where
  | dbg | preempt | trap | fetch | xpub | barrier | waitaddr | tlwait | grace | feb | memdep | stream | engq | fence
  | exec | pipe
  deriving DecidableEq, Repr

/-- Bank roles, in the order of their PROLE codes (R47). -/
inductive Role where
  | off | reg | scr | cch | mxs | trn
  deriving DecidableEq, Repr

/-- States of a line in a core's CCH and at its home (R83, R84). -/
inductive LineState where
  | inv | shared | modified | update
  deriving DecidableEq, Repr

/-- A register word: 32 data bits and the 7-bit residue, 0x7F marking poison (R73, R75). -/
structure RegWord where
  val : Word
  res : BitVec 7
  deriving DecidableEq, Repr

/-- A bypass latch (R66, R219): its value, the bytes whose stored parity bit does not match them, and what the value knows of other
threads' regions through a G-page load it depends on (R139). -/
structure Latch where
  val : DWord
  par : BitVec 8
  dep : NMap Nat
  deriving DecidableEq, Repr

/-- A word in a stream queue (R66, R375): its value, the bytes whose stored parity bit does not match them, and whether it is
delivered as poison. -/
structure QWord where
  val    : Word
  par    : BitVec 4
  poison : Bool
  deriving DecidableEq, Repr

/-- A return stack entry (R172). -/
structure StackEntry where
  pc   : DWord
  prio : BitVec 8
  deriving DecidableEq, Repr

/-- The hints a thread has taken and not yet used: the address of the first, and the payloads (R224). -/
structure Hint where
  first : DWord
  xh    : Option (BitVec 3)
  xm    : Option (BitVec 23)
  xw    : List (BitVec 23)
  deriving DecidableEq, Repr

/-- A location that can be synchronised on: a byte of global storage by its address, or a byte of the scratchpad of
workgroup `wg` (R142). -/
structure Loc where
  sp   : Bool
  wg   : Nat
  addr : Nat
  deriving DecidableEq, Repr

/-- What a thread at a blocking wait waits for (R183). -/
inductive WaitFor where
  | addr (loc : Loc) (size cond : Nat) (value : DWord)
  | barrier (loc : Loc) (generation : Word)
  | timeline (handle : Nat) (n : Nat)
  | grace (region target : Nat)
  | mask (m : Nat)
  | time (t : Nat)
  deriving DecidableEq, Repr

/-- A blocking wait: what for, the GTB at which the present stay began, the time of earlier stays (R185, R206), the
value TVAL names on WAITTIMEOUT, and the outcome once its condition is met (or, of a location, has to be tested again, 2). -/
structure Wait where
  what    : WaitFor
  since   : Nat
  elapsed : Nat
  tval    : DWord
  outcome : Option (Nat × DWord)
  deriving DecidableEq, Repr

/-- A pending late trap (R46, R120, R124, R404): `order` follows the order of the accesses. -/
structure Late where
  order : Nat
  cause : Cause
  tval  : DWord
  deriving DecidableEq, Repr

/-- A wait on an empty scratchpad line (R69, R70, R223): the GTB at which it began, the line by target workgroup and
address, whether it began inside a hold window, and the lines, by workgroup and number, that the window has aborted for. -/
structure FebWait where
  since : Nat
  wg    : Nat
  addr  : Nat
  hold  : Bool
  lines : List (Nat × Nat)
  deriving DecidableEq, Repr

/-- What a trap carries for one lane (R400 to R404): cause, subcode, TVAL, v90:v91, the name of the earlier thread of an
MMX, whether it is delivered late, whether it was met inside a hold window, and whether it goes to the fault domain with no
handler (R406). -/
structure LaneTrap where
  cause : Cause
  sub   : Nat
  tval  : DWord
  extra : DWord
  name  : Nat × Nat × Nat
  late  : Bool
  hold  : Bool
  fatal : Bool
  deriving DecidableEq, Repr

/-- A thread of a resident or saved group (R168, R172, R219, R224).  `park` is the page-fault record it is parked
on with the trap it takes on FAIL, `feb` a wait on an empty line, `failed` a trap it takes when it next issues (R36, R222), `memwait` that it has
waited for memory at its present instruction (R120), `began` the GTB at which its present instruction was first issued to it, while it
has not completed (R134), `sfr` the number of its synchronisation-free region, `clock` what it
knows of other threads' ended regions (R128, R132). -/
structure Thread where
  pc       : DWord
  prio     : BitVec 8
  latches  : List Latch
  stack    : List StackEntry
  spilled  : Nat
  exited   : Bool
  hint     : Option Hint
  wait     : Option Wait
  park     : Option (Nat × LaneTrap)
  feb      : Option FebWait
  failed   : Option LaneTrap
  memwait  : Bool
  began    : Option Nat
  late     : List Late
  waited   : Nat
  nowatch  : Bool
  sfr      : Nat
  clock    : NMap Nat
  deriving DecidableEq, Repr

/-- An open hold window (R220, R221): the XH's address, instructions left, instructions issued, the entry's lanes, the
operand codes read so far, and for each shifting instruction, newest first, whether its latch is wide. -/
structure Window where
  xh     : DWord
  left   : Nat
  pos    : Nat
  lanes  : BitVec 32
  reads  : List Nat
  shifts : List Bool
  deriving DecidableEq, Repr

/-- Trap state of a terrace (R403). -/
structure Trap where
  tpc    : DWord
  tval   : DWord
  tmask  : BitVec 32
  tcause : Word
  prio   : BitVec 8
  plevel : BitVec 2
  hold   : Bool
  deriving DecidableEq, Repr

/-- A terrace that holds no trap state yet (R403). -/
def Trap.empty : Trap :=
  { tpc := 0#64, tval := 0#64, tmask := 0#32, tcause := 0#32, prio := 0#8, plevel := 0#2, hold := false }

/-- A completed command's record (R371). -/
structure CmdRec where
  n      : Nat
  status : Nat
  detA   : Nat
  detB   : Nat
  gtb    : Nat
  deriving DecidableEq, Repr

/-- A timeline context (R148, R368, R371): the highest number issued, the numbers not yet complete, the error flag, and
the records of the most recently completed commands, newest first.  The counter is derived from the open numbers. -/
structure Timeline where
  issued : Nat
  pend   : List Nat
  err    : Bool
  recs   : List CmdRec
  deriving DecidableEq, Repr

/-- A bound stream (R373, R374): its number on tl2, its descriptor words, the words its access slice has moved, the page fault it is
parked on, and whether it has completed and reads again, after a restore, words that were queued at the save (R377). -/
structure Stream where
  num    : Nat
  desc   : List DWord
  moved  : Nat
  region : Nat
  ue     : Bool
  park   : Option Nat
  again  : Bool
  deriving DecidableEq, Repr

/-- A stream queue of a group (R375, R376): `unit` is the MXS bank of its staging unit, none for the private buffer, `struck` that a word
of the unit is uncorrectable (R76), `ended` the completed load stream whose last words it still holds. -/
structure Queue where
  stream : Option Stream
  words  : List QWord
  dir    : Bool
  status : Nat
  unit   : Option Nat
  struck : Bool
  ended  : Option Stream
  deriving DecidableEq, Repr

/-- Kinds of queued matrix commands (R346). -/
inductive MxKind where
  | wload | wswap | mma | mmax | aclr | ast | bad
  deriving DecidableEq, Repr

/-- A queued or stopped matrix command with its captured operands (R346, R351, R354, R355, R360): `unit` is the MXS bank of its
staging unit (R364), `staged` the rows a WLOAD has read, `ue` that an AST has met a poisoned element, `struck` that a word of its
staging unit is uncorrectable (R76), `issued` the GTB at which it was queued. -/
structure MxCmd where
  num     : Nat
  kind    : MxKind
  group   : Nat
  region  : Nat
  tr      : Bool
  rows    : Nat
  base    : DWord
  stride  : Nat
  cfg     : Word
  scale   : Option DWord
  lanes   : BitVec 32
  handles : NMap DWord
  bank    : Option Nat
  done    : Nat
  started : Bool
  park    : Option Nat
  status  : Option Nat
  mode    : Nat
  resumed : Bool
  unit    : Option Nat
  staged  : List (List Nat)
  ue      : Bool
  struck  : Bool
  issued  : Nat
  deriving DecidableEq, Repr

/-- A group of 32 threads (R4, R166, R167).  `regs` is keyed by register number × 32 + lane, `terV` likewise for v88 to
v95 of the terrace, `terS` by uniform register number; `slabs` are the window's physical slabs, bank × 32 + place (R61).  `vdeps` and `sdeps` hold what a register's value knows of other
threads' regions through a G-page load of a lane it depends on (R139), by register × 32 + lane.  `maskPar` gives the bytes of a mask register whose parity bit does not match (R66),
`upset` the bits that a soft error of the pipe's arithmetic is about to flip in the next result of a lane, lane 32 standing for
the uniform results (R73, R74).  `pend` counts by line the stores and REDs of the group that are not
yet visible at .dev (R87, R131).  `trap` is the trap state while the group is in trap mode, `lastTrap` what the terrace holds
otherwise (R403, R439). -/
structure Group where
  wg       : Nat
  gix      : Nat
  core     : Nat
  pipe     : Nat
  slot     : Nat
  slabs    : List Nat
  count    : Nat
  regs     : NMap RegWord
  sregs    : NMap RegWord
  vdeps    : NMap (NMap Nat)
  sdeps    : NMap (NMap Nat)
  masks    : NMap (BitVec 32)
  maskPar  : NMap (BitVec 4)
  upset    : NMap Word
  threads  : NMap Thread
  depth    : Nat
  fpctl    : Word
  fpstat   : Word
  window   : Option Window
  pend     : NMap Nat
  stopped  : Option MxCmd
  stoppedStatus : Nat
  trap     : Option Trap
  lastTrap : Trap
  terV     : NMap RegWord
  terS     : NMap RegWord
  queues   : NMap Queue
  tl2      : Timeline
  stall    : Option Stall
  held     : Option Stall
  counted  : Option Stall
  entering : Option (NMap LaneTrap × DWord)
  colDue   : Bool
  engqSince : Option Nat
  halted   : Bool
  stepOnce : Bool
  paused   : Bool
  rowLanes : BitVec 32
  row      : Nat
  counters : NMap (BitVec 64)
  issued   : BitVec 64
  traps    : Nat
  moves    : Nat
  saves    : Nat
  tstart   : Nat
  exited   : Bool
  deriving DecidableEq, Repr

/-- One slice of a collective copy, or the whole of a CPYM, GATH or SCAT: the issuing group's index and the eight
descriptor words (R379, R383). -/
structure Slice where
  gix    : Nat
  desc   : List Word
  notify : Word
  start  : Option Nat
  deriving DecidableEq, Repr

/-- A copy engine command (R378 to R383): `index` is k of a collective copy (R380), `done` the 16-byte units or rows performed,
`ue` that poison has been carried, `refused` the ranks that refused a CPYM. -/
structure CopyCmd where
  num      : Nat
  index    : Nat
  done     : Nat
  ue       : Bool
  refused  : Nat
  kind     : Nat
  members  : List Nat
  slices   : List Slice
  reserved : Bool
  region   : Nat
  scope    : Nat
  started  : Bool
  park     : Option Nat
  outcome  : Option (Nat × Nat × Nat)
  deriving DecidableEq, Repr

/-- A near-memory command in its context (R387); `done` counts the granules written (R116). -/
structure NmuCmd where
  num    : Nat
  words  : List Word
  status : Option DWord
  region : Nat
  group  : Nat
  park   : Option Nat
  done   : Nat
  result : Option (Nat × Nat × Nat × Nat)
  deriving DecidableEq, Repr

/-- A doorbell of the DOP (R384): its handle, and once that is translated the root port it is queued at and the address; the page
fault it is parked on. -/
structure Doorbell where
  wg     : Nat
  num    : Nat
  region : Nat
  core   : Nat
  handle : DWord
  size   : Nat
  value  : DWord
  target : Option (Nat × Nat)
  park   : Option Nat
  deriving DecidableEq, Repr

/-- The directory entry of a scratchpad segment (R88, R91): the owning cluster rank, the ranks holding S copies, and the
rank that ownership is moving to. -/
structure SegDir where
  owner   : Nat
  holders : BitVec 24
  moving  : Option Nat
  deriving DecidableEq, Repr

/-- Where a workgroup that is not resident is kept (R180, R206, R340): since when, and for a record in a save pool its physical
address; a task's record also names when it re-enters its bucket. -/
inductive Saved where
  | resident
  | pool (since pa : Nat)
  | area (since : Nat)
  | task (until_ since pa : Nat)
  deriving DecidableEq, Repr

/-- A workgroup (R4, R67, R68, R167, R205, R368).  `scr` lists the scratchpad bytes that are not zero, `empty` the empty
lines, `poisonW` the words with the poison syndrome, `segMap` the physical segment of each workgroup segment,
`slices` the slices each group has issued and `copyNums` the number of each collective copy formed (R380). -/
structure Workgroup where
  launch    : Nat
  task      : Bool
  region    : Nat
  wix       : Nat
  wx        : Nat
  wy        : Nat
  wz        : Nat
  rank      : Nat
  cluster   : Nat
  groups    : Nat
  core      : Nat
  segs      : Nat
  scr       : List Host.Cell
  empty     : List Nat
  poisonW   : List Nat
  segMap    : NMap Nat
  segDir    : NMap SegDir
  tls       : NMap Timeline
  copies    : List CopyCmd
  slices    : NMap Nat
  copyNums  : NMap Nat
  nmus      : List NmuCmd
  spill     : DWord
  spillSize : Nat
  regCount  : Nat
  saved     : Saved
  resident  : Nat
  yieldable : Bool
  blocked   : Option Nat
  exited    : Bool
  deriving DecidableEq, Repr

/-- A grid that holds a descriptor (R174 to R176, R190, R194): `basin` is its dispatcher's. -/
structure Grid where
  region   : Nat
  packet   : List DWord
  parent   : Option Nat
  ctx      : Option (Nat × Nat)
  hostq    : Option (Nat × Nat)
  groups   : Nat
  regCount : Nat
  scratch  : Nat
  spillSize : Nat
  entry    : DWord
  per      : Nat × Nat × Nat
  nx       : Nat
  ny       : Nat
  nz       : Nat
  streams  : NMap (List DWord)
  left     : Nat
  basin    : Nat
  aborted  : Bool
  deriving DecidableEq, Repr

/-- A workgroup of a grid, or a cluster of them, waiting for placement, a saved workgroup waiting to be restored, or the task at the
head of a core's bucket (R196, R201, R207): `core` where it waits in a core's list, `woken` the cores on which banks are being woken
for it (R199). -/
structure Waiting where
  grid    : Nat
  first   : Nat
  size    : Nat
  restore : Option Nat
  basin   : Nat
  core    : Option Nat
  since   : Nat
  woken   : List Nat
  task    : Bool
  deriving DecidableEq, Repr

/-- A continuation record in the steppe (R177 to R179, R389), `since` when it became runnable. -/
structure Record where
  home     : Nat
  slot     : Nat
  gen      : Nat
  code     : DWord
  frame    : DWord
  affinity : DWord
  join     : Word
  region   : Nat
  deferred : Bool
  isFault  : Bool
  runnable : Bool
  saved    : Option Nat
  since    : Nat
  deriving DecidableEq, Repr

/-- A strath bank (R47, R51, R55): its role, the region it is charged to, and when it is TRN its outgoing and incoming
roles and whether its handshake is done. -/
structure Bank where
  role     : Role
  region   : Nat
  outgoing : Role
  incoming : Role
  drained  : Bool
  deriving DecidableEq, Repr

/-- An admitted ROLE request (R55): its completion value, its region and its banks still in transition. -/
structure RoleReq where
  n      : Nat
  region : Nat
  banks  : List Nat
  deriving DecidableEq, Repr

/-- A CCH line of a core (R83): data, dirty bytes, the bytes of poisoned sectors not written since, the words found uncorrectable in the
bank (R76), the bank it lies in and its place there, the region that allocated it, and for a U line its operator, type and touched
elements. -/
structure CchLine where
  state   : LineState
  data    : BitVec 1024
  dirty   : BitVec 128
  poison  : BitVec 128
  badW    : BitVec 32
  bank    : Nat
  way     : Nat
  region  : Nat
  op      : Nat
  typ     : Nat
  touched : BitVec 32
  deriving DecidableEq, Repr

/-- A weight bank (R350): state code, format, scales flag, and by column n its elements and its block scales with their extra
values. -/
structure WBank where
  state  : Nat
  fmt    : Nat
  sc     : Bool
  tile   : NMap (List Nat)
  scales : NMap (List (Nat × Nat))
  deriving DecidableEq, Repr

/-- A core's matrix engine (R344, R346, R350, R358, R363).  `store` holds the rows that are not zero, `bound` and `badEl` the
elements, row × 256 + column, that are held at a bound (R257) or poisoned (R358). -/
structure Mxe where
  holder  : Option Nat
  front   : Bool
  bank0   : WBank
  bank1   : WBank
  f64     : Bool
  anchor  : BitVec 10
  store   : NMap (List Int)
  bound   : List Nat
  badEl   : List Nat
  rows    : NMap (BitVec 3)
  drain   : BitVec 5
  errStat : Nat
  errCmd  : Nat
  queue   : List MxCmd
  waiters : List Nat
  deriving DecidableEq, Repr

/-- A pipe's turn (R203): the group whose turn it is, its issues in the turn, the slot that issued last, and the time until which that
instruction occupies the pipe (R166). -/
structure Pipe where
  group : Option Nat
  count : Nat
  last  : Nat
  busy  : Nat
  deriving DecidableEq, Repr

/-- A cached leaf translation (R32): root, 4 KiB virtual page, and the leaf entry with the frame of that page. -/
structure Tlb where
  root : Nat
  vpn  : Nat
  pte  : DWord
  deriving DecidableEq, Repr

/-- A move of a window in progress or waiting (R65, R200): the group and its reserved slabs. -/
structure Move where
  group : Nat
  dest  : List Nat
  req   : Option Nat
  deriving DecidableEq, Repr

/-- An attempt to compact a glen (R200): the slabs wanted, the windows still to be slid in ascending order, the slabs moved. -/
structure Slide where
  want  : Nat
  rest  : List Nat
  moved : Nat
  deriving DecidableEq, Repr

/-- A move of a scratchpad segment waiting (R56): workgroup, segment index, destination physical segment. -/
structure SegMove where
  wg   : Nat
  seg  : Nat
  dest : Nat
  deriving DecidableEq, Repr

/-- A core (R2, R47 to R78, R102, R344).  `bte` is keyed by table base × 65,536 + index; `soft` holds the words of SCR, CCH and MXS banks,
bank × 32,768 + word, whose check bits do not match: 1 by a single bit, else uncorrectably (R76). -/
structure Core where
  banks     : NMap Bank
  ready     : Bool
  busy      : Bool
  pool      : Timeline
  reqs      : List RoleReq
  moves     : List Move
  segMoves  : List SegMove
  moveCount : Nat
  ceCount   : Nat
  soft      : NMap Nat
  bte       : NMap (BitVec 256)
  tlb       : List Tlb
  icache    : NMap (BitVec 1024)
  cch       : NMap CchLine
  mxe       : Mxe
  pipes     : NMap Pipe
  glenPtr   : Nat
  compact   : List Nat
  sliding   : NMap Slide
  sampleGrp : Nat
  deriving DecidableEq, Repr

/-- A home directory entry (R83): home state, holder vector, and the pair of a U line. -/
structure DirEntry where
  state   : LineState
  holders : BitVec 24
  op      : Nat
  typ     : Nat
  deriving DecidableEq, Repr

/-- A line in an RDC, with the lease that holds it (R92, R95): `poison` as in `CchLine`. -/
structure RdcLine where
  data    : BitVec 1024
  dirty   : BitVec 128
  poison  : BitVec 128
  write   : Bool
  expiry  : Nat
  len     : Nat
  region  : Nat
  deriving DecidableEq, Repr

/-- A lease granted by a home (R92 to R94): holder class (1 basin RDC, 4 peer module), holder, line, kind, the GTB until
which the home treats it as held, and the region. -/
structure Lease where
  hclass  : Nat
  holder  : Nat
  line    : Nat
  write   : Bool
  expiry  : Nat
  region  : Nat
  deriving DecidableEq, Repr

/-- A lapse entry (R96). -/
structure Lapse where
  hclass : Nat
  holder : Nat
  region : Nat
  lines  : Nat
  deriving DecidableEq, Repr

/-- A page-fault record still to be answered, or waiting for room (R35 to R37): what faulted and who is parked on it.
`seq` is none until the record is written, `pages` names the page requests of endpoints (root port, requester) it answers (R416). -/
structure PfRec where
  id      : Nat
  seq     : Option Nat
  root    : Nat
  page    : Nat
  cls     : Nat
  sub     : Nat
  va      : Nat
  bufidx  : Nat
  region  : Nat
  master  : Nat
  stamp   : Nat
  waiters : Nat
  pages   : List (Nat × Nat)
  deriving DecidableEq, Repr

/-- A page walk in a basin's walk queue (R33): root, page, the core whose caches it fills, the request it is made for (region,
master, level, whether it sets D), whether it has started, and whether it found no leaf. -/
structure Walk where
  root    : Nat
  vpn     : Nat
  core    : Option Nat
  region  : Nat
  master  : Nat
  write   : Bool
  started : Bool
  failed  : Bool
  deriving DecidableEq, Repr

/-- An event the part records for the supervisor's cores: the interrupt raised by a ring (R35, R407). -/
structure Irq where
  basin : Nat
  ring  : Nat
  deriving DecidableEq, Repr

/-- The basin registers of R29 that hold a value of their own; `dbgpc` is the low PC word a DBGCMD WRITE has staged (R435). -/
inductive BReg where
  | lguard | lapsectl | ctxpool | evqbase | evqptr | pfqbase | pfqptr | pfqresp | secfetch | secuse
  | hbmctl (s : Nat) | sealpool (s : Nat) | sealctl (s : Nat) | retmap (s n : Nat)
  | rpctl (i : Nat) | cxlctl (i : Nat) | pasidtab (i : Nat) | pasidnone (i : Nat)
  | hqbase (n : Nat) | hqptr (n : Nat) | hqstat (n : Nat)
  | rgndir | rcbupd | iatbase | steppecfg | tvecp | tvecs | gtbsync | commcmd | pwrlimit | bootstat
  | sampctl | dbgcmd | dbgpc | dbgdata | dbgname (n : Nat) | dbgqbase | dbgqptr | profqbase | profqptr | sampqbase | sampqptr
  | dbgwpa (n : Nat) | dbgwpb (n : Nat) | ntbap (n : Nat) | matctl (t : Nat) | denycount (t : Nat)
  deriving DecidableEq, Repr

/-- A register's value after reset (R29 and the register tables). -/
def BReg.reset : BReg → DWord
  | .lguard => 100#64
  | .cxlctl _ => 50#64
  | .rpctl _ => 0x200#64
  | .gtbsync => 0xFFFFFFFF#64
  | .pwrlimit => 3400#64
  | .sampctl => 10#64
  | _ => 0#64

/-- Sealed storage of a stack (R121 to R125): pool epoch, per frame the major counter, the minors, slot and generation,
tree node counters, the lines whose tag does not match, the frames re-encrypted whose copies are still to be recalled (R123), and
whether a POOLINIT is in progress. -/
structure SealFrame where
  major  : Nat
  minors : NMap Nat
  slot   : Nat
  gen    : Nat
  deriving DecidableEq, Repr

/-- See `SealFrame`. -/
structure SealState where
  epoch  : BitVec 17
  frames : NMap SealFrame
  nodes  : NMap Nat
  badTag : List Nat
  reenc  : List Nat
  initing : Bool
  deriving DecidableEq, Repr

/-- An L2 line (R80 to R82): its 64-byte sectors that are valid, those that are dirty, and those the footprint predictor has fetched that
no access has demanded yet.  Their bytes and poison are held with the memory. -/
structure L2Line where
  valid : BitVec 32
  dirty : BitVec 32
  extra : BitVec 32
  deriving DecidableEq, Repr

/-- Repair state of a stack (R109 to R112): retired channels in order, queued retirements, row segments left to place, the
degraded log, the row segments (channel, first, number) lost to a second failure of a parity group (R111), and by channel the GTB of
the repairs counted against it, newest first (R106, R109). -/
structure StackState where
  retired  : List Nat
  queued   : List Nat
  remain   : Nat
  degraded : List Nat
  lost     : List (Nat × Nat × Nat)
  repairs  : NMap (List Nat)
  deriving DecidableEq, Repr

/-- An interrupt arrival held for a workgroup that is not resident (R386): its IAT entry, the target, and the count. -/
structure Held where
  entry  : Nat
  launch : Nat
  wix    : Nat
  addr   : Nat
  count  : Nat
  region : Nat
  deriving DecidableEq, Repr

/-- A basin (R1); `l2` holds the lines of its L2 slices by row segment (R80, R82); `lapsed` and `exhLost` list the groups with a line of theirs whose bytes were lost to a lapse (R96) or to write
exhaustion (R124), `dxForced` counts the lines its homes have published themselves (R100); `lapsers` are the holders that have lapsed, by class and number (R96); `uncert` is its agent's GTB uncertainty in ns (R98, R420). -/
structure Basin where
  regs     : List (BReg × DWord)
  mat      : NMap (BitVec 256)
  denial   : NMap (BitVec 256)
  lapses   : NMap Lapse
  lapsed   : List (Nat × Nat)
  l2       : NMap L2Line
  dir      : NMap DirEntry
  rdc      : NMap RdcLine
  leases   : List Lease
  uncert   : Nat
  walks    : List Walk
  tlb      : List Tlb
  pfq      : List PfRec
  fablog   : List (Nat × Nat × Nat)
  lapsers  : List (Nat × Nat)
  held     : List Held
  waits    : List Waiting
  corePtr  : Nat
  queuePtr : Nat
  spent    : NMap Nat
  exhLost  : List (Nat × Nat)
  dxForced : Nat
  deriving DecidableEq, Repr

/-- A region's own state (R158, R159): its registered RCB words, the fields the part keeps, the grace period in progress
as the groups that have not passed a col, and the launch queue counts with the workgroup and command number of each packet
written. -/
structure Region where
  words   : NMap DWord
  gseq    : BitVec 64
  greq    : BitVec 64
  period  : Option (List Nat)
  dead    : Bool
  posted  : Bool
  cause   : BitVec 8
  origin  : BitVec 20
  ftime   : BitVec 64
  lqPut   : BitVec 64
  lqTake  : BitVec 64
  lqCtx   : NMap (Nat × Nat)
  halt    : Option (Option Nat × Nat)
  deriving DecidableEq, Repr

/-- A collective a local rank has joined (R392 to R395): `issue` is when its steps became due, `got` the contributions that have
arrived by rank, `sent` the ranks its own have gone to. -/
structure Coll where
  k      : Nat
  wg     : Nat
  num    : Nat
  desc   : List Word
  region : Nat
  group  : Nat
  start  : Option Nat
  issue  : Nat
  got    : NMap (List Nat)
  sent   : List Nat
  deriving DecidableEq, Repr

/-- A local rank of a communicator (R392, R397): `inbox` holds the step messages that have arrived early, by sender, `excluded`
marks a rank a re-form on this module has left out (R423). -/
structure CommRank where
  comm    : Nat
  rank    : Nat
  region  : Nat
  state   : Nat
  cause   : Nat
  culprit : Option Nat
  epoch   : Nat
  seq     : Nat
  colls   : List Coll
  inbox   : List (Nat × List Nat)
  excluded : Bool
  deriving DecidableEq, Repr

/-- A communicator known to the module (R422, R423): step timeout in ns, the rank table as (module, region), and a
re-form that waits for acknowledgements until a GTB time. -/
structure Comm where
  tstep   : Nat
  table   : List (Nat × Nat)
  reform  : Option Nat
  deriving DecidableEq, Repr

/-- A message of the CXE on its way (R395, R423): kind 0 an abort notice, 1 an exclusion notice, 2 a rejection, 3 a step's data,
the sender standing as culprit. -/
structure Notice where
  comm    : Nat
  kind    : Nat
  target  : Nat
  culprit : Nat
  cause   : Nat
  epoch   : Nat
  data    : List Nat
  deriving DecidableEq, Repr

/-- A posted write that has left a root port (R87, R384, R466): `peer` is the module it goes to through an NTB, as a request of `master`
(R418). -/
structure Posted where
  port  : Nat
  peer  : Option Nat
  master : Nat
  pa    : Nat
  size  : Nat
  value : Nat
  deriving DecidableEq, Repr

/-- A non-posted request outstanding at a root port (R413, R466): who waits for it, what it asks for (op 0 a read, else an
atomic's operator and type, with its operands, or a store that the group's release waits for, op 4096, with the handle address), the
core it counts against (R3), the lanes a late trap of a store goes to, whether it was made through a DEV buffer (R87), the peer module it
goes to through an NTB as a request of `master` (R418), whether the unit of work that waits for it has taken its completion, and that
completion once it has one. -/
structure BarReq where
  id     : Nat
  port   : Nat
  dev    : Bool
  peer   : Option Nat
  master : Nat
  used   : Bool
  group  : Nat
  lane   : Nat
  pa     : Nat
  size   : Nat
  op     : Nat
  value  : Nat
  cmp    : Nat
  since  : Nat
  core   : Nat
  lanes  : List Nat
  result : Option (Nat × Nat)
  deriving DecidableEq, Repr

/-- A .mem request outstanding at a CXL port (R119), on the link whose share of the window holds the line (R118); one of a DEV buffer
fills no cache, and stands with its line's poison once it has been answered (R15).  `askers` are the groups that wait for it, none
standing for the part's own units; `down` that containment has completed it with LINKDOWN, which each of them has still to take. -/
structure CxlReq where
  port  : Nat
  link  : Nat
  line  : Nat
  since : Nat
  dev   : Bool
  ready : Bool
  askers : List (Option Nat)
  down  : Bool
  deriving DecidableEq, Repr

/-- A fence waiting for endpoints to acknowledge ATS invalidations of a root (R38, R417). -/
structure AtsWait where
  root  : Nat
  group : Nat
  port  : Nat
  rid   : Nat
  since : Nat
  deriving DecidableEq, Repr

/-- A history entry of a 4-byte granule (R134, R136): thread, region number of its SFR, write flag, kind (0 plain,
1 atomic, 2 + pair a RED), PC, the thread's logical name, and the GTB that names the execution of the instruction. -/
structure Hist where
  tid   : Nat
  sfr   : Nat
  write : Bool
  kind  : Nat
  pc    : DWord
  name  : Nat × Nat × Nat
  begun : Nat
  deriving DecidableEq, Repr

/-- What a release left at a location (R132, R133): the releaser's core and workgroup, its scope and its knowledge, and whether it is a
STREL, whose value a load of a G page can carry on (R139). -/
structure Release where
  core  : Nat
  wg    : Nat
  scope : Nat
  clock : NMap Nat
  strel : Bool
  deriving DecidableEq, Repr

/-- A registered waiter of a barrier (R313, R314), with the scope at which it acquires (R150). -/
structure BarWaiter where
  loc   : Loc
  group : Nat
  lane  : Nat
  gen   : Word
  scope : Nat
  deriving DecidableEq, Repr

/-- The reply the part has sent to an endpoint or peer request (R386, R415, R416, R418): root port and requester, the status (0
success, 1 Unsupported Request, 2 Completer Abort, 3 a page request answered Success, 4 answered Invalid Request) and the data. -/
structure Reply where
  port   : Nat
  rid    : Nat
  status : Nat
  data   : Nat
  deriving DecidableEq, Repr

/-- An error that a root port's AER has logged (R412, R414, R415, R466): the requester, 0 for the part's own request, and the status: 1
Unsupported Request and 2 Completer Abort sent, 3 one of them received. -/
structure AerEntry where
  port   : Nat
  rid    : Nat
  status : Nat
  deriving DecidableEq, Repr

/-- An RCBUPD in progress (R162): the region, its words, and whether it is unregistered. -/
structure RcbPending where
  id      : Nat
  words   : NMap DWord
  remove  : Bool
  deriving DecidableEq, Repr

/-- The memory side of the module: bytes by place of storage, poisoned 64-byte sectors with the bytes of each written since (R106,
R452), the lines of frames with XF, the lines with DX, oldest first, the lines that wait for a way for theirs with the GTB since when,
PUB of lines (R99, R100), the registered waiters of barriers, and the barriers whose last one is gone and which their home has still to
make OPEN (R314). -/
structure MemState where
  bytes   : List Host.Cell
  poison  : NMap (BitVec 64)
  xf      : List Nat
  dx      : List Nat
  dxWait  : List (Nat × Nat)
  pub     : NMap (BitVec 4)
  hist    : List (Loc × Hist)
  rel     : List (Loc × Release)
  barw    : List BarWaiter
  reopen  : List Loc
  deriving DecidableEq, Repr

/-- The machine. -/
structure State where
  /-- Main memory and what the homes keep with it. -/
  mem      : MemState
  /-- The basins 0 to 3. -/
  basins   : NMap Basin
  /-- The cores 0 to 87. -/
  cores    : NMap Core
  /-- The HBM4E stacks 0 to 7: repair state and sealed storage. -/
  hbm      : NMap StackState
  seals    : NMap SealState
  keyGen   : NMap (BitVec 16)
  /-- Groups by workgroup × 32 + index, workgroups by a number never reused with the matrix state saved with them (R365),
  grids by launch id. -/
  groups   : NMap Group
  wgs      : NMap Workgroup
  mxSaved  : NMap Mxe
  grids    : NMap Grid
  nextWg   : Nat
  nextLid  : Nat
  startPtr : Nat
  /-- Registered regions, an update in progress, the grace sequences and launch queues in them. -/
  regions  : NMap Region
  rcbPend  : Option RcbPending
  /-- The steppe: records in bucket order and the generation of each slot. -/
  steppe   : List Record
  slotGen  : NMap Nat
  /-- The CXE. -/
  comms    : NMap Comm
  ranks    : List CommRank
  notices  : List Notice
  /-- Root ports and endpoints; `cfgWrites` counts the configuration writes sent, on which what a port forwards depends (R466). -/
  bells    : List Doorbell
  sent     : List Posted
  barReqs  : List BarReq
  nextReq  : Nat
  cxlReqs  : List CxlReq
  atsHeld  : List (Nat × Nat × Nat)
  atsWaits : List AtsWait
  replies  : List Reply
  aer      : List AerEntry
  cfgWrites : Nat
  /-- Module level registers of more than 64 bits or without an offset: measurements, module id, GTB, service. -/
  meas     : NMap (BitVec 512)
  moduleId : BitVec 18
  gtb      : BitVec 64
  full     : Bool
  trained  : Bool
  firmware : Bool
  irqs     : List Irq
  /-- The model's own: events to come, those that wait until time has passed, the issuing group, the pipe that issued last,
  whether the part's own work is next, the
  number of the next page-fault wait, the counter of free values. -/
  agenda   : List Event
  later    : List Event
  cur      : Option Nat
  rotor    : Nat
  phase    : Bool
  parkNext : Nat
  freeCount : Nat
  deriving DecidableEq, Repr

/-- The timeline of a fresh context (R368). -/
def Timeline.fresh : Timeline := { issued := 0, pend := [], err := false, recs := [] }

/-- An OFF bank, charged to nobody (R50, R51). -/
def Bank.reset : Bank := { role := .off, region := 0, outgoing := .off, incoming := .off, drained := false }

/-- An empty weight bank (R350). -/
def WBank.reset : WBank := { state := 0, fmt := 0, sc := false, tile := [], scales := [] }

/-- The engine's initial state, unheld (R344): standard mode, anchor 54. -/
def Mxe.reset : Mxe :=
  { holder := none, front := false, bank0 := .reset, bank1 := .reset, f64 := false, anchor := 54#10, store := [],
    bound := [], badEl := [], rows := [], drain := 0#5, errStat := 0, errCmd := 0, queue := [], waiters := [] }

/-- A core after reset: every bank OFF, nothing cached (R50), its glen pointer at 0 (log entry 90). -/
def Core.reset : Core :=
  { banks := [], ready := false, busy := false, pool := .fresh, reqs := [], moves := [], segMoves := [], moveCount := 0,
    ceCount := 0, soft := [], bte := [], tlb := [], icache := [], cch := [], mxe := .reset, pipes := [], glenPtr := 0,
    compact := [], sliding := [], sampleGrp := 0 }

/-- A basin after reset: every register at its reset value (R29), its pointers at 0 (log entry 90). -/
def Basin.reset : Basin :=
  { regs := [], mat := [], denial := [], lapses := [], lapsed := [], l2 := [], dir := [], rdc := [], leases := [], uncert := 0xFFFFFFFF,
    walks := [], tlb := [], pfq := [], fablog := [], lapsers := [], held := [], waits := [], corePtr := 0, queuePtr := 0, spent := [],
    exhLost := [], dxForced := 0 }

/-- Main memory after reset: nothing written, no poison, no execute frame (R99, R105). -/
def MemState.reset : MemState :=
  { bytes := [], poison := [], xf := [], dx := [], dxWait := [], pub := [], hist := [], rel := [], barw := [], reopen := [] }

/-- A stack after reset: no channel retired (R112). -/
def StackState.reset : StackState := { retired := [], queued := [], remain := 0, degraded := [], lost := [], repairs := [] }

/-- Sealed storage after reset (R125). -/
def SealState.reset : SealState := { epoch := 0#17, frames := [], nodes := [], badTag := [], reenc := [], initing := false }

/-- The machine right after reset: reduced service, pools OFF, no region registered, no group resident (R50, R336, R428); the pointers of
R196 at 0 (log entry 90). -/
def State.reset : State :=
  { mem := .reset, basins := [], cores := [], hbm := [], seals := [], keyGen := [], groups := [], wgs := [], mxSaved := [], grids := [],
    nextWg := 1, nextLid := 1, startPtr := 0, regions := [], rcbPend := none, steppe := [], slotGen := [], comms := [],
    ranks := [], notices := [], bells := [], sent := [], barReqs := [], nextReq := 1, cxlReqs := [], atsHeld := [],
    atsWaits := [], replies := [], aer := [], cfgWrites := 0, meas := [], moduleId := 0#18, gtb := 0#64, full := false, trained := false,
    firmware := false, irqs := [], agenda := [], later := [], cur := none, rotor := 0, phase := false, parkNext := 1, freeCount := 0 }

end Sys2Proof.Machine
end

