-- ==== Sys2Proof/Machine/MemMap.lean ====
section
/-! DEFINITION. The physical address map (R27, R28), the interleave views (R107) and the storage behind them (R105). -/
namespace Sys2Proof.Machine

def gib : Nat := 2 ^ 30

/-- Rows of a channel (R105) and bytes of a row segment. -/
def rowsPerChannel : Nat := 62464

/-- The populated limit of a view (R107). -/
def viewLimit (v : Nat) : Nat :=
  if v ≤ 1 then 488 * gib else if v == 2 then 122 * gib else if v == 3 then 61 * gib else 122 * gib

/-- Bits of the channel-set index of a view (R107). -/
def viewSetBits (v : Nat) : Nat := if v ≤ 1 then 12 else if v == 2 then 10 else if v == 3 then 9 else 10

/-- The number of a storage byte: row segments of all channels of all stacks in order (R105, R108). -/
def storageKey (stack ch seg pos : Nat) : Nat := ((stack * 512 + ch) * rowsPerChannel + seg) * 2048 + pos

/-- ViewMap (R107): the storage byte that offset `off` of view `v` reaches, if any. -/
def viewMap (v off0 : Nat) : Option Nat :=
  let base := if v == 2 then off0 / 2 ^ 38 else if v == 3 then off0 / 2 ^ 37 else 0
  let off := if v == 2 then off0 % 2 ^ 38 else if v == 3 then off0 % 2 ^ 37 else off0
  if viewLimit v ≤ off then none else
  let gsz := if v == 0 then 256 else 2048
  let lc := viewSetBits v
  let g := off / gsz
  let f := (g ^^^ (g / 2 ^ 12) ^^^ (g / 2 ^ 24) ^^^ (g / 2 ^ 36)) % 2 ^ lc
  let i := g / 2 ^ lc
  let stack := if v ≤ 1 then f / 512 else if v == 2 then 2 * base + f / 512 else if v == 3 then base else f / 128
  let ch := if v ≤ 3 then f % 512 else 128 * (v - 4) + f % 128
  let seg := if gsz == 256 then i / 8 else i
  let pos := if gsz == 256 then i % 8 * 256 else 0
  some (storageKey stack ch seg (pos + off % gsz))

/-- What a physical address reaches (R27). -/
inductive Target where
  | hbm (key : Nat)
  | cxl (port : Nat)
  | bar (port : Nat)
  | ntb (aperture : Nat)
  | reg (basin off : Nat)
  | sysmem
  | intr (off : Nat)
  | none
  deriving DecidableEq, Repr

/-- The target of a physical address (R27, R28). -/
def targetOf (pa : Nat) : Target :=
  if pa < 0x80000000000 then
    match viewMap (pa / 2 ^ 40) (pa % 2 ^ 40) with
    | some k => .hbm k
    | Option.none => .none
  else if 0x100000000000 ≤ pa ∧ pa < 0x200000000000 then .cxl ((pa - 0x100000000000) / 2 ^ 40)
  else if 0x200000000000 ≤ pa ∧ pa < 0x300000000000 then .bar ((pa - 0x200000000000) / 2 ^ 40)
  else if 0x4000000000000 ≤ pa ∧ pa < 0xC000000000000 then .ntb ((pa - 0x4000000000000) / 2 ^ 44)
  else if 0xFFF0000000000 ≤ pa ∧ pa < 0xFFF4000000000 then
    .reg ((pa - 0xFFF0000000000) / 2 ^ 36) ((pa - 0xFFF0000000000) % 2 ^ 36)
  else if 0xFFFFE00000000 ≤ pa ∧ pa < 0xFFFFF00000000 then .sysmem
  else if 0xFFFFF00000000 ≤ pa ∧ pa < 0x10000000000000 then .intr (pa - 0xFFFFF00000000)
  else .none

/-- The key copies, leases and races of a byte are kept under: its physical address.  Two views of one frame are two keys, so
nothing keeps aliases coherent (R28). -/
def keyOf (pa : Nat) : Nat := pa

/-- The byte of storage behind a key: its storage byte for HBM4E, the same in every view (R28), its address elsewhere. -/
def storageOf (k : Nat) : Nat :=
  match targetOf k with
  | .hbm q => q
  | _ => k

/-- Whether a key lies in HBM4E. -/
def isHbmKey (k : Nat) : Bool :=
  match targetOf k with
  | .hbm _ => true
  | _ => false

/-- The stack, channel and row segment of a key. -/
def stackOf (k : Nat) : Nat := storageOf k / 2048 / rowsPerChannel / 512
def channelOf (k : Nat) : Nat := storageOf k / 2048 / rowsPerChannel % 512
def segmentOf (k : Nat) : Nat := storageOf k / 2048 % rowsPerChannel

/-- The home basin of a key (R79, R118): the stack's basin, the port's basin for CXL memory, basin 0 otherwise. -/
def homeOf (k : Nat) : Nat :=
  if isHbmKey k then stackOf k / 2
  else match targetOf k with
    | .cxl p => p / 4
    | .bar p => p / 4
    | .reg b _ => b
    | _ => 0

/-- The basin and number within it of a module core number (R2). -/
def basinOf (core : Nat) : Nat := core / 22
def localOf (core : Nat) : Nat := core % 22

/-- Accessors with the reset state as default. -/
def State.core (s : State) (c : Nat) : Core := s.cores.get Core.reset c
def State.setCore (s : State) (c : Nat) (x : Core) : State := { s with cores := s.cores.set c x }
def State.basin (s : State) (b : Nat) : Basin := s.basins.get Basin.reset b
def State.setBasin (s : State) (b : Nat) (x : Basin) : State := { s with basins := s.basins.set b x }
def State.stack (s : State) (k : Nat) : StackState := s.hbm.get StackState.reset k
def State.setStack (s : State) (k : Nat) (x : StackState) : State := { s with hbm := s.hbm.set k x }
def State.seal (s : State) (k : Nat) : SealState := s.seals.get SealState.reset k
def State.setSeal (s : State) (k : Nat) (x : SealState) : State := { s with seals := s.seals.set k x }
def State.setMem (s : State) (m : MemState) : State := { s with mem := m }
def State.setGroup (s : State) (g : Nat) (x : Group) : State := { s with groups := s.groups.set g x }
def State.updGroup (s : State) (g : Nat) (f : Group → Group) : State := { s with groups := s.groups.upd g f }
def State.setWg (s : State) (w : Nat) (x : Workgroup) : State := { s with wgs := s.wgs.set w x }
def State.updWg (s : State) (w : Nat) (f : Workgroup → Workgroup) : State := { s with wgs := s.wgs.upd w f }
def State.updCore (s : State) (c : Nat) (f : Core → Core) : State := s.setCore c (f (s.core c))
def State.updBasin (s : State) (b : Nat) (f : Basin → Basin) : State := s.setBasin b (f (s.basin b))
def State.updRegion (s : State) (r : Nat) (f : Region → Region) : State := { s with regions := s.regions.upd r f }

/-- A basin register's value, its reset value until it is written. -/
def lookupReg : List (BReg × DWord) → BReg → DWord
  | [], r => r.reset
  | (q, v) :: l, r => if q = r then v else lookupReg l r

def assignReg : List (BReg × DWord) → BReg → DWord → List (BReg × DWord)
  | [], r, v => [(r, v)]
  | (q, w) :: l, r, v => if q = r then (r, v) :: l else (q, w) :: assignReg l r v

def State.reg (s : State) (b : Nat) (r : BReg) : Nat := (lookupReg (s.basin b).regs r).toNat
def State.setReg (s : State) (b : Nat) (r : BReg) (v : Nat) : State :=
  s.updBasin b fun x => { x with regs := assignReg x.regs r (BitVec.ofNat 64 v) }

/-- The GTB as a number (R420). -/
def State.time (s : State) : Nat := s.gtb.toNat

/-- Take the next argument for a free value (log entry 11). -/
def State.takeFree (s : State) : Nat × State := (s.freeCount, { s with freeCount := s.freeCount + 1 })

/-- Raw bytes of main memory by key, a range within one line or one granule of a view, and whether a byte's 64-byte sector is
poisoned (R80, R106). -/
def State.rawRead (s : State) (key n : Nat) : List Byte := cellsRead s.mem.bytes (storageOf key) n
def State.rawNat (s : State) (key n : Nat) : Nat := cellsNat s.mem.bytes (storageOf key) n
def State.rawWrite (s : State) (key : Nat) (bs : List Byte) : State :=
  { s with mem := { s.mem with bytes := cellsWrite s.mem.bytes (storageOf key) bs } }
def State.sectorBad (s : State) (key : Nat) : Bool := (s.mem.poison.look (storageOf key / 64)).isSome

/-- Poison a sector of storage, by the number of one of its bytes. -/
def State.poisonStored (s : State) (q : Nat) : State :=
  { s with mem := { s.mem with poison := s.mem.poison.set (q / 64) 0#64 } }
def State.poisonSector (s : State) (key : Nat) : State := s.poisonStored (storageOf key)
def State.cleanSector (s : State) (key : Nat) : State :=
  { s with mem := { s.mem with poison := s.mem.poison.del (storageOf key / 64) } }

/-- Bytes of a sector are written: its poison ends with the last of them (R106, R452). -/
def State.coverSector (s : State) (key : Nat) (m : BitVec 64) : State :=
  match s.mem.poison.look (storageOf key / 64) with
  | none => s
  | some c =>
    if c ||| m == BitVec.allOnes 64 then s.cleanSector key
    else { s with mem := { s.mem with poison := s.mem.poison.set (storageOf key / 64) (c ||| m) } }

/-- Whether a sector of a range is poisoned, and the writing of a range, sector by sector. -/
def State.rangeBad (s : State) (key n : Nat) : Bool :=
  (List.range (n / 64 + 2)).any fun i => decide (key / 64 + i ≤ (key + n - 1) / 64) && s.sectorBad (64 * (key / 64 + i))
def State.coverRange (s : State) (key n : Nat) : State :=
  (List.range (n / 64 + 2)).foldl (fun s i =>
    let base := 64 * (key / 64 + i)
    let lo := max key base - base
    let hi := min (key + n) (base + 64) - base
    if lo < hi then s.coverSector base (BitVec.ofNat 64 (2 ^ hi - 2 ^ lo)) else s) s

/-- Words read and written by the part by physical address in system-core memory and other memory structures. -/
def State.paNat (s : State) (pa n : Nat) : Nat := s.rawNat (keyOf pa) n
def State.paWrite (s : State) (pa n v : Nat) : State := s.rawWrite (keyOf pa) (natToBytes n v)

end Sys2Proof.Machine
end

