-- ==== Sys2Proof/Machine/Regions.lean ====
section
/-! DEFINITION. Regions: RCB fields, effective values, the tree, timeouts and budgets (R158 to R161). -/
namespace Sys2Proof.Machine

/-- Word i of a registered region's RCB; word 32 is the RCB's own physical address. -/
def Region.word (r : Region) (i : Nat) : Nat := (r.words.get 0#64 i).toNat

/-- A region state with no history (R159): W16 to W19 zero. -/
def Region.fresh : Region :=
  { words := [], gseq := 0#64, greq := 0#64, period := none, dead := false, posted := false, cause := 0#8,
    origin := 0#20, ftime := 0#64, lqPut := 0#64, lqTake := 0#64, lqCtx := [],
    halt := none }

/-- The registered region of an id. -/
def State.region? (s : State) (r : Nat) : Option Region := s.regions.look r

/-- The id of the registered region whose RCB lies at a physical address. -/
def State.regionAt (s : State) (pa : Nat) : Option Nat :=
  (s.regions.find? fun p => p.2.word 32 == pa).map (·.1)

/-- The parent's id (R158): W1 51:8; region 0 has none. -/
def State.parentOf (s : State) (r : Nat) : Option Nat :=
  if r == 0 then none else
  match s.region? r with
  | some x => s.regionAt (bits (x.word 1) 8 44 * 256)
  | none => none

/-- The region itself and its ancestors, nearest first, at most `fuel` of them (R162 bounds the chain by 16 levels). -/
def State.chain (s : State) : Nat → Nat → List Nat
  | 0, r => [r]
  | fuel + 1, r => match s.parentOf r with
    | some p => r :: s.chain fuel p
    | none => [r]

/-- R13: region `r` is `owner` or a descendant of it; region 0 owns for all. -/
def State.selfOrDesc (s : State) (r owner : Nat) : Bool := owner == 0 || (s.chain 17 r).contains owner

/-- The region whose own RCB gives the fields of an OVR bit (R160). -/
def State.effRegion (s : State) (r ovr : Nat) : Nat :=
  ((s.chain 17 r).find? fun x => x == 0 || bit ((s.region? x).map (·.word 0) |>.getD 0) ovr).getD 0

/-- The effective value of RCB word i under an OVR bit (R160). -/
def State.eff (s : State) (r ovr i : Nat) : Nat := ((s.region? (s.effRegion r ovr)).map (·.word i)).getD 0

def State.pclass (s : State) (r : Nat) : Nat := bits (s.eff r 0 0) 41 3
/-- PA of the level-5 page table (R159). -/
def State.ptRoot (s : State) (r : Nat) : Nat := bits (s.eff r 1 2) 12 40 * 4096
def State.btBase (s : State) (r : Nat) : Nat := bits (s.eff r 2 3) 0 57
def State.btCount (s : State) (r : Nat) : Nat := bits (s.eff r 2 4) 0 16
def State.glimit (s : State) (r : Nat) : Nat :=
  let g := bits (s.eff r 3 4) 32 10
  if g == 0 then 512 else g

/-- Bank budget of a role (R159): none is no limit. -/
def State.bankBudget (s : State) (r : Nat) (role : Role) : Option Nat :=
  let w := s.eff r 4 5
  let v := match role with
    | .reg => bits w 0 8
    | .scr => bits w 8 8
    | .cch => bits w 16 8
    | .mxs => bits w 24 8
    | _ => 0xFF
  if v == 0xFF then none else some v

/-- Clamp a time value to its range, zero meaning the default (R159). -/
def clampTime (v lo hi dflt : Nat) : Nat := if v == 0 then dflt else max lo (min hi v)

/-- Timeouts, quantum and lease lengths in ns (R70, R185, R92, R159). -/
def State.febTimeout (s : State) (r : Nat) : Nat := 1000 * clampTime (bits (s.eff r 7 8) 40 24) 1 10000000 100000
def State.waitTimeout (s : State) (r : Nat) : Nat := 1000 * clampTime (bits (s.eff r 7 8) 16 24) 1 10000000 1000000
def State.quantum (s : State) (r : Nat) : Nat := 10000 * clampTime (bits (s.eff r 8 9) 48 16) 10 10000 100
def State.leaseLen (s : State) (r : Nat) (write : Bool) : Nat :=
  if write then clampTime (bits (s.eff r 9 9) 0 24) 1000 10000000 20000
  else clampTime (bits (s.eff r 9 9) 24 24) 100 1000000 2000

/-- Activity budget shares of one basin, a quarter of the region's (R159, R210); none is no limit.
Kinds: 0 HBM bytes, 1 link bytes, 2 engine ns, 3 NMU ns. -/
def State.activityShare (s : State) (r kind : Nat) : Option Nat :=
  let v := match kind with
    | 0 => 1024 * bits (s.eff r 5 6) 32 32
    | 1 => 1024 * bits (s.eff r 5 6) 0 32
    | 2 => bits (s.eff r 6 7) 32 32
    | _ => bits (s.eff r 6 7) 0 32
  if v == 0 then none else some (v / 4)

/-- Charge activity of a region on a basin (R210); the sum may exceed the share and is carried over. -/
def State.charge (s : State) (b r kind amount : Nat) : State :=
  s.updBasin b fun x => { x with spent := x.spent.set (r * 4 + kind) (x.spent.get 0 (r * 4 + kind) + amount) }

/-- Whether any of the region's share of an activity remains on a basin (R210). -/
def State.shareLeft (s : State) (b r kind : Nat) : Bool :=
  match s.activityShare r kind with
  | none => true
  | some q => (s.basin b).spent.get 0 (r * 4 + kind) < q

/-- Handler, debug table and launch queue fields (R159). -/
def State.hcode (s : State) (r : Nat) : DWord := BitVec.ofNat 64 (s.eff r 10 10)
def State.hframe (s : State) (r : Nat) : DWord := BitVec.ofNat 64 (s.eff r 10 11)
def State.dcBase (s : State) (r : Nat) : Nat := bits (s.eff r 11 12) 8 44 * 256
def State.dcCount (s : State) (r : Nat) : Nat := bits (s.eff r 11 12) 56 8
def State.lqBase (s : State) (r : Nat) : Nat := bits (s.eff r 12 13) 0 57
def State.lqEnt (s : State) (r : Nat) : Nat := bits (s.eff r 12 14) 48 16
def State.lqOvn (s : State) (r : Nat) : Nat := bits (s.eff r 12 14) 0 32
def State.lqOvb (s : State) (r : Nat) : Nat := bits (s.eff r 12 15) 0 57

/-- The registered regions of the subtree of `r`: itself and its descendants (R164). -/
def State.subtree (s : State) (r : Nat) : List Nat :=
  s.regions.keys.filter fun x => (s.chain 17 x).contains r

/-- Whether the region or an ancestor is DEAD (R164). -/
def State.isDead (s : State) (r : Nat) : Bool :=
  (s.chain 17 r).any fun x => ((s.region? x).map (·.dead)).getD false

/-- Registered and not DEAD (R191). -/
def State.regionUsable (s : State) (r : Nat) : Bool := (s.region? r).isSome && !s.isDead r

end Sys2Proof.Machine
end

