-- ==== Sys2Proof/Machine/Events.lean ====
section
/-! DEFINITION. What the part writes for the supervisor: rings in system-core memory and machine events (R35, R407, R442). -/
namespace Sys2Proof.Machine

/-- Raise a ring's interrupt to the system cores of a basin (R35, R407). -/
def State.raiseIrq (s : State) (b ring : Nat) : State := { s with irqs := s.irqs ++ [{ basin := b, ring := ring }] }

/-- Write `recs` records of `size` bytes into a ring of 2^logn records with EVQ-like registers, all or none (R407, R442,
R443): a ring that is off takes none, one without room sets OVF. -/
def State.ringWrite (s : State) (b : Nat) (base ptr : BReg) (baseLo logn size : Nat) (recs : List Nat) : State :=
  let q := s.reg b base
  let p := s.reg b ptr
  let put := bits p 0 32
  let take := bits p 32 32
  if !bit q 63 then s
  else if (put + 2 ^ 32 - take) % 2 ^ 32 + recs.length > 2 ^ logn then s.setReg b base (setBits q 62 1 1)
  else
    let ringPa := bits q baseLo (52 - baseLo) * 2 ^ baseLo
    let s := (recs.foldl (fun (acc : State × Nat) r =>
      (acc.1.paWrite (ringPa + acc.2 % 2 ^ logn * size) size r, acc.2 + 1)) (s, put)).1
    (s.setReg b ptr (setBits p 0 32 (put + recs.length))).raiseIrq b (match base with
      | .evqbase => 1 | .dbgqbase => 2 | .profqbase => 3 | .sampqbase => 4 | _ => 0)

/-- A machine event (R407). -/
def State.machineEvent (s : State) (b code region detail : Nat) : State :=
  s.ringWrite b .evqbase .evqptr 14 10 16
    [detail % 2 ^ 64 * 2 ^ 64 + code * 2 ^ 56 + b * 2 ^ 54 + region * 2 ^ 32 + s.time % 2 ^ 32]

/-- The basin's fabric error log: address, master and GTB of a request without a target (R27). -/
def State.fabricLog (s : State) (b pa master : Nat) : State :=
  s.updBasin b fun x => { x with fablog := x.fablog ++ [(pa, master, s.time)] }

end Sys2Proof.Machine
end

