-- ==== Sys2Proof/Machine/Flags.lean ====
section
/-! DEFINITION. Floating-point formats, exact values, RoundTo and the flags it raises (R241 to R251), and the exact
arithmetic of the rounded instructions. -/
namespace Sys2Proof.Machine

/-- Flag bits in FPSTAT's positions (R250). -/
def flagNX : Nat := 1
def flagUF : Nat := 2
def flagOF : Nat := 4
def flagDZ : Nat := 8
def flagNV : Nat := 16

/-- A floating-point format (R241). -/
structure Fmt where
  bits  : Nat
  ebits : Nat
  frac  : Nat
  bias  : Nat
  inf   : Bool
  deriving DecidableEq, Repr

def fmtF32 : Fmt := { bits := 32, ebits := 8, frac := 23, bias := 127, inf := true }
def fmtF64 : Fmt := { bits := 64, ebits := 11, frac := 52, bias := 1023, inf := true }
def fmtF16 : Fmt := { bits := 16, ebits := 5, frac := 10, bias := 15, inf := true }
def fmtBF16 : Fmt := { bits := 16, ebits := 8, frac := 7, bias := 127, inf := true }
def fmtE4M3 : Fmt := { bits := 8, ebits := 4, frac := 3, bias := 7, inf := false }
def fmtE5M2 : Fmt := { bits := 8, ebits := 5, frac := 2, bias := 15, inf := true }

/-- Formats by the codes of CVT (R287). -/
def fmtOf : Nat → Fmt
  | 0 => fmtF32
  | 1 => fmtF64
  | 2 => fmtF16
  | 3 => fmtBF16
  | 4 => fmtE4M3
  | _ => fmtE5M2

/-- An exact value: a NaN, an infinity, or ± a number a with m × 2^e = a when `st` is false and
m × 2^e < a < (m + 1) × 2^e when it is true.  m = 0 is a signed zero. -/
inductive FX where
  | nan
  | inf (neg : Bool)
  | num (neg : Bool) (m : Nat) (e : Int) (st : Bool)
  deriving DecidableEq, Repr

/-- The canonical quiet NaN (R242). -/
def canonNaN (f : Fmt) : Nat :=
  if f.inf then (2 ^ f.ebits - 1) * 2 ^ f.frac + 2 ^ (f.frac - 1) else 0x7F

/-- Largest finite significand (with its leading bit) and its exponent: for e4m3 the all-ones code is the NaN (R241). -/
def maxFiniteM (f : Fmt) : Nat := if f.inf then 2 ^ (f.frac + 1) - 1 else 2 ^ (f.frac + 1) - 2
def maxFiniteE (f : Fmt) : Int :=
  (if f.inf then (2 ^ f.ebits - 2 : Nat) else (2 ^ f.ebits - 1 : Nat)) - (f.bias : Int) - f.frac
def maxFiniteCode (f : Fmt) : Nat :=
  if f.inf then (2 ^ f.ebits - 1) * 2 ^ f.frac - 1 else (2 ^ f.ebits - 1) * 2 ^ f.frac + 2 ^ f.frac - 2
def infCode (f : Fmt) : Nat := (2 ^ f.ebits - 1) * 2 ^ f.frac
def signCode (f : Fmt) (neg : Bool) : Nat := if neg then 2 ^ (f.bits - 1) else 0

/-- Whether a code is a NaN, and a signalling one (R242). -/
def isNaNCode (f : Fmt) (x : Nat) : Bool :=
  let e := bits x f.frac f.ebits
  let m := bits x 0 f.frac
  if f.inf then e == 2 ^ f.ebits - 1 && m != 0 else e == 2 ^ f.ebits - 1 && m == 2 ^ f.frac - 1
def isSNaN (f : Fmt) (x : Nat) : Bool := isNaNCode f x && 16 ≤ f.bits && !bit x (f.frac - 1)

/-- The value of a code (R241). -/
def decodeF (f : Fmt) (x : Nat) : FX :=
  let s := bit x (f.bits - 1)
  let e := bits x f.frac f.ebits
  let m := bits x 0 f.frac
  if isNaNCode f x then .nan
  else if f.inf && e == 2 ^ f.ebits - 1 then .inf s
  else if e == 0 then .num s m (1 - (f.bias : Int) - f.frac) false
  else .num s (2 ^ f.frac + m) ((e : Int) - f.bias - f.frac) false

/-- Whether a code is a subnormal number. -/
def isSub (f : Fmt) (x : Nat) : Bool := bits x f.frac f.ebits == 0 && bits x 0 f.frac != 0

/-- FTZ on an input: a subnormal f32, f16 or bf16 is read as a zero of the same sign (R249). -/
def ftzApplies (f : Fmt) : Bool := f == fmtF32 || f == fmtF16 || f == fmtBF16
def ftzIn (ftz : Bool) (f : Fmt) (x : Nat) : Nat :=
  if ftz && ftzApplies f && isSub f x then signCode f (bit x (f.bits - 1)) else x

/-- The rounding of one issue: mode 1 to 6 (R245), random integer and its width (R248), SAT and FTZ. -/
structure Rnd where
  mode : Nat
  r    : Nat
  w    : Nat
  sat  : Bool
  ftz  : Bool
  deriving DecidableEq, Repr

/-- Round to nearest even without saturation or flush. -/
def rne : Rnd := { mode := 1, r := 0, w := 0, sat := false, ftz := false }

/-- Overflow (R247): code and flags. -/
def overflow (f : Fmt) (neg : Bool) (rd : Rnd) : Nat × Nat :=
  let big := signCode f neg + maxFiniteCode f
  let toInf := match rd.mode with
    | 2 => false
    | 3 => neg
    | 4 => !neg
    | _ => true
  if rd.sat || !toInf then (big, flagOF + flagNX)
  else if f.inf then (signCode f neg + infCode f, flagOF + flagNX)
  else (canonNaN f, flagOF + flagNX + flagNV)

/-- Whether the magnitude is rounded up (R246), from the integer part t in ulps, the remainder and its scale 2^sh. -/
def roundsUp (neg : Bool) (rd : Rnd) (t rem sh : Nat) (st : Bool) : Bool :=
  let half := 2 ^ sh / 2
  let any := rem != 0 || st
  match rd.mode with
  | 1 => rem > half || (rem == half && sh != 0 && (st || t % 2 == 1))
  | 3 => any && neg
  | 4 => any && !neg
  | 5 => sh != 0 && rem ≥ half
  | 6 => any && rd.r < rem * 2 ^ rd.w / 2 ^ sh
  | _ => false

/-- RoundTo (R246): code and flags of an exact value. -/
def roundTo (f : Fmt) (x : FX) (rd : Rnd) : Nat × Nat :=
  match x with
  | .nan => (canonNaN f, 0)
  | .inf neg =>
    if f.inf then (signCode f neg + infCode f, 0)
    else if rd.sat then (signCode f neg + maxFiniteCode f, flagNV)
    else (canonNaN f, flagNV)
  | .num neg m e st =>
    if m == 0 && !st then (signCode f neg, 0) else
    let top : Int := (Nat.log2 m : Int) + e
    let emin : Int := 1 - (f.bias : Int)
    let ue : Int := max (top - f.frac) (emin - f.frac)
    let sh : Nat := (ue - e).toNat
    let m' : Nat := if ue < e then m * 2 ^ (e - ue).toNat else m
    let t := m' / 2 ^ sh
    let rem := m' % 2 ^ sh
    let any := rem != 0 || st
    let fl := (if any then flagNX else 0) + (if any && top < emin then flagUF else 0)
    let y := if roundsUp neg rd t rem sh st then t + 1 else t
    let tooBig := if maxFiniteE f ≤ ue then y * 2 ^ (ue - maxFiniteE f).toNat > maxFiniteM f else false
    if tooBig then overflow f neg rd
    else if rd.ftz && ftzApplies f && y < 2 ^ f.frac then
      (signCode f neg, if y == 0 && !any then fl else fl ||| flagUF ||| flagNX)
    else if y < 2 ^ f.frac then (signCode f neg + y, fl)
    else
      let (y, ue) := if y == 2 ^ (f.frac + 1) then (2 ^ f.frac, ue + 1) else (y, ue)
      (signCode f neg + (ue + f.frac + f.bias).toNat * 2 ^ f.frac + (y - 2 ^ f.frac), fl)

/-- The signed sum of two exact dyadic numbers: magnitude, exponent and sign; an exact zero takes sign `zneg`. -/
def addNum (n1 : Bool) (m1 : Nat) (e1 : Int) (n2 : Bool) (m2 : Nat) (e2 : Int) (rdn : Bool) : FX :=
  let e := min e1 e2
  let a : Int := (m1 * 2 ^ (e1 - e).toNat : Nat)
  let b : Int := (m2 * 2 ^ (e2 - e).toNat : Nat)
  let s := (if n1 then -a else a) + (if n2 then -b else b)
  if s == 0 then .num (if m1 == 0 && m2 == 0 && n1 == n2 then n1 else rdn) 0 0 false
  else .num (s < 0) s.natAbs e false

def FX.neg : FX → FX
  | .nan => .nan
  | .inf s => .inf !s
  | .num s m e st => .num (!s) m e st

/-- Exact arithmetic with the invalid cases of R250; the second component is the flags raised before rounding. -/
def fxAdd (rdn : Bool) : FX → FX → FX × Nat
  | .nan, _ | _, .nan => (.nan, 0)
  | .inf a, .inf b => if a == b then (.inf a, 0) else (.nan, flagNV)
  | .inf a, .num .. => (.inf a, 0)
  | .num .., .inf b => (.inf b, 0)
  | .num a m e _, .num b n f _ => (addNum a m e b n f rdn, 0)

def fxMul : FX → FX → FX × Nat
  | .nan, _ | _, .nan => (.nan, 0)
  | .inf a, .inf b => (.inf (a != b), 0)
  | .inf a, .num b n _ _ => if n == 0 then (.nan, flagNV) else (.inf (a != b), 0)
  | .num a m _ _, .inf b => if m == 0 then (.nan, flagNV) else (.inf (a != b), 0)
  | .num a m e _, .num b n f _ => (.num (a != b) (m * n) (e + f) false, 0)

def fxFma (rdn : Bool) (x y z : FX) : FX × Nat :=
  let (p, f1) := fxMul x y
  let (v, f2) := fxAdd rdn p z
  (v, f1 ||| f2)

/-- a / b with 160 quotient bits and a sticky remainder, enough for every format and for R248's random bits. -/
def fxDiv : FX → FX → FX × Nat
  | .nan, _ | _, .nan => (.nan, 0)
  | .inf _, .inf _ => (.nan, flagNV)
  | .inf a, .num b _ _ _ => (.inf (a != b), 0)
  | .num a _ _ _, .inf b => (.num (a != b) 0 0 false, 0)
  | .num a m e _, .num b n f _ =>
    if n == 0 then (if m == 0 then (.nan, flagNV) else (.inf (a != b), flagDZ))
    else
      let k := 160 + Nat.log2 n
      (.num (a != b) (m * 2 ^ k / n) (e - f - k) (m * 2 ^ k % n != 0), 0)

/-- √a with 160 bits and a sticky remainder. -/
def fxSqrt : FX → FX × Nat
  | .nan => (.nan, 0)
  | .inf s => if s then (.nan, flagNV) else (.inf false, 0)
  | .num s m e _ =>
    if m == 0 then (.num s 0 0 false, 0)
    else if s then (.nan, flagNV)
    else
      let k : Nat := if (e - 320) % 2 == 0 then 320 else 321
      let q := Nat.sqrt (m * 2 ^ k)
      (.num false q ((e - k) / 2) (q * q != m * 2 ^ k), 0)

/-- One addition, rounded RNE with no flush and canonical NaNs: U lines, the SHU and atomics (R85, R90, R308). -/
def addRne (f : Fmt) (x y : Nat) : Nat := (roundTo f (fxAdd false (decodeF f x) (decodeF f y)).1 rne).1

/-- Comparison of two numbers that are no NaNs, −0 below +0: less. -/
def fxLess : FX → FX → Bool
  | .inf a, .inf b => a && !b
  | .inf a, .num .. => a
  | .num .., .inf b => !b
  | .num a m e _, .num b n f _ =>
    if m == 0 && n == 0 then a && !b
    else
      let g := min e f
      let x : Int := (m * 2 ^ (e - g).toNat : Nat)
      let y : Int := (n * 2 ^ (f - g).toNat : Nat)
      (if a then -x else x) < (if b then -y else y)
  | _, _ => false

/-- Numerical equality, −0 equal to +0, of two numbers that are no NaNs. -/
def fxEq (x y : FX) : Bool :=
  match x, y with
  | .num _ 0 _ _, .num _ 0 _ _ => true
  | _, _ => !fxLess x y && !fxLess y x

/-- FMIN, FMAX (`big`) and FMINM (`prop`) on codes (R283): result code and flags. -/
def fminmax (f : Fmt) (big prop : Bool) (x y : Nat) : Nat × Nat :=
  let fl := if isSNaN f x || isSNaN f y then flagNV else 0
  let nx := isNaNCode f x
  let ny := isNaNCode f y
  if nx && ny || prop && (nx || ny) then (canonNaN f, fl)
  else if nx then (y, fl)
  else if ny then (x, fl)
  else
    let yx := fxLess (decodeF f y) (decodeF f x)
    (if big then (if yx then x else y) else (if yx then y else x), fl)

/-- The class mask of FCLASS (R285). -/
def fclassOf (f : Fmt) (x : Nat) : Nat :=
  let s := bit x (f.bits - 1)
  match decodeF f x with
  | .nan => if isSNaN f x then 2 ^ 8 else 2 ^ 9
  | .inf _ => if s then 1 else 2 ^ 7
  | .num _ m _ _ =>
    if m == 0 then (if s then 2 ^ 3 else 2 ^ 4)
    else if isSub f x then (if s then 2 ^ 2 else 2 ^ 5)
    else (if s then 2 else 2 ^ 6)

/-- An exact value rounded to an integer in a mode: the integer and whether it was exact. -/
def roundInt (neg : Bool) (m : Nat) (e : Int) (st : Bool) (rd : Rnd) : Int × Bool :=
  let sh : Nat := (-e).toNat
  let m' := m * 2 ^ e.toNat
  let t := m' / 2 ^ sh
  let rem := m' % 2 ^ sh
  let y := if roundsUp neg rd t rem sh st then t + 1 else t
  (if neg then -(y : Int) else y, rem == 0 && !st)

/-- FRND (R286): code and flags, `nx` for FRND.nx. -/
def frnd (f : Fmt) (nx : Bool) (x : Nat) (rd : Rnd) : Nat × Nat :=
  match decodeF f x with
  | .nan => (canonNaN f, if isSNaN f x then flagNV else 0)
  | .inf _ => (x, 0)
  | .num s m e _ =>
    if m == 0 then (x, 0) else
    let (v, exact) := roundInt s m e false rd
    if exact then (x, 0)
    else ((roundTo f (.num s v.natAbs 0 false) rne).1, if nx then flagNX else 0)

/-- Float to integer (R287): value in [lo, hi] and flags. -/
def floatToInt (f : Fmt) (lo hi : Int) (x : Nat) (rd : Rnd) : Int × Nat :=
  match decodeF f x with
  | .nan => (0, flagNV)
  | .inf s => (if s then lo else hi, flagNV)
  | .num s m e _ =>
    let (v, exact) := roundInt s m e false rd
    if hi < v then (hi, flagNV) else if v < lo then (lo, flagNV) else (v, if exact then 0 else flagNX)

/-- Integer to float (R287). -/
def intToFloat (f : Fmt) (v : Int) (rd : Rnd) : Nat × Nat := roundTo f (.num (v < 0) v.natAbs 0 false) rd

/-- Float to float (R246, R247, R287): a signalling NaN raises NV. -/
def floatToFloat (src dst : Fmt) (x : Nat) (rd : Rnd) : Nat × Nat :=
  let (v, fl) := roundTo dst (decodeF src x) rd
  (v, fl ||| (if isSNaN src x then flagNV else 0))

/-- The magnitude of an e2m1 code 0 to 7 in halves (R244). -/
def e2m1Half : Nat → Nat
  | 0 => 0
  | 1 => 1
  | 2 => 2
  | 3 => 3
  | 4 => 4
  | 5 => 6
  | 6 => 8
  | _ => 12

/-- An e2m1x element (R244): code, scale byte, extra byte. -/
def decodeE2M1X (code s x : Nat) : FX :=
  if s == 0xFF then .nan
  else if code == 8 then
    match decodeF fmtE4M3 x with
    | .num n m e st => .num n m (e + s - 127) st
    | v => v
  else if code < 8 then .num false (e2m1Half code) ((s : Int) - 128) false
  else .num true (e2m1Half (code - 8)) ((s : Int) - 128) false

/-- The e2m1 format of PACK4's rounding: subnormal spacing 0.5, largest value 6 (R241). -/
def fmtE2M1 : Fmt := { bits := 4, ebits := 2, frac := 1, bias := 1, inf := false }

/-- PACK4's code and flags (R289): magnitudes above 6 give ±6 with OF and NX, NaN gives 0 with NV, zero results 0. -/
def pack4Code (x : FX) (rd : Rnd) : Nat × Nat :=
  match x with
  | .nan => (0, flagNV)
  | .inf s => (if s then 0xF else 7, flagOF + flagNX)
  | .num s m e st =>
    if fxLess (.num false 6 0 false) (.num false m e st) then (if s then 0xF else 7, flagOF + flagNX)
    else
      -- the all-ones code 6 stands for a number here, so an ample exponent range is used for the rounding
      let (c, fl) := roundTo { fmtE2M1 with ebits := 4, bits := 6 } x { rd with sat := false, ftz := false }
      let mag := c % 32
      (if mag == 0 then 0 else if s then 8 + mag else mag, fl)

end Sys2Proof.Machine
end

