-- ==== Sys2Proof/Machine/Access.lean ====
section
/-! DEFINITION. How an access ends when it does not complete, and the sequencing of the parts of an access. -/
namespace Sys2Proof.Machine

/-- Why an access did not complete.  The caller decides the delivery: a trap of the lane, a park, a late trap, a stall, an
engine status, a completion for an endpoint. -/
inductive AErr where
  /-- A precise trap: cause, subcode (R18, R400) and the value v90:v91 take (R403). -/
  | trap (c : Cause) (sub : Nat) (extra : DWord)
  /-- A PAGEFAULT, recoverable (R35): subcode, root, virtual address, buffer index, class, and the handle address. -/
  | fault (sub root va bufidx cls h : Nat)
  /-- ACCESSDENY at a target (R46). -/
  | deny
  /-- Completion with LINKDOWN (R96, R120). -/
  | down
  /-- CTREXH of a sealed frame (R124). -/
  | exh
  /-- Uncorrectable data met by a walk or a fetch (R120). -/
  | poison
  /-- MMX against an earlier access (R136). -/
  | mmx (h : Hist)
  /-- A trap of the lane with everything it carries. -/
  | lane (t : LaneTrap)
  /-- The access waits on the empty scratchpad line that holds this address (R69). -/
  | feb (wg addr : Nat)
  /-- The access cannot complete yet: it waits under a stall reason (R441) and is tried again. -/
  | stall (r : Stall)
  deriving DecidableEq, Repr

/-- A part of an access: a result, or the reason there is none, with the state it leaves. -/
abbrev M (α : Type) := EStateM AErr State α

def getS : M State := fun s => .ok s s
def modS (f : State → State) : M Unit := fun s => .ok () (f s)
def err {α : Type} (e : AErr) : M α := fun s => .error e s
def wait {α : Type} (r : Stall) : M α := err (.stall r)
def trapM {α : Type} (c : Cause) (sub : Nat := 0) : M α := err (.trap c sub 0#64)

/-- Run a part for its state alone. -/
def M.exec {α : Type} (m : M α) (s : State) : State :=
  match m s with
  | .ok _ t => t
  | .error _ t => t

/-- Run a part and keep its outcome. -/
def M.outcome {α : Type} (m : M α) (s : State) : Except AErr α × State :=
  match m s with
  | .ok a t => (.ok a, t)
  | .error e t => (.error e, t)

/-- Run a part that must leave no trace when it fails. -/
def M.atomic {α : Type} (m : M α) : M α := fun s =>
  match m s with
  | .ok a t => .ok a t
  | .error e _ => .error e s

/-- Run the parts in order, the first failure ending them. -/
def M.forEach {α : Type} (f : α → M Unit) : List α → M Unit
  | [] => pure ()
  | x :: xs => do
    f x
    M.forEach f xs

def M.mapEach {α β : Type} (f : α → M β) : List α → M (List β)
  | [] => pure []
  | x :: xs => do
    let y ← f x
    let ys ← M.mapEach f xs
    pure (y :: ys)

def M.whenB (c : Bool) (m : M Unit) : M Unit := if c then m else pure ()

end Sys2Proof.Machine
end

