-- ==== Sys2Proof/Machine/Home.lean ====
section
/-! DEFINITION. What a home does with its own line: degraded rows (R112), sealed frames (R121 to R124), poison (R82, R106),
dirty-for-execute (R100), and combining of partials (R85). -/
namespace Sys2Proof.Machine

/-- The storage key of byte 0 of a line, and of the line of a key. -/
def lineKey (l : Nat) : Nat := l * 128
def lineOf (k : Nat) : Nat := k / 128

/-- Channels that still hold row segments in place: all but the first eight retired (R110, R112). -/
def StackState.live (t : StackState) : List Nat := (List.range 512).filter fun c => !(t.retired.take 8).contains c

/-- The channel whose rows hold row segment (ch, seg) (R110). -/
def StackState.place (t : StackState) (ch seg : Nat) : Nat :=
  if (t.retired.take 8).contains ch then
    let live := t.live
    live.getD ((seg + ch) % live.length) ch
  else ch

/-- Whether the row segment of a key is in its stack's degraded log (R112): its place was retired beyond the spare rows. -/
def State.rowLost (s : State) (k : Nat) : Bool :=
  isHbmKey k &&
    (let t := s.stack (stackOf k)
     !t.degraded.isEmpty && (t.degraded.contains (channelOf k) || t.degraded.contains (t.place (channelOf k) (segmentOf k))))

/-- The offset of a key's storage in its stack's view-3 eighth: the inverse of ViewMap (R107, R108). -/
def view3Off (k : Nat) : Nat :=
  let seg := segmentOf k
  let low := (channelOf k ^^^ ((seg / 2 ^ 3) ^^^ (seg / 2 ^ 15) ^^^ (seg / 2 ^ 27))) % 512
  (seg * 512 + low) * 2048 + storageOf k % 2048

/-- The sealed pool frame a key lies in (R121), by number in its stack's view-3 eighth (log entry 66). -/
def State.poolFrame (s : State) (k : Nat) : Option Nat :=
  if !isHbmKey k then none else
  let q := s.reg (stackOf k / 2) (.sealpool (stackOf k % 2))
  if !bit q 63 then none else
  let f := view3Off k / 4096
  let base := bits q 0 24
  if base ≤ f && f < base + bits q 24 24 then some f else none

/-- Write exhaustion (R124): the frame's major counter or a tree node above it has reached 2^56 − 1.
Node j of level n above the counter blocks covers frames 8^n j to 8^n j + 8^n − 1 and is keyed n × 2^32 + j. -/
def SealState.exhausted (q : SealState) (f : Nat) : Bool :=
  ((q.frames.look f).map (·.major)).getD 0 == 2 ^ 56 - 1
    || (List.range 9).any fun n => n != 0 && q.nodes.get 0 (n * 2 ^ 32 + f / 8 ^ n) == 2 ^ 56 - 1
def SealState.nodeExhausted (q : SealState) (f : Nat) : Bool :=
  (List.range 9).any fun n => n != 0 && q.nodes.get 0 (n * 2 ^ 32 + f / 8 ^ n) == 2 ^ 56 - 1

/-- The counters of a frame that no REINIT has set: zero, under slot 0 and generation 0 (log entry 84). -/
def SealFrame.fresh : SealFrame := { major := 0, minors := [], slot := 0, gen := 0 }

/-- A sealed frame's counters. -/
def SealState.frame (q : SealState) (f : Nat) : SealFrame := (q.frames.look f).getD .fresh

/-- Advance the counters for one line written back to a sealed frame (R122): at minor 127 the frame is left to be re-encrypted, which
follows at once (R123). -/
def SealState.advance (q : SealState) (f line : Nat) : SealState :=
  let fr := q.frame f
  let fr' : SealFrame :=
    if fr.minors.get 0 line == 127 then fr else { fr with minors := fr.minors.set line (fr.minors.get 0 line + 1) }
  let reenc := if fr.minors.get 0 line == 127 then insertNat q.reenc f else q.reenc
  let nodes := (List.range 8).foldl (fun m n =>
    let k := (n + 1) * 2 ^ 32 + f / 8 ^ (n + 1)
    m.set k (min (2 ^ 56 - 1) (m.get 0 k + 1))) q.nodes
  { q with frames := q.frames.set f fr', nodes := nodes, reenc := reenc }

/-- A byte mask from a bit mask: byte i all ones where bit i is set. -/
def byteMask (m : Nat) : Nat → Nat
  | 0 => 0
  | n + 1 => (if m % 2 == 1 then 255 else 0) + 256 * byteMask (m / 2) n

def mergeLine (old new : BitVec 1024) (mask : BitVec 128) : BitVec 1024 :=
  let bm : BitVec 1024 := BitVec.ofNat 1024 (byteMask mask.toNat 128)
  (old &&& ~~~bm) ||| (new &&& bm)

/-- The mask of bytes off to off + n − 1 of a line. -/
def maskOf (off n : Nat) : BitVec 128 := BitVec.ofNat 128 ((2 ^ n - 1) * 2 ^ off)

/-- A 1,024-bit line with n bytes placed at off. -/
def placeBytes (off : Nat) (bs : List Byte) : BitVec 1024 := BitVec.ofNat 1024 (bytesToNat bs * 2 ^ (8 * off))

def lineBytes (d : BitVec 1024) (off n : Nat) : List Byte := natToBytes n (bits d.toNat (8 * off) (8 * n))

/-- The bytes of a line whose 64-byte sector is poisoned at its home and that have not been written since (R80, R106). -/
def State.linePoison (s : State) (l : Nat) : BitVec 128 :=
  if s.rowLost (lineKey l) then BitVec.allOnes 128
  else
    let half (k : Nat) : Nat := match s.mem.poison.look (storageOf k / 64) with
      | some c => (~~~c).toNat
      | none => 0
    BitVec.ofNat 128 (half (lineKey l) + 2 ^ 64 * half (lineKey l + 64))

/-- The keystream a line is stored under (R121): none outside the sealed pool. -/
def State.lineCipher (s : State) (l : Nat) : BitVec 1024 :=
  let k := lineKey l
  match s.poolFrame k with
  | none => 0#1024
  | some f =>
    let q := s.seal (stackOf k)
    let fr := q.frame f
    Config.keystream fr.slot fr.gen ((3 * 2 ^ 40 + stackOf k * 2 ^ 37 + view3Off k) / 128) fr.major
      (fr.minors.get 0 (view3Off k / 128 % 32)) q.epoch.toNat

/-- The bytes of a line as its home's controller decrypts them, and their storing (R121). -/
def State.linePlain (s : State) (l : Nat) : BitVec 1024 := BitVec.ofNat 1024 (s.rawNat (lineKey l) 128) ^^^ s.lineCipher l
def State.linePut (s : State) (l : Nat) (d : BitVec 1024) : State :=
  s.rawWrite (lineKey l) (natToBytes 128 (d ^^^ s.lineCipher l).toNat)

/-- Whether a line's tag does not match (R122). -/
def State.torn (s : State) (l : Nat) : Bool := isHbmKey (lineKey l) && (s.seal (stackOf (lineKey l))).badTag.contains l

/-- The machine event SEALFAIL of a line (R122). -/
def State.sealFail (s : State) (l : Nat) : State := s.machineEvent (homeOf (lineKey l)) 5 0 (lineKey l)

/-- Read a line at its home; a line whose tag does not match is delivered poisoned with SEALFAIL (R122). -/
def State.homeRead (s : State) (l : Nat) : (BitVec 1024 × BitVec 128) × State :=
  if s.torn l then ((s.linePlain l, BitVec.allOnes 128), s.sealFail l) else ((s.linePlain l, s.linePoison l), s)

/-- Whether n bytes at off of a line meet a poisoned sector. -/
def poisonedIn (p : BitVec 128) (off n : Nat) : Bool :=
  (off < 64 && bits p.toNat 0 64 != 0) || (64 < off + n && bits p.toNat 64 64 != 0)

/-- Whether a WAITADDR is registered on a line of global memory (R317). -/
def State.watched (s : State) (l : Nat) : Bool :=
  s.groups.vals.any fun g => g.threads.vals.any fun t => !t.exited &&
    match t.wait with
    | some w => (match w.what with
      | .addr a _ _ _ => !a.sp && a.addr / 128 == l
      | _ => false) && w.outcome.isNone
    | none => false

/-- The value test of WAITADDR (R316). -/
def waitCond (cond size m v : Nat) : Bool :=
  let w := 8 * size
  match cond with
  | 0 => m == v
  | 1 => m != v
  | 2 => sext w v ≤ sext w m
  | 3 => v ≤ m
  | 4 => sext w m < sext w v
  | 5 => m < v
  | 6 => m &&& v != 0
  | _ => m &&& v == 0

/-- Test the registered waits on a unit whose line has changed at its home (R317): `read` gives the unit's value, none for
poison.  A met wait takes status 0 and the value; a poisoned one takes status 1. -/
def State.testWaits (s : State) (hit : Loc → Bool) (read : Loc → Nat → Option Nat) : State :=
  { s with groups := s.groups.map fun q => (q.1, { q.2 with threads := q.2.threads.map fun p =>
      match p.2.wait with
      | some w => match w.what with
        | .addr loc size cond v =>
          if hit loc && w.outcome.isNone && !p.2.exited then
            match read loc size with
            | none => (p.1, { p.2 with wait := some { w with outcome := some (1, 0#64) } })
            | some m =>
              if waitCond cond size m v.toNat then
                (p.1, { p.2 with wait := some { w with outcome := some (0, BitVec.ofNat 64 m) } })
              else p
          else p
        | _ => p
      | none => p }) }

/-- Test the waits on a line of global memory after it has been written at its home (R317). -/
def State.testLine (s : State) (l : Nat) : State :=
  if s.watched l then
    let d := (s.linePlain l).toNat
    let p := if s.torn l then BitVec.allOnes 128 else s.linePoison l
    s.testWaits (fun loc => !loc.sp && loc.addr / 128 == l) fun loc size =>
      if poisonedIn p (loc.addr % 128) size then none else some (bits d (8 * (loc.addr % 128)) (8 * size))
  else s

/-- A line of an execute frame becomes dirty-for-execute (R100). -/
def State.dirtyForExecute (s : State) (l : Nat) : State :=
  if s.mem.xf.contains l then
    s.setMem { s.mem with dx := if s.mem.dx.contains l then s.mem.dx else s.mem.dx ++ [l], pub := s.mem.pub.del l }
  else s

/-- Bytes of a line are discarded because its frame is write-exhausted: the groups with stores to it pending learn of it (R124). -/
def State.loseExhausted (s : State) (l : Nat) : State :=
  s.groups.foldl (fun s p => if (p.2.pend.look l).isSome then
    s.updBasin (basinOf p.2.core) fun x => { x with exhLost := (p.1, l) :: x.exhLost } else s) s

/-- Sector i of a line is written back (R82, R106): it becomes poisoned by a poisoned byte of the copy, else its own poison ends once
writes have covered it. -/
def State.sectorWritten (s : State) (l i : Nat) (mask poison : BitVec 128) : State :=
  let k := lineKey l + 64 * i
  let p := bits poison.toNat (64 * i) 64
  let m := bits mask.toNat (64 * i) 64
  if m == 0 then s
  else if p == 0 then s.coverSector k (BitVec.ofNat 64 m)
  else match s.mem.poison.look (storageOf k / 64) with
    | none => s.poisonSector k
    | some c => { s with mem := { s.mem with
        poison := s.mem.poison.set (storageOf k / 64) ((c ||| BitVec.ofNat 64 m) &&& ~~~(BitVec.ofNat 64 p)) } }

/-- The L2 line that holds a line (R80), and the marking of the sectors written in it (R82). -/
def l2Line (l : Nat) : Nat := storageOf (lineKey l) / 2048
def State.l2Dirty (s : State) (l : Nat) (mask : BitVec 128) : State :=
  let w := (if bits mask.toNat 0 64 == 0 then 0 else 1) + if bits mask.toNat 64 64 == 0 then 0 else 2
  s.updBasin (homeOf (lineKey l)) fun x => if (x.l2.look (l2Line l)).isNone then x else
    { x with l2 := x.l2.upd (l2Line l) fun e =>
        { e with dirty := e.dirty ||| BitVec.ofNat 32 (w * 2 ^ (storageOf (lineKey l) % 2048 / 64)) } }

/-- Merge the bytes of `mask` into a line at its home, with the poisoned bytes of the copy they come from (R82, R106, R112,
R122, R124).  A line whose tag does not match is read to be written in part: what is not written is poison then (R122). -/
def State.homeMerge (s : State) (l : Nat) (data : BitVec 1024) (mask poison : BitVec 128) : State :=
  let k := lineKey l
  if mask == 0#128 || s.rowLost k then s
  else
    let frame := s.poolFrame k
    let q := s.seal (stackOf k)
    match frame with
    | some f =>
      if q.exhausted f then s.loseExhausted l
      else
        let old := s.linePlain l
        let t := s.setSeal (stackOf k) { q.advance f (view3Off k / 128 % 32) with badTag := q.badTag.erase l }
        store (if s.torn l && mask != BitVec.allOnes 128 then hurt (hurt (t.sealFail l) 0) 1 else t) old
    | none => store s (s.linePlain l)
where
  hurt (s : State) (i : Nat) : State :=
    if bits mask.toNat (64 * i) 64 == 2 ^ 64 - 1 then s else s.poisonSector (lineKey l + 64 * i)
  store (s : State) (old : BitVec 1024) : State :=
    let s := (s.linePut l (mergeLine old data mask)).l2Dirty l mask
    (((s.sectorWritten l 0 mask poison).sectorWritten l 1 mask poison).dirtyForExecute l).testLine l

/-- Bytes of an element of an atomic type (R307). -/
def typSize (t : Nat) : Nat := if t == 2 || t == 3 || t == 5 then 8 else 4

/-- The new value of an atomic (R308): op 0 add, 1 min, 2 max, 3 and, 4 or, 5 xor, 6 exchange, 7 compare-and-swap;
types 0 .i32, 1 .n32, 2 .i64, 3 .n64, 4 .f32, 5 .f64. -/
def atomicNew (op typ old v cmp : Nat) : Nat :=
  let w := 8 * typSize typ
  let less (a b : Nat) : Bool := if typ % 2 == 0 then sext w a < sext w b else a < b
  match op with
  | 0 => if typ == 4 then addRne fmtF32 old v else if typ == 5 then addRne fmtF64 old v else (old + v) % 2 ^ w
  | 1 => if less v old then v else old
  | 2 => if less old v then v else old
  | 3 => old &&& v
  | 4 => old ||| v
  | 5 => old ^^^ v
  | 6 => v
  | _ => if old == cmp then v else old

/-- The identity a partial starts at (R85). -/
def atomicIdentity (op typ : Nat) : Nat :=
  let w := 8 * typSize typ
  match op with
  | 0 => if typ == 4 || typ == 5 then 2 ^ (w - 1) else 0
  | 1 => if typ % 2 == 0 then 2 ^ (w - 1) - 1 else 2 ^ w - 1
  | 2 => if typ % 2 == 0 then 2 ^ (w - 1) else 0
  | 3 => 2 ^ w - 1
  | _ => 0

/-- A whole line at the identity. -/
def identityLine (op typ : Nat) : BitVec 1024 :=
  let z := typSize typ
  BitVec.ofNat 1024 ((List.range (128 / z)).foldl (fun acc i => acc + atomicIdentity op typ * 2 ^ (8 * z * i)) 0)

/-- Combine one partial into a line (R85): touched elements only, none whose sector is poisoned (R467).
The result is the new data and the mask of the bytes it changed. -/
def combinePartial (op typ : Nat) (touched : BitVec 32) (part : BitVec 1024) (old : BitVec 1024) (poison : BitVec 128) :
    BitVec 1024 × BitVec 128 :=
  let z := typSize typ
  (List.range (128 / z)).foldl (fun (acc : BitVec 1024 × BitVec 128) i =>
    if !bit touched.toNat i || poisonedIn poison (i * z) z then acc
    else
      let v := atomicNew op typ (bits acc.1.toNat (8 * z * i) (8 * z)) (bits part.toNat (8 * z * i) (8 * z)) 0
      (BitVec.ofNat 1024 (setBits acc.1.toNat (8 * z * i) (8 * z) v), acc.2 ||| maskOf (z * i) z)) (old, 0#128)

end Sys2Proof.Machine
end

