-- ==== Sys2Proof/Machine/Coherence.lean ====
section
/-! DEFINITION. CCH lines, the directory and the RDC, leases, and the accesses that go through them (R83 to R98, R100).
A line of a basin has its backing in main memory when its home is the basin, and in the basin's RDC under a lease
otherwise. -/
namespace Sys2Proof.Machine

/-- The operations of a store that a peer module acknowledges (R87), in the requests outstanding at a root port: one that its group's
release waits for, and one that its instruction or command itself waits for. -/
def storeOp : Nat := 4096
def awaitedOp : Nat := 4097

/-- Whether a line is CXL memory, whose home keeps only the lines its device has returned (R118). -/
def cxlPortOf (l : Nat) : Option Nat :=
  match targetOf (lineKey l) with
  | .cxl p => if isHbmKey (lineKey l) then none else some p
  | _ => none

/-- Data and poison of a line at its backing in basin b (R83, R95). -/
def State.backRead (s : State) (b l : Nat) : (BitVec 1024 × BitVec 128) × State :=
  if homeOf (lineKey l) == b then s.homeRead l
  else match (s.basin b).rdc.look l with
    | some r => ((r.data, r.poison), s)
    | none => s.homeRead l

/-- The poison of a line in an RDC once bytes have been merged into it: what was not written keeps its own, and a sector that a poisoned
byte is written to anew is poisoned whole (R82, R106). -/
def mergePoison (old mask new : BitVec 128) : BitVec 128 :=
  let half (i : Nat) : Nat :=
    let o := bits old.toNat (64 * i) 64
    let n := bits new.toNat (64 * i) 64
    if n ||| o != o then 2 ^ 64 - 1 else o - (o &&& bits mask.toNat (64 * i) 64) ||| n
  BitVec.ofNat 128 (half 0 + 2 ^ 64 * half 1)

/-- Merge dirty bytes into the backing.  Dirty bytes of an off-basin line whose lease is gone are lost (R96). -/
def State.backMerge (s : State) (b l : Nat) (data : BitVec 1024) (mask poison : BitVec 128) : State :=
  if homeOf (lineKey l) == b then s.homeMerge l data mask poison
  else s.updBasin b fun x => { x with rdc := x.rdc.upd l fun r =>
    { r with data := mergeLine r.data data mask, dirty := r.dirty ||| mask, poison := mergePoison r.poison mask poison } }

/-- The words of a core's banks from `lo` on are written afresh: their check bits match (R76). -/
def State.softClear (s : State) (c lo n : Nat) : State := s.updCore c fun k =>
  if k.soft.isEmpty then k else { k with soft := k.soft.filter fun p => !(lo ≤ p.1 && p.1 < lo + n) }

/-- Words of a core's banks are read (R76): single-bit errors are corrected in what is delivered and counted; the words found
uncorrectable, which `f` marks, keep no error of their own. -/
def State.softRead (s : State) (c lo n : Nat) (f : List Nat → State → State) : State :=
  let hit (p : Nat × Nat) : Bool := lo ≤ p.1 && p.1 < lo + n
  match (s.core c).soft.filter hit with
  | [] => s
  | hits =>
    let ones := (hits.filter fun p => p.2 == 1).length
    let bad := (hits.filter fun p => p.2 != 1).map (·.1)
    f bad (s.updCore c fun k => { k with ceCount := min (2 ^ 32 - 1) (k.ceCount + ones), soft := k.soft.filter fun p => !(hit p && p.2 != 1) })

/-- A line of core c's CCH is read from offset `off` on: a word found uncorrectable takes the poison syndrome (R76). -/
def State.lineRead (s : State) (c l off n : Nat) : State :=
  match (s.core c).cch.look l with
  | none => s
  | some x =>
    let at_ := x.bank * 32768 + 32 * x.way
    s.softRead c (at_ + off / 4) ((off + n - 1) / 4 + 1 - off / 4) fun bad s => s.updCore c fun k =>
      { k with cch := k.cch.upd l fun y => { y with
          badW := bad.foldl (fun p w => p ||| BitVec.ofNat 32 (2 ^ (w - at_))) y.badW } }

/-- The bytes of a copy's uncorrectable words, and whether an access to n bytes at `off` meets poison (R76). -/
def CchLine.badBytes (x : CchLine) : BitVec 128 :=
  (List.range 32).foldl (fun m i => if bit x.badW.toNat i then m ||| maskOf (4 * i) 4 else m) 0#128
def CchLine.poisonedAt (x : CchLine) (off n : Nat) : Bool :=
  poisonedIn x.poison off n || bits x.badW.toNat (off / 4) ((off + n - 1) / 4 + 1 - off / 4) != 0

/-- Remove core c's copy of a line. -/
def State.dropCopy (s : State) (c l : Nat) : State := s.updCore c fun k => { k with cch := k.cch.del l }

/-- The bytes a write-back carries, by 64-byte sectors (R80, R210). -/
def sectorBytes (mask : BitVec 128) : Nat :=
  (if bits mask.toNat 0 64 == 0 then 0 else 64) + if bits mask.toNat 64 64 == 0 then 0 else 64

/-- The write-back of a copy that a region dirtied, its bytes of storage charged to it (R210). -/
def State.writeBack (s : State) (b l region : Nat) (data : BitVec 1024) (mask poison : BitVec 128) : State :=
  let s := s.backMerge b l data mask poison
  if homeOf (lineKey l) == b && isHbmKey (lineKey l) then s.charge b region 0 (sectorBytes mask) else s

/-- The write-back of an RDC line to its home, charged as bytes of the link and of storage (R210). -/
def State.rdcWriteBack (s : State) (h l : Nat) (r : RdcLine) : State :=
  let n := sectorBytes r.dirty
  if n == 0 then s
  else
    let s := (s.homeMerge l r.data r.dirty r.poison).charge h r.region 1 n
    if isHbmKey (lineKey l) then s.charge (homeOf (lineKey l)) r.region 0 n else s

/-- Write back what core c's copy of a line holds and keep the copy, clean (R84, R85, R103): dirty bytes, or a partial combined. -/
def State.flushCopy (s : State) (b c l : Nat) : State :=
  let s := s.lineRead c l 0 128
  match (s.core c).cch.look l with
  | some x =>
    match x.state with
    | .modified =>
      -- a dirty line's uncorrectable words go with it, their sectors marked poisoned (R76)
      let mask := if x.dirty == 0#128 then 0#128 else x.dirty ||| x.badBytes
      (s.writeBack b l x.region x.data mask (x.poison ||| x.badBytes)).updCore c fun k =>
        { k with cch := k.cch.upd l fun y => { y with dirty := 0#128 } }
    | .update =>
      let ((old, p), s) := s.backRead b l
      let (new, mask) := combinePartial x.op x.typ x.touched x.data old p
      let mask := if x.touched == 0#32 then 0#128 else mask ||| x.badBytes
      (s.writeBack b l x.region new mask x.badBytes).updCore c fun k =>
        { k with cch := k.cch.upd l fun y => { y with data := identityLine x.op x.typ, touched := 0#32, badW := 0#32 } }
    | _ => s
  | none => s

/-- Write back what one core's copy holds and remove it. -/
def State.combineCopy (s : State) (b c l : Nat) : State := (s.flushCopy b c l).dropCopy c l

/-- Combine the partials of `cs`, in an order the part does not fix (R85): the next to arrive is a free choice. -/
def State.combineAll (s : State) (b l : Nat) : Nat → List Nat → State
  | 0, _ | _, [] => s
  | _, [c] => s.combineCopy b c l
  | fuel + 1, cs =>
    let (n, s) := s.takeFree
    let c := cs.getD (Config.arrival n % cs.length) 0
    (s.combineCopy b c l).combineAll b l fuel (cs.erase c)

/-- The holders of a directory entry as module core numbers. -/
def holdersOf (b : Nat) (e : DirEntry) : List Nat := ((List.range 22).filter fun i => bit e.holders.toNat i).map (22 * b + ·)

/-- Recall every copy under a line's entry in basin b (R84): M written back, U combined, S dropped.  With `keepS` an M copy
becomes a clean S copy and S copies stay. -/
def State.recallAll (s : State) (b l : Nat) (keepS : Bool) : State :=
  match (s.basin b).dir.look l with
  | none => s
  | some e =>
    let cs := holdersOf b e
    let drop (s : State) : State := s.updBasin b fun x => { x with dir := x.dir.del l }
    match e.state with
    | .inv => s
    | .shared => if keepS then s else drop (cs.foldl (fun s c => s.dropCopy c l) s)
    | .modified => cs.foldl (fun s c =>
        match (s.core c).cch.look l with
        | some _ =>
          let s := s.flushCopy b c l
          if keepS then
            (s.updCore c fun k => { k with cch := k.cch.upd l fun y => { y with state := .shared } }).updBasin b
              fun x => { x with dir := x.dir.set l { e with state := .shared } }
          else drop (s.dropCopy c l)
        | none => drop s) s
    | .update => drop (s.combineAll b l cs.length cs)

/-- The stores of a basin's groups to a line are no longer pending at .dev (R87, R131). -/
def State.settled (s : State) (h l : Nat) : State :=
  { s with groups := s.groups.map fun (p : Nat × Group) =>
      (p.1, if basinOf p.2.core == h && (p.2.pend.look l).isSome then { p.2 with pend := p.2.pend.del l } else p.2) }

/-- Discard a basin's leased copies with their dirty bytes (R96, R98, R119): stores pending on them are lost. -/
def State.loseLine (s : State) (h l : Nat) : State :=
  let hadDirty := (match (s.basin h).rdc.look l with
    | some r => r.dirty != 0#128
    | none => false) || (match (s.basin h).dir.look l with
    | some e => e.state == .modified || e.state == .update
    | none => false)
  let s := (List.range 22).foldl (fun s i => s.dropCopy (22 * h + i) l) s
  let s := s.updBasin h fun x => { x with dir := x.dir.del l, rdc := x.rdc.del l }
  let s := if hadDirty then
      s.groups.foldl (fun s p => if (p.2.pend.look l).isSome && basinOf p.2.core == h then
        s.updBasin h fun x => { x with lapsed := (p.1, l) :: x.lapsed } else s) s
    else s
  s.settled h l

/-- Whether a basin's agent is beyond its guard band (R98). -/
def State.drifting (s : State) (b : Nat) : Bool := bits (s.reg b .lguard) 0 14 < (s.basin b).uncert

/-- A copy whose lease has ended on the holder's GTB is no longer used, its dirty bytes lost (R93, R95, R96). -/
def State.dropExpired (s : State) (h l : Nat) : State :=
  match (s.basin h).rdc.look l with
  | some r => if homeOf (lineKey l) != h && r.expiry ≤ s.time then s.loseLine h l else s
  | none => s

/-- Release the lease a basin holds on a line (R93): copies recalled, dirty bytes written back, the line no longer used. -/
def State.holderRelease (s : State) (h l : Nat) : State :=
  let home := homeOf (lineKey l)
  let s := (s.dropExpired h l).recallAll h l false
  let s := match (s.basin h).rdc.look l with
    | some r => s.rdcWriteBack h l r
    | none => s
  let s := (s.updBasin h fun x => { x with rdc := x.rdc.del l }).settled h l
  s.updBasin home fun x => { x with leases := x.leases.filter fun g => !(g.hclass == 1 && g.holder == h && g.line == l) }

/-- Write back an RDC line's own dirty bytes and keep the line. -/
def State.rdcFlush (s : State) (h l : Nat) : State :=
  match (s.basin h).rdc.look l with
  | some r =>
    if r.dirty == 0#128 then s
    else (s.rdcWriteBack h l r).updBasin h fun x =>
      { x with rdc := x.rdc.upd l fun r => { r with dirty := 0#128 } }
  | none => s

/-- Write back a line's dirty bytes, of the basin's cores and of its RDC, and keep the lease (R87, R146). -/
def State.rdcClean (s : State) (h l : Nat) : State :=
  (((s.dropExpired h l).recallAll h l true).rdcFlush h l).settled h l

/-- Conflicting leases of other holders than `except`, by class and number, are released (R94): a basin answers at once, a peer module is waited for. -/
def State.releaseOthers (s : State) (l : Nat) (exclusive : Bool) (except : Option (Nat × Nat)) : State :=
  let home := homeOf (lineKey l)
  ((s.basin home).leases.filter fun g => g.line == l && g.hclass == 1 && (g.write || exclusive) && some (1, g.holder) != except).foldl
    (fun s g => s.holderRelease g.holder l) s

/-- Whether a peer module's lease still conflicts (R94). -/
def State.peerConflict (s : State) (l : Nat) (exclusive : Bool) (except : Option (Nat × Nat)) : Bool :=
  (s.basin (homeOf (lineKey l))).leases.any fun g =>
    g.line == l && g.hclass == 4 && (g.write || exclusive) && some (4, g.holder) != except

/-- Release or wait for conflicting leases. -/
def clearLeases (l : Nat) (exclusive : Bool) (except : Option (Nat × Nat)) : M Unit := do
  modS fun s => s.releaseOthers l exclusive except
  let s ← getS
  if s.peerConflict l exclusive except then wait .memdep

/-- Lapse entry key of a holder: class, holder and region (R96). -/
def State.lapsedFor (s : State) (home hclass holder region : Nat) : Bool :=
  (s.basin home).lapses.vals.any (fun e => e.hclass == hclass && e.holder == holder && e.region == region)
    || (bit (s.reg home .lapsectl) 63 && (s.basin home).lapsers.contains (hclass, holder))

/-- While a lapse entry stands for a basin and region at a line's home, every access of theirs to it completes LINKDOWN (R96). -/
def lapseGate (b l region : Nat) : M Unit := do
  let s ← getS
  let home := homeOf (lineKey l)
  if home != b && s.lapsedFor home 1 b region then err .down

/-- The L2 lines that hold a DX unit in the set of a line's own (R100). -/
def State.dxWays (s : State) (l : Nat) : List Nat :=
  ((s.mem.dx.map l2Line).eraseDups).filter fun q => Config.l2Set q == Config.l2Set (l2Line l)

/-- Whether a line may not become dirty-for-execute yet: it would need a thirteenth way of its set (R100). -/
def State.dxFull (s : State) (l : Nat) : Bool :=
  s.mem.xf.contains l && 12 ≤ s.mem.dx.length && !(s.mem.dx.map l2Line).contains (l2Line l) && 12 ≤ (s.dxWays l).length

/-- Before a write grant or a write of a line of an execute frame: wait for a way of its set (R100). -/
def dxGate (l : Nat) : M Unit := do
  let s ← getS
  if s.dxFull l then do
    modS fun s => if s.mem.dxWait.any (fun p => p.1 == l) then s
      else s.setMem { s.mem with dxWait := s.mem.dxWait ++ [(l, s.time)] }
    wait .memdep
  else modS fun s => if s.mem.dxWait.isEmpty then s else s.setMem { s.mem with dxWait := s.mem.dxWait.filter fun p => p.1 != l }

/-- The publication the home makes itself for the requests of a set that have waited 100 µs (R100): its oldest DX unit. -/
def State.dxDue (s : State) : Option Nat :=
  (s.mem.dxWait.find? fun p => p.2 + 100000 ≤ s.time && s.dxFull p.1).bind fun p =>
    s.mem.dx.find? fun l => (s.dxWays p.1).contains (l2Line l)

/-- The links of a root port by its bifurcation (R411): x16, 2 of x8, 4 of x4, 8 of x2, 16 of x1; and the link whose share of the port's
1 TiB window holds a line (R118). -/
def State.portLinks (s : State) (p : Nat) : Nat := 2 ^ min 4 (bits (s.reg (p / 4) (.rpctl (p % 4))) 26 3)
def State.linkOf (s : State) (p l : Nat) : Nat := lineKey l % 2 ^ 40 / (2 ^ 40 / s.portLinks p)

/-- Whether a CXL port is in containment (R119). -/
def State.contained (s : State) (p : Nat) : Bool := bit (s.reg (p / 4) (.cxlctl (p % 4))) 30

/-- Requests a core may have outstanding (R3), and whether the issuing group's core has them. -/
def coreRequests : Nat := 8192
def State.requestsOut (s : State) (core : Nat) : Nat :=
  (s.barReqs.filter fun q => q.core == core).length
    + (s.cxlReqs.filter fun q => q.askers.any fun a => ((a.bind s.groups.look).map fun g => g.core == core).getD false).length
def State.requestsFull (s : State) : Bool :=
  coreRequests ≤ s.cxlReqs.length + s.barReqs.length
    && (((s.cur.bind s.groups.look).map fun g => decide (coreRequests ≤ s.requestsOut g.core)).getD false)

/-- Ask CXL devices for lines, each once, and wait (R119). -/
def cxlAsk (ls : List Nat) (dev : Bool) : M Unit := do
  let s ← getS
  if s.requestsFull then wait .memdep
  modS fun s => ls.foldl (fun s l =>
    if s.cxlReqs.any fun q => q.line == l && q.dev == dev && !q.down then
      { s with cxlReqs := s.cxlReqs.map fun (q : CxlReq) =>
          if q.line == l && q.dev == dev && !q.down && !q.askers.contains s.cur then { q with askers := s.cur :: q.askers } else q }
    else
      let p := (cxlPortOf l).getD 0
      { s with cxlReqs := s.cxlReqs ++
          [{ port := p, link := s.linkOf p l, line := l, since := s.time, dev := dev, ready := false, askers := [s.cur], down := false }] }) s
  wait .memdep

/-- What containment has completed with LINKDOWN has been taken by an asker, of one line or of any; a request that everybody has taken
and its device has answered is over. -/
def State.cxlTaken (s : State) (who : Option Nat) (line : Option Nat) : State :=
  if s.cxlReqs.isEmpty then s
  else
    let rest := s.cxlReqs.map fun (q : CxlReq) =>
      if q.down && (line.map fun l => q.line == l).getD true then { q with askers := q.askers.erase who } else q
    { s with cxlReqs := rest.filter fun q => !(q.down && q.ready && q.askers.isEmpty) }

/-- An access whose request containment has completed takes LINKDOWN (R119): a group for the rest of its instruction, a unit once. -/
def cxlDown (l : Nat) : M Unit := do
  let s ← getS
  let mine (q : CxlReq) : Bool := q.line == l && q.down && q.askers.contains s.cur
  if s.cxlReqs.any mine then do
    M.whenB s.cur.isNone (modS fun s => s.cxlTaken none (some l))
    err .down

/-- A CXL line is usable once its device has returned it to the home; until then a request is outstanding (R118, R119). -/
def cxlReady (l : Nat) : M Unit := do
  let s ← getS
  match cxlPortOf l with
  | some p =>
    if s.contained p then err .down
    cxlDown l
    if !((s.basin (p / 4)).rdc.look l).isSome then cxlAsk [l] false
  | none => pure ()

/-- Lines of CXL memory asked of their device for an access through a DEV buffer, which fills no cache (R15, R119): asked once, then
waited for, the answers consumed together. -/
def cxlDirect (ls : List Nat) : M Unit := do
  let s ← getS
  let ours (l : Nat) (q : CxlReq) : Bool := q.dev && q.line == l && !q.down
  if ls.any fun l => ((cxlPortOf l).map s.contained).getD true then err .down
  M.forEach cxlDown ls
  if ls.all fun l => s.cxlReqs.any fun q => ours l q && q.ready then
    modS fun s => { s with cxlReqs := s.cxlReqs.filter fun q => !ls.any fun l => ours l q }
  else cxlAsk (ls.filter fun l => !s.cxlReqs.any fun q => ours l q && q.ready) true

/-- A line of a write-exhausted frame takes no write and no grant for one (R124). -/
def exhaustGate (key : Nat) : M Unit := do
  let s ← getS
  if ((s.poolFrame key).map (s.seal (stackOf key)).exhausted).getD false then err .exh

/-- Recall every copy of a line that any basin or lease holds. -/
def State.recallEverywhere (s : State) (l : Nat) : State :=
  (s.releaseOthers l true none).recallAll (homeOf (lineKey l)) l false

/-- Re-encrypt a frame (R123): every copy of its lines is recalled, the major counter incremented and every minor set to 0, and all 32
lines rewritten; one whose tag does not match is poison from then on (R122). -/
def State.reencrypt (s : State) (k f : Nat) : State :=
  let ls := (List.range 32).map ((3 * 2 ^ 40 + k * 2 ^ 37) / 128 + 32 * f + ·)
  let s := ls.foldl State.recallEverywhere s
  let old := ls.map s.linePlain
  let bad := ls.filter s.torn
  let q := s.seal k
  let fr := q.frame f
  let s := s.setSeal k { q with frames := q.frames.set f { fr with major := fr.major + 1, minors := [] },
                                badTag := q.badTag.filter fun l => !bad.contains l, reenc := q.reenc.erase f }
  let s := bad.foldl (fun s l => ((s.sealFail l).poisonSector (lineKey l)).poisonSector (lineKey l + 64)) s
  (ls.zip old).foldl (fun s p => s.linePut p.1 p.2) s

/-- The re-encryptions due in a stack are made before its next access (R123). -/
def sealStep (key : Nat) : M Unit := modS fun s =>
  if !isHbmKey key || (s.seal (stackOf key)).reenc.isEmpty then s
  else (s.seal (stackOf key)).reenc.foldl (fun s f => s.reencrypt (stackOf key) f) s

/-- The sectors of a line within its L2 line (R80). -/
def l2Sectors (l : Nat) : BitVec 32 := BitVec.ofNat 32 (3 * 2 ^ (storageOf (lineKey l) % 2048 / 64))

/-- Evict an L2 line (R82): every CCH copy under it, in its basin or under a lease, is recalled first. -/
def State.l2Evict (s : State) (b q : Nat) : State :=
  let x := s.basin b
  let ls := ((x.dir.keys ++ x.leases.map (·.line)).filter fun l => isHbmKey (lineKey l) && l2Line l == q).eraseDups
  (ls.foldl State.recallEverywhere s).updBasin b fun x => { x with l2 := x.l2.del q }

/-- SECFETCH or SECUSE rises by a number of sectors (R445). -/
def State.countSectors (s : State) (b : Nat) (r : BReg) (m : BitVec 32) : State :=
  s.setReg b r ((s.reg b r + ((List.range 32).filter fun i => bit m.toNat i).length) % 2 ^ 64)

/-- The set of an L2 line, of the 96 slices of 32 sets of a basin (R1, R80).  No value shows which slice and set a line takes, nor what is
evicted (R80): the model takes them by channel and row segment, and evicts the line held longest (log entry 93). -/
def l2SetOf (q : Nat) : Nat := q / rowsPerChannel % 1024 % 96 * 32 + q % rowsPerChannel % 32

/-- The home's L2 holds a line that is read or written (R80, R82): in one of the 16 ways of its set, another line, that holds no DX unit,
evicted where all are taken. -/
def State.l2Fill (s : State) (l : Nat) : State :=
  if !isHbmKey (lineKey l) then s
  else
    let b := homeOf (lineKey l)
    let q := l2Line l
    let x := s.basin b
    let ways := if x.l2.length < 16 || (x.l2.look q).isSome then []
      else x.l2.keys.filter fun p => l2SetOf p == l2SetOf q && !(s.mem.dx.map l2Line).contains p
    let s := if ways.length < 16 then s else s.l2Evict b (ways.headD 0)
    let e := (s.basin b).l2.get { valid := 0#32, dirty := 0#32, extra := 0#32 } q
    let want := l2Sectors l
    -- on a miss the predictor's further sectors come with those demanded (R81, R445)
    let (n, s) := s.takeFree
    let more : BitVec 32 := if want &&& ~~~e.valid == 0#32 then 0#32 else Config.sectors n &&& ~~~(e.valid ||| want)
    let s := s.updBasin b fun x =>
      { x with l2 := x.l2.set q { e with valid := e.valid ||| want ||| more, extra := (e.extra &&& ~~~want) ||| more } }
    (s.countSectors b .secfetch more).countSectors b .secuse (e.extra &&& want)

/-- What every access to a line at its home begins with. -/
def homeStep (key : Nat) : M Unit := do
  sealStep key
  modS fun s => s.l2Fill (lineOf key)

/-- The lines an RDC holds (R3): 32 MiB of 128 bytes. -/
def rdcLines : Nat := 262144

/-- Make room for a line in an RDC (R3): the first line it holds under a lease is released. -/
def State.rdcRoom (s : State) (b l : Nat) : State :=
  let x := s.basin b
  if x.rdc.length < rdcLines || (x.rdc.look l).isSome then s
  else match x.rdc.keys.find? fun k => homeOf (lineKey k) != b with
    | some k => s.holderRelease b k
    | none => match x.rdc.keys.head? with
      | some k => (s.recallAll b k false).updBasin b fun y => { y with rdc := y.rdc.del k }
      | none => s

/-- The L2 slice of a line, 96 to a basin (R1). -/
def l2Slice (l : Nat) : Nat := 96 * homeOf (lineKey l) + Config.homeSlice l % 96

/-- Whether the lease table of a line's home slice is full (R92): 4,096 leases. -/
def State.leasesFull (s : State) (l : Nat) : Bool :=
  let ls := (s.basin (homeOf (lineKey l))).leases
  4096 ≤ ls.length && 4096 ≤ (ls.filter fun g => l2Slice g.line == l2Slice l).length

/-- Request a lease for basin b (R92 to R94).  The result tells whether the line is now in the RDC under a lease; without
one the access is served at the home. -/
def leaseRequest (b l : Nat) (write : Bool) (region : Nat) : M Bool := do
  let home := homeOf (lineKey l)
  lapseGate b l region
  modS fun s => s.dropExpired b l
  let s ← getS
  let t := s.time
  let len := s.leaseLen region write
  let fresh := match (s.basin b).rdc.look l with
    | some r => (r.write || !write) && t < r.expiry && r.len ≤ 2 * (r.expiry - t)
    | none => false
  if !s.drifting b && fresh then pure true
  else do
    M.whenB (!s.shareLeft b region 1 || (isHbmKey (lineKey l) && !s.shareLeft home region 0)) (wait .memdep)
    M.whenB write (dxGate l)
    M.whenB write (exhaustGate (lineKey l))
    clearLeases l write (some (1, b))
    -- a renewal leaves no bytes dirty for longer than one lease (R146)
    modS fun s => ((s.recallAll home l (!write)).rdcClean b l).rdcRoom b l
    let s ← getS
    let have_ := (s.basin b).rdc.look l
    let mine (g : Lease) : Bool := g.hclass == 1 && g.holder == b && g.line == l
    let held := (s.basin home).leases.any mine
    if s.drifting b || s.drifting home || (!held && s.leasesFull l) || (write && s.watched l) then do
      modS fun s => s.holderRelease b l
      pure false
    else do
      let ((data, p), s) := (← getS).homeRead l
      let line : RdcLine := match have_ with
        | some r => { r with write := r.write || write, expiry := t + len, len := len, region := region }
        | none => { data := data, dirty := 0#128, poison := p, write := write, expiry := t + len, len := len, region := region }
      let s := if write then s.dirtyForExecute l else s
      let s := s.updBasin b fun x => { x with rdc := x.rdc.set l line }
      let until_ := t + len + bits (s.reg home .lguard) 0 14
      let lease : Lease :=
        { hclass := 1, holder := b, line := l, write := line.write, expiry := until_, region := region }
      let s := s.updBasin home fun x => { x with leases := lease :: x.leases.filter fun g => !mine g }
      let s := s.charge b region 1 128
      let s := if isHbmKey (lineKey l) then s.charge home region 0 128 else s
      modS fun _ => s
      pure true

/-- Ready a line's backing for use by basin b: leases of others released at the home, a lease of its own elsewhere, and a
CXL line returned by its device (R84, R94, R95, R118).  The result tells whether copies may be held. -/
def ready (b l : Nat) (write : Bool) (region : Nat) : M Bool := do
  let home := homeOf (lineKey l)
  cxlReady l
  homeStep (lineKey l)
  let s ← getS
  if home == b then do
    M.whenB (isHbmKey (lineKey l) && !s.shareLeft b region 0) (wait .memdep)
    M.whenB write (dxGate l)
    clearLeases l write none
    M.whenB write (exhaustGate (lineKey l))
    pure true
  else leaseRequest b l write region

/-- The CCH bank a new line takes: the lowest-numbered CCH bank with room, else, its oldest line evicted, the lowest one
(R72); none when the core has no CCH bank. -/
def State.cchBanks (s : State) (c : Nat) : List Nat :=
  (List.range 96).filter fun i => ((s.core c).banks.get .reset i).role == .cch
def State.cchRoom (s : State) (c i : Nat) : Bool := ((s.core c).cch.vals.filter fun x => x.bank == i).length < 1024

/-- Evict core c's copy of a line (R84): S silently, the directory none the wiser, M and U by a write-back or a partial. -/
def State.evict (s : State) (c l : Nat) : State :=
  let b := basinOf c
  let gone (s : State) : State := s.updBasin b fun y =>
    match y.dir.look l with
    | some e =>
      let h := e.holders &&& ~~~(BitVec.ofNat 24 (2 ^ localOf c))
      { y with dir := if h == 0#24 then y.dir.del l else y.dir.set l { e with holders := h } }
    | none => y
  match (s.core c).cch.look l with
  | none => s
  | some x =>
    match x.state with
    | .modified | .update => gone (s.combineCopy b c l)
    | _ => s.dropCopy c l

/-- The lowest place free in a CCH bank. -/
def State.cchWay (s : State) (c i : Nat) : Nat :=
  let used := ((s.core c).cch.vals.filter fun x => x.bank == i).map (·.way)
  ((List.range 1024).find? fun w => !used.contains w).getD 0

/-- A copy placed in a bank: its words are written whole. -/
def State.placeCopy (s : State) (c l : Nat) (x : CchLine) (i w : Nat) : State :=
  (s.softClear c (i * 32768 + 32 * w) 32).updCore c fun k => { k with cch := k.cch.set l { x with bank := i, way := w } }

/-- A copy allocated for a region in core c, a line evicted for it where the banks are full. -/
def State.allocate (s : State) (c l : Nat) (x : CchLine) : Option State :=
  match s.cchBanks c with
  | [] => none
  | b0 :: bs =>
    match (b0 :: bs).find? (s.cchRoom c) with
    | some i => some (s.placeCopy c l x i (s.cchWay c i))
    | none =>
      match (s.core c).cch.find? fun p => p.2.bank == b0 with
      | some (old, y) => some ((s.evict c old).placeCopy c l x b0 y.way)
      | none => some s

/-- Set a directory entry. -/
def State.setDir (s : State) (b l : Nat) (e : DirEntry) : State := s.updBasin b fun x => { x with dir := x.dir.set l e }

/-- The holder bit of core c. -/
def holderBit (c : Nat) : BitVec 24 := BitVec.ofNat 24 (2 ^ localOf c)

/-- HOME_LOAD_MISS (R84, R85): the home hands core c a readable copy; data and poison of the line. -/
def homeLoadMiss (c l region : Nat) : M (BitVec 1024 × BitVec 128) := do
  let b := basinOf c
  let hold ← ready b l false region
  modS fun s => s.recallAll b l true
  let s ← getS
  -- a U entry has been combined and is gone, an M entry is now S{o} (R84)
  let (dp, s) := s.backRead b l
  modS fun _ => if homeOf (lineKey l) == b && isHbmKey (lineKey l) then s.charge b region 0 128 else s
  let s ← getS
  let copy : CchLine := { state := .shared, data := dp.1, dirty := 0#128, poison := dp.2, badW := 0#32, bank := 0, way := 0, region := region,
                          op := 0, typ := 0, touched := 0#32 }
  if hold then
    modS fun _ => match s.allocate c l copy with
      | some s =>
        let old := ((s.basin b).dir.look l).map (·.holders) |>.getD 0#24
        s.setDir b l { state := .shared, holders := old ||| holderBit c, op := 0, typ := 0 }
      | none => s
  pure dp

/-- HOME_STORE_MISS (R84): the home hands core c the only copy; false when the store is to be applied at the home: no CCH
bank, no lease, or a registered wait on the line (R72, R92, R317). -/
def homeStoreMiss (c l region : Nat) : M Bool := do
  let b := basinOf c
  let hold ← ready b l true region
  modS fun s => s.recallAll b l false
  let s ← getS
  if !hold || s.watched l then pure false
  else
    let (dp, s) := s.backRead b l
    let copy : CchLine := { state := .modified, data := dp.1, dirty := 0#128, poison := dp.2, badW := 0#32, bank := 0, way := 0, region := region,
                            op := 0, typ := 0, touched := 0#32 }
    match s.allocate c l copy with
    | some s => do
      let s := s.setDir b l { state := .modified, holders := holderBit c, op := 0, typ := 0 }
      let s := if homeOf (lineKey l) == b && isHbmKey (lineKey l) then s.charge b region 0 128 else s
      modS fun _ => if homeOf (lineKey l) == b then s.dirtyForExecute l else s
      pure true
    | none => pure false

/-- HOME_RED_MISS (R84): core c enters U for a pair, at the identity with no element touched; false when the update is to be
applied at the home. -/
def homeRedMiss (c l region op typ : Nat) : M Bool := do
  let b := basinOf c
  let hold ← ready b l true region
  let s ← getS
  let same := match (s.basin b).dir.look l with
    | some e => e.state == .update && e.op == op && e.typ == typ
    | none => false
  M.whenB (!same) (modS fun s => s.recallAll b l false)
  let s ← getS
  if !hold || s.watched l then do
    modS fun s => s.recallAll b l false
    pure false
  else
    let copy : CchLine := { state := .update, data := identityLine op typ, dirty := 0#128, poison := 0#128, badW := 0#32, bank := 0,
                            way := 0, region := region, op := op, typ := typ, touched := 0#32 }
    -- a core that holds the pair already keeps its partial
    let own : Bool := same && (match (s.core c).cch.look l with
      | some x => x.state == .update
      | none => false)
    match if own then some s else s.allocate c l copy with
    | some s => do
      let old := if same then ((s.basin b).dir.look l).map (·.holders) |>.getD 0#24 else 0#24
      let s := s.setDir b l { state := .update, holders := old ||| holderBit c, op := op, typ := typ }
      modS fun _ => if homeOf (lineKey l) == b then s.dirtyForExecute l else s
      pure true
    | none => do
      modS fun s => s.recallAll b l false
      pure false

/-- Ready a line for an operation performed at its home, or at the RDC acting as home, with every copy recalled (R84). -/
def atHome (b l : Nat) (write : Bool) (region : Nat) : M Unit := do
  let _ ← ready b l write region
  modS fun s => s.recallAll b l false

/-- Read n bytes of a line at its backing: bytes and whether any of them is poisoned. -/
def backBytes (b l off n : Nat) : M (List Byte × Bool) := do
  let s ← getS
  let (dp, s) := s.backRead b l
  modS fun _ => s
  pure (lineBytes dp.1 off n, poisonedIn dp.2 off n)

/-- Write n bytes at the backing; an off-basin line is written back to its home at once. -/
def backWrite (b l off : Nat) (bs : List Byte) (poison : Bool) : M Unit :=
  modS fun s =>
    let home := homeOf (lineKey l)
    let p : BitVec 128 := if poison then maskOf off bs.length else 0#128
    let s := s.backMerge b l (placeBytes off bs) (maskOf off bs.length) p
    if home == b then s
    else match (s.basin b).rdc.look l with
      | some _ => s.rdcClean b l
      | none => s.homeMerge l (placeBytes off bs) (maskOf off bs.length) p

/-- Charge bytes that basin b reads or writes at a line's home or at the RDC acting as home (R210). -/
def homeCharge (b l region n : Nat) : M Unit := modS fun s =>
  let home := homeOf (lineKey l)
  let s := if isHbmKey (lineKey l) then s.charge home region 0 n else s
  if home != b then s.charge b region 1 n else s

/-- A plain load of up to 32 bytes within a line through core c's CCH (R84, R95): bytes and whether they are poisoned. -/
def cchLoad (c l off n region : Nat) : M (List Byte × Bool) := do
  lapseGate (basinOf c) l region
  sealStep (lineKey l)
  let s ← getS
  let b := basinOf c
  let live := homeOf (lineKey l) == b || (match (s.basin b).rdc.look l with
    | some r => s.time < r.expiry
    | none => false)
  modS fun s => s.lineRead c l off n
  let s ← getS
  let hit : Option CchLine := match (s.core c).cch.look l with
    | some x => if (x.state == .shared || x.state == .modified) && live then some x else none
    | none => none
  -- a clean line with bad data is fetched again, a dirty one written back with it (R76)
  let bad : Bool := (hit.map fun x => x.poisonedAt off n).getD false
  let clean : Bool := (hit.map fun x => x.dirty == 0#128).getD false
  M.whenB bad (modS fun s => if clean then s.evict c l else s.flushCopy b c l)
  let fresh : M (BitVec 1024 × Bool) := do
    let (d, p) ← homeLoadMiss c l region
    pure (d, poisonedIn p off n)
  let (d, p) ← match hit with
    | some x => if bad && clean then fresh else pure (x.data, bad)
    | none => fresh
  pure (lineBytes d off n, p)

/-- Words of a copy that a store covers are written whole; one it covers in part is read first (R76). -/
def State.lineWritten (s : State) (c l off n : Nat) : State :=
  match (s.core c).cch.look l with
  | none => s
  | some x =>
    let s := if off % 4 == 0 && n % 4 == 0 then s else s.lineRead c l off n
    s.softClear c (x.bank * 32768 + 32 * x.way + (off + 3) / 4) ((off + n) / 4 - (off + 3) / 4)

/-- The release counters of a group (R131): the part performs every store at .wg at once, and at .die all but those through a DEV buffer
that their target has not acknowledged (R87); .dev and .sys count the stores and REDs not yet written back to their homes and the stores
a peer module has not acknowledged. -/
def State.releaseCount (s : State) (gid scope : Nat) : Nat :=
  if scope == 0 then 0
  else if scope == 1 then (s.barReqs.filter fun q => q.group == gid && q.op == storeOp && q.dev).length
  else match s.groups.look gid with
    | none => 0
    | some g => g.pend.vals.foldl (· + ·) 0 + (s.barReqs.filter fun q => q.group == gid && q.op == storeOp).length

/-- Write back everything a group's .dev counter counts. -/
def State.drainStores (s : State) (gid : Nat) : State :=
  match s.groups.look gid with
  | none => s
  | some g => (g.pend.keys.foldl (fun s l => s.rdcClean (basinOf g.core) l) s).updGroup gid fun g => { g with pend := [] }

/-- A store that would raise a counter above 65,535 waits (R131). -/
def countGate (gid : Nat) : M Unit := do
  let s ← getS
  if 65535 ≤ s.releaseCount gid 2 then do
    modS fun s => s.drainStores gid
    wait .memdep

/-- Count a store or RED to a line as pending at .dev (R87, R131). -/
def State.pending (s : State) (gid l : Nat) : State :=
  s.updGroup gid fun g => { g with pend := g.pend.set l (g.pend.get 0 l + 1) }

/-- A plain store of up to 32 bytes within a line through core c's CCH (R84, R87).  Off-basin lines are pending at .dev for
the storing group. -/
def cchStore (c l off : Nat) (bs : List Byte) (region gid : Nat) : M Unit := do
  lapseGate (basinOf c) l region
  sealStep (lineKey l)
  let s ← getS
  let b := basinOf c
  let local_ := homeOf (lineKey l) == b && isHbmKey (lineKey l)
  M.whenB (!local_) (countGate gid)
  let live := homeOf (lineKey l) == b || (match (s.basin b).rdc.look l with
    | some r => r.write && s.time < r.expiry
    | none => false)
  let mine : Bool := match (s.core c).cch.look l with
    | some x => x.state == .modified && live && !s.watched l
    | none => false
  let got ← if mine then pure true else homeStoreMiss c l region
  if got then
    modS fun s =>
      let m := maskOf off bs.length
      let s := (s.lineWritten c l off bs.length).updCore c fun k => { k with cch := k.cch.upd l fun x =>
        { x with data := mergeLine x.data (placeBytes off bs) m, dirty := x.dirty ||| m, poison := x.poison &&& ~~~m,
                 badW := x.badW &&& ~~~(BitVec.ofNat 32 (2 ^ ((off + bs.length) / 4) - 2 ^ ((off + 3) / 4))) } }
      if local_ then s else s.pending gid l
  else do
    homeCharge b l region bs.length
    backWrite b l off bs false

/-- A RED of one element through core c's CCH (R84, R145). -/
def cchRed (c l off op typ v region gid : Nat) : M Unit := do
  lapseGate (basinOf c) l region
  sealStep (lineKey l)
  let s ← getS
  let b := basinOf c
  let local_ := homeOf (lineKey l) == b && isHbmKey (lineKey l)
  M.whenB (!local_) (countGate gid)
  let live := homeOf (lineKey l) == b || (match (s.basin b).rdc.look l with
    | some r => r.write && s.time < r.expiry
    | none => false)
  let mine : Bool := match (s.core c).cch.look l with
    | some x => x.state == .update && x.op == op && x.typ == typ && live && !s.watched l
    | none => false
  let got ← if mine then pure true else homeRedMiss c l region op typ
  let z := typSize typ
  if got then
    modS fun s =>
      let s := (s.lineRead c l off z).updCore c fun k => { k with cch := k.cch.upd l fun x =>
        let o := bits x.data.toNat (8 * off) (8 * z)
        { x with data := BitVec.ofNat 1024 (setBits x.data.toNat (8 * off) (8 * z) (atomicNew op typ o v 0)),
                 touched := x.touched ||| BitVec.ofNat 32 (2 ^ (off / z)) } }
      if local_ then s else s.pending gid l
  else do
    let (o, bad) ← backBytes b l off z
    M.whenB (!bad) (homeCharge b l region z)
    M.whenB (!bad) (backWrite b l off (natToBytes z (atomicNew op typ (bytesToNat o) v 0)) false)

/-- Read bytes as an agent at the home sees them: copies and write leases but those of `except` give up their dirty bytes first (R79,
R84, R94).  A DEV buffer's access allocates nothing in the L2 (R15, R79). -/
def agentRead (key n : Nat) (except : Option (Nat × Nat) := none) (fill : Bool := true) : M (List Byte × Bool) := do
  let l := lineOf key
  let home := homeOf key
  cxlReady l
  if fill then homeStep key else sealStep key
  clearLeases l false except
  modS fun s => s.recallAll home l true
  backBytes home l (key % 128) n

/-- Write bytes as an agent at the home: every copy and lease is recalled first (R15, R84, R94). -/
def agentWrite (key : Nat) (bs : List Byte) (poison : Bool) (except : Option (Nat × Nat) := none) (fill : Bool := true) : M Unit := do
  let l := lineOf key
  let home := homeOf key
  let s ← getS
  match cxlPortOf l with
  | some p => M.whenB (s.contained p) (err .down)
  | none => pure ()
  if fill then homeStep key else sealStep key
  dxGate l
  clearLeases l true except
  modS fun s => s.recallAll home l false
  exhaustGate key
  backWrite home l (key % 128) bs poison

/-- The lines of a key range, first to last, with the part of the range in each: line, offset, length. -/
def linePieces (key : Nat) : Nat → Nat → List (Nat × Nat × Nat)
  | 0, _ => []
  | fuel + 1, n =>
    if n == 0 then [] else
    let room := 128 - key % 128
    let m := min room n
    (key / 128, key % 128, m) :: linePieces (key + m) fuel (n - m)

/-- The lines of a range of physical addresses within a page, first to last, with the part of the range in each: offset in the
range, line, offset in it, length.  A view scatters the lines of a page over the stacks (R28, R107). -/
def paPieces (pa n : Nat) : List (Nat × Nat × Nat × Nat) :=
  (linePieces pa (n / 128 + 2) n).map fun p => (p.1 * 128 + p.2.1 - pa, lineOf (keyOf (p.1 * 128)), p.2.1, p.2.2)

/-- Every line of a range within a page is asked whether its holder has lapsed (R96). -/
def lapseGates (b pa n region : Nat) : M Unit :=
  M.forEach (fun (p : Nat × Nat × Nat × Nat) => lapseGate b p.2.1 region) (paPieces pa n)

/-- Read and write any number of bytes at the home, line by line. -/
def agentReadN (pa n : Nat) (except : Option (Nat × Nat) := none) (fill : Bool := true) : M (List Byte × Bool) := do
  let parts ← M.mapEach (fun (p : Nat × Nat × Nat × Nat) => agentRead (lineKey p.2.1 + p.2.2.1) p.2.2.2 except fill) (paPieces pa n)
  pure ((parts.map (·.1)).flatten, parts.any (·.2))

def agentWriteN (pa : Nat) (bs : List Byte) (poison : Bool) (except : Option (Nat × Nat) := none) (fill : Bool := true) : M Unit :=
  M.forEach (fun (p : Nat × Nat × Nat × Nat) => agentWrite (lineKey p.2.1 + p.2.2.1) ((bs.drop p.1).take p.2.2.2) poison except fill)
    (paPieces pa bs.length)

/-- Wait until a group's .dev and .sys counters are zero (R131): the part writes its lines back meanwhile.  A store lost to a lapse
gives LINKDOWN (R96), one discarded by a write-exhausted frame CTREXH (R124). -/
def releaseDev (gid : Nat) : M Unit := do
  let s ← getS
  match s.groups.look gid with
  | none => pure ()
  | some g =>
    if s.releaseCount gid 2 != 0 then do
      modS fun s => s.drainStores gid
      wait .fence
    else do
      let b := basinOf g.core
      let lost := (s.basin b).lapsed.any fun p => p.1 == gid
      let exh := (s.basin b).exhLost.any fun p => p.1 == gid
      modS fun s => s.updBasin b fun x => { x with lapsed := x.lapsed.filter fun p => p.1 != gid
                                                   exhLost := x.exhLost.filter fun p => p.1 != gid }
      if lost then err .down
      if exh then err .exh

/-- WaitReleaseCounter (R131): scopes 0 .wg, 1 .die, 2 .dev, 3 .sys. -/
def waitRelease (gid scope : Nat) : M Unit := do
  let s ← getS
  if 2 ≤ scope then releaseDev gid else if s.releaseCount gid scope != 0 then wait .fence else pure ()

end Sys2Proof.Machine
end

