-- ==== Sys2Proof/Machine/Translate.lean ====
section
/-! DEFINITION. Handle addresses to physical addresses: buffer table entries (R8 to R14, R465), page walks (R19 to R26),
Master Access Tables (R40 to R46), and the whole check of R17. -/
namespace Sys2Proof.Machine

/-- Who makes an access, for the requests it leaves outstanding and the release counters: a group and lane, or a token of an
engine, with the region and the core, for a plain store the lanes that its late trap goes to (R46, R298), for a request of a peer module
its id, and whether completions stay until the whole unit of work has had its own. -/
structure Via where
  gid    : Nat
  lane   : Nat
  core   : Nat
  region : Nat
  late   : List Nat := []
  peer   : Option Nat := none
  keep   : Bool := false
  deriving DecidableEq, Repr

/-- The holder whose leases an access need not wait for: its own (R92 to R94). -/
def Via.except (v : Via) : Option (Nat × Nat) := v.peer.map fun p => (4, p)

/-- Whether a root port carries requests (R411, R466): enabled, trained and not in containment. -/
def State.portUp (s : State) (p : Nat) : Bool :=
  let w := s.reg (p / 4) (.rpctl (p % 4))
  bit w 31 && bit w 30 && !bit w 29

/-- Leave a late trap pending at lanes of a group (R46, R120, R124, R404), in the order of the accesses. -/
def State.lateTrap (s : State) (gid : Nat) (lanes : List Nat) (c : Cause) (tval : DWord) (order : Nat) : State :=
  s.updGroup gid fun g => { g with threads := g.threads.map fun (p : Nat × Thread) =>
    (p.1, if lanes.contains p.1 && !p.2.exited then
        { p.2 with late := (p.2.late.filter fun y => y.order ≤ order) ++ { order := order, cause := c, tval := tval } ::
            p.2.late.filter fun y => order < y.order }
      else p.2) }

/-- The peer module behind an aperture, and the master of requests to it (R40, R418). -/
def State.peerOf (s : State) : Target → Option Nat
  | .ntb n => some (bits (s.reg 0 (.ntbap n)) 36 18)
  | _ => none
def State.peerMaster (s : State) : Nat := 4 * 2 ^ 44 + s.moduleId.toNat

/-- Send a request through a root port. -/
def sendRequest (v : Via) (target : Target) (dev : Bool) (port pa size op value cmp : Nat) : M Unit := do
  let s ← getS
  let peer := s.peerOf target
  M.whenB (coreRequests ≤ s.requestsOut v.core) (wait .memdep)
  -- bytes through an NTB aperture are link bytes of the region (R210)
  M.whenB (peer.isSome && !s.shareLeft (basinOf v.core) v.region 1) (wait .memdep)
  modS fun s => if peer.isSome then s.charge (basinOf v.core) v.region 1 size else s
  modS fun s => { s with nextReq := s.nextReq + 1, barReqs := s.barReqs ++ [
    { id := s.nextReq, port := port, dev := dev, peer := peer, master := if peer.isSome then s.peerMaster else 0, used := false,
      group := v.gid, lane := v.lane, pa := pa, size := size, op := op, value := value, cmp := cmp, since := s.time, core := v.core,
      lanes := v.late, result := none }] }

/-- A non-posted request through a root port to a target (configuration space, a BAR window or a peer module): sent once, then
waited for, its completion consumed (R413, R466).  Completion status 0 is a success, 1 Unsupported Request or Completer Abort, which
a peer's denial comes as and is LINKDOWN there (R46), 2 a timeout, 3 an address nothing forwards, which the fabric logs with no
master of its own (log entry 69). -/
def nonPosted (v : Via) (target : Target) (port pa size op value cmp : Nat) : M Nat := do
  let linked : Bool := match target with
    | .reg _ _ => false
    | _ => true
  let s ← getS
  let peer := (s.peerOf target).isSome
  let mine (q : BarReq) : Bool := q.group == v.gid && q.lane == v.lane && q.pa == pa && q.size == size && q.op == op
  match s.barReqs.find? mine with
  | some q =>
    match q.result with
    | some (st, d) => do
      modS fun s => { s with barReqs :=
        if v.keep then s.barReqs.map fun (r : BarReq) => if r.id == q.id then { r with used := true } else r
        else s.barReqs.filter fun r => r.id != q.id }
      if st == 0 then pure (d % 2 ^ (8 * size))
      else if st == 2 || (st == 1 && peer) then err .down
      else if st == 3 then do
        modS fun s => s.fabricLog (basinOf v.core) pa 0
        err .deny
      else err .deny
    | none => wait .memdep
  | none =>
    if linked && !s.portUp port then err .down
    else do
      sendRequest v target false port pa size op value cmp
      wait .memdep

/-- Whether an address of a port's BAR window has a target (R27, R466). -/
def State.forwards (s : State) (port pa : Nat) : Bool := Config.forwards port (pa / 4096) s.cfgWrites

/-- A posted write through a root port, in pieces of up to 8 bytes (R140, R466); one that nothing forwards has no target (R27). -/
def posted (v : Via) (port pa : Nat) (bs : List Byte) : M Unit := do
  let s ← getS
  if !s.portUp port then err .down
  else if !s.forwards port pa then do
    modS fun s => s.fabricLog (basinOf v.core) pa 0
    err .deny
  else modS fun s => { s with sent := s.sent ++ (List.range (ceilDiv bs.length 8)).map fun i =>
    let b := (bs.drop (8 * i)).take 8
    { port := port, peer := none, master := 0, pa := pa + 8 * i, size := b.length, value := bytesToNat b } }

/-- The port and peer address of an NTB aperture (R418); an aperture not in use has no target, and the fabric logs the request with
master 0 (log entry 69). -/
def ntbOf (v : Via) (n pa : Nat) : M (Nat × Nat) := do
  let s ← getS
  let w := s.reg 0 (.ntbap n)
  if bit w 63 then pure (bits w 54 4, bits w 0 22 * 2 ^ 30 + pa % 2 ^ 44)
  else do
    modS fun s => s.fabricLog (basinOf v.core) pa 0
    err .deny

/-- Access kinds of R14. -/
inductive Kind where
  | load | store | atomic | fetch | matrix | nmu | wbr | invd
  deriving DecidableEq, Repr

/-- Kinds that need PTE W (R14, R24). -/
def Kind.writes : Kind → Bool
  | .store | .atomic | .nmu | .invd => true
  | _ => false

/-- Page-fault record class (R35): 0 read, 1 write, 2 fetch. -/
def Kind.cls (k : Kind) : Nat := if k == .fetch then 2 else if k.writes then 1 else 0

/-- On whose behalf an access is made: region, 48-bit master id (R40), basin, the core whose translation caches it uses,
whether it is at supervisor level, and whether its misses wait in the basin's walk queue (R33); a look that must end at once, such as a
prefetch or a check whose access follows, walks by itself. -/
structure Who where
  region : Nat
  master : Nat
  basin  : Nat
  core   : Option Nat
  sup    : Bool
  queued : Bool := false
  deriving DecidableEq, Repr

/-- The master of a core acting for a region (R40). -/
def Who.thread (region core : Nat) (sup : Bool) : Who :=
  { region := region, master := 1 * 2 ^ 44 + region * 2 ^ 24 + core, basin := basinOf core, core := some core, sup := sup,
    queued := true }

/-- An engine unit of a basin acting for a region, its translations looked up through a core's caches (R40, R468). -/
def Who.engine (region basin unit ctx : Nat) (core : Option Nat) : Who :=
  { region := region, master := 2 * 2 ^ 44 + region * 2 ^ 24 + basin * 2 ^ 16 + unit * 2 ^ 8 + ctx, basin := basin,
    core := core, sup := region == 0, queued := true }

/-- The dispatcher of a basin (R468). -/
def Who.dispatcher (region basin : Nat) (sup : Bool) : Who := { Who.engine region basin 0x7C 0 none with sup := sup }

/-- A system core of the basin (R40). -/
def Who.system (basin : Nat) : Who := { region := 0, master := 5 * 2 ^ 44 + 4 * basin, basin := basin, core := none, sup := true }

/-- Fields of a buffer table entry (R10, R11). -/
def bteVbase (e : Nat) : Nat := bits e 0 57
def bteLength (e : Nat) : Nat := bits e 64 40 + bits e 139 8 * 2 ^ 40
def bteOwner (e : Nat) : Nat := bits e 104 20
def bteView (e : Nat) : Nat := bits e 147 3
def bteSealed (e : Nat) : Bool := bit e 150
def bteRcmode (e : Nat) : Nat := bits e 151 2
def bteDev (e : Nat) : Bool := bit e 158
def bteValid (e : Nat) : Bool := bit e 159

/-- R12: an entry is bad. -/
def badBte (e : Nat) : Bool :=
  bits e 168 88 != 0 || bits e 128 11 != 0 || bits e 124 4 != 0 || bits e 57 7 != 0
    || bits e 0 8 != 0 || bteRcmode e == 3 || bteVbase e + bteLength e > 2 ^ 57

/-- R14: the buffer's rights allow the kind. -/
def rightsAllow (e : Nat) : Kind → Bool
  | .load => bit e 153
  | .store => bit e 154
  | .atomic => bit e 156
  | .fetch => bit e 155
  | .matrix => bit e 157
  | .nmu => bit e 153 && bit e 154
  | .wbr => bit e 153 || bit e 154
  | .invd => bit e 154

/-- The MAT rights of a kind (R14), as a mask of entry bits 208 RD, 209 WR, 210 AT, 211 EX. -/
def matNeeds : Kind → Nat
  | .load | .matrix => 1
  | .store => 2
  | .atomic => 4
  | .fetch => 1 + 8
  | .nmu => 1 + 2
  | .wbr | .invd => 0

/-- Denial record class (R45). -/
def denyClass : Kind → Nat
  | .atomic => 3
  | .fetch => 2
  | .store | .nmu | .invd => 1
  | _ => 0

/-- The MAT of a target: basin and number t (R29). -/
def matOf (pa : Nat) : Option (Nat × Nat) :=
  match targetOf pa with
  | .hbm _ => some (stackOf pa / 2, stackOf pa % 2)
  | .bar p => some (p / 4, 2 + p % 4)
  | .cxl p => some (p / 4, 6 + p % 4)
  | .reg b off => some (b, if off < 0x100000000 then 10 else 11)
  | .sysmem => some (0, 12)
  | .intr _ => some (0, 13)
  | .ntb n => some (0, 16 + n)
  | .none => Option.none

/-- R42: an entry matches a master and a page. -/
def matMatches (e master pa : Nat) : Bool :=
  bit e 212 && bits e 0 48 ≤ master && master ≤ bits e 64 48 && bits e 128 40 ≤ pa / 4096 && pa / 4096 ≤ bits e 168 40

/-- R42: the lowest-numbered matching entry decides. -/
def Basin.matDecide (x : Basin) (t master pa need : Nat) : Bool :=
  match (List.range 256).find? fun i => matMatches (x.mat.get 0#256 (t * 256 + i)).toNat master pa with
  | some i =>
    let e := (x.mat.get 0#256 (t * 256 + i)).toNat
    !bit e 213 && (bits e 208 4) &&& need == need
  | none => false

/-- R42, R43: whether a target admits a request. -/
def State.matAdmits (s : State) (b t master pa need : Nat) : Bool :=
  if bit (s.reg b (.matctl t)) 0 then (s.basin b).matDecide t master pa need
  else master / 2 ^ 44 == 5

/-- R44, R45: a denial is counted and the first one recorded. -/
def State.logDenial (s : State) (b t master pa cls : Nat) : State :=
  let n := bits (s.reg b (.denycount t)) 0 32
  let s := s.setReg b (.denycount t) (min (2 ^ 32 - 1) (n + 1))
  let c := s.reg b (.matctl t)
  if bit c 1 then s
  else
    let rec_ := s.time * 2 ^ 192 + cls * 2 ^ 128 + pa * 2 ^ 64 + master
    (s.updBasin b fun x => { x with denial := x.denial.set t (BitVec.ofNat 256 rec_) }).setReg b (.matctl t) (setBits c 1 1 1)

/-- MatCheck (R17, R27, R42): a request without a target is logged by the fabric and denied. -/
def matCheck (w : Who) (pa : Nat) (kind : Kind) : M Unit := do
  let s ← getS
  match matOf pa with
  | none => do
    modS fun s => s.fabricLog w.basin pa w.master
    err .deny
  | some (b, t) =>
    if matNeeds kind == 0 || s.matAdmits b t w.master pa (matNeeds kind) then pure ()
    else do
      modS fun s => s.logDenial b t w.master pa (denyClass kind)
      err .deny

/-- The seal check at the target (R121): a sealed request outside its stack's pool, or an unsealed one to a pool frame, completes
ACCESSDENY.  While the pool is being initialised its accesses wait (R125). -/
def sealCheck (pa : Nat) (enc : Bool) : M Unit := do
  let s ← getS
  match targetOf pa with
  | .hbm _ => do
    if enc != (s.poolFrame pa).isSome then err .deny
    M.whenB (enc && (s.seal (stackOf pa)).initing) (wait .memdep)
  | _ => if enc then err .deny

/-- What the part itself reads of memory at an address for a walk or a buffer table (R26, R465): memory at its home, a peer module's
through its port; a frame in a BAR window, in register space or in the interrupt window has no memory to read (log entry 68). -/
def partLoad (w : Who) (pa n : Nat) (attr : AErr) : M (List Byte × Bool) :=
  match targetOf pa with
  | .hbm _ | .cxl _ => do
    lapseGate w.basin (lineOf (keyOf pa)) w.region
    agentReadN pa n
  | .sysmem => agentReadN pa n
  | .ntb a => do
    let v : Via := { gid := 0, lane := 65536, core := w.core.getD (22 * w.basin), region := w.region }
    let (port, far) ← ntbOf v a pa
    let d ← nonPosted v (.ntb a) port far n 0 0 0
    pure (natToBytes n d, false)
  | .bar _ | .reg _ _ | .intr _ => err attr
  | .none => err .deny

/-- A leaf as the translation caches hold it: the entry with the frame of the access's own 4 KiB page, and its address. -/
structure Leaf where
  pte  : Nat
  ptePa : Nat
  deriving DecidableEq, Repr

def ptePfn (p : Nat) : Nat := bits p 12 40

/-- The fields of a virtual address: index at a level (R19). -/
def vaIndex (va level : Nat) : Nat := bits va (12 + 9 * (level - 1)) 9

/-- A page-fault error of a walk. -/
def walkFault (sub root va bufidx h : Nat) (kind : Kind) : AErr := .fault sub root va bufidx kind.cls h

/-- Completions with LINKDOWN of a part of a page walk: a precise trap of the walking thread, whatever it walks for (R34, R120). -/
def walkDown {α : Type} (m : M α) : M α := fun s =>
  match m s with
  | .error .down t => .error (.trap .linkdown 0 0#64) t
  | r => r

/-- Read one page-table entry as the walker does (R24, R26, R34, R40), asking the target for the right of a load, RD, in a request of
class read (log entry 70).  Poison is WALKPOISON (log entry 71). -/
def readPte (w : Who) (pa : Nat) (f : Nat → AErr) : M Nat := do
  matCheck w pa .load
  sealCheck pa false
  let (bs, bad) ← walkDown (partLoad w pa 8 (f 7))
  if bad then err (f 9)
  pure (bytesToNat bs)

/-- Whether a leaf is malformed at its level (R20, R21): reserved bits, C, LEAF, and the frame's alignment. -/
def leafMalformed (p level : Nat) : Bool :=
  bits p 52 7 != 0 || bits p 3 5 != 0
    || (if level == 1 then !bit p 8 else bit p 11 || ptePfn p % 512 ^ (level - 1) != 0)

/-- Whether a non-leaf is malformed (R20, R21). -/
def tableMalformed (p : Nat) : Bool :=
  bits p 52 7 != 0 || bits p 3 5 != 0 || bits p 59 5 != 0 || bits p 9 3 != 0 || bits p 1 2 != 0

/-- A contiguous run of 16 level-1 entries obeys R20: all valid leaves with C, equal attributes (A and D apart), frames
consecutive from a 64 KiB boundary. -/
def runGood (ps : List Nat) : Bool :=
  let p0 := ps.headD 0
  let attr (p : Nat) : Nat := p - bits p 12 40 * 2 ^ 12 - bits p 9 2 * 2 ^ 9
  ptePfn p0 % 16 == 0 &&
    (ps.zipIdx).all fun q => bit q.1 0 && bit q.1 11 && attr q.1 == attr p0 && ptePfn q.1 == ptePfn p0 + q.2

/-- WalkPage's descent (R19, R20, R21): from the table at `pa`, `fuel` levels left. -/
def descend (w : Who) (va : Nat) (f : Nat → AErr) : Nat → Nat → M Leaf
  | 0, _ => err (f 2)
  | level + 1, table => do
    let pa := table + 8 * vaIndex va (level + 1)
    let p ← readPte w pa f
    if !bit p 0 then err (f 1)
    else if level == 0 || bit p 8 then
      if 3 ≤ level || leafMalformed p (level + 1) then err (f 2)
      else if level == 0 && bit p 11 then do
        let first := table + 8 * (vaIndex va 1 / 16 * 16)
        let ps ← M.mapEach (fun i => readPte w (first + 8 * i) f) (List.range 16)
        if runGood ps then pure { pte := p, ptePa := pa } else err (f 2)
      else
        let pages := 512 ^ level
        pure { pte := setBits p 12 40 (ptePfn p + bits va 12 45 % pages), ptePa := pa }
    else if tableMalformed p then err (f 2)
    else descend w va f level (ptePfn p * 4096)

/-- Set A, and D for a write kind, in the entry in memory by an atomic update (R24), which asks the target for RD and WR in a request of
class write (log entry 70). -/
def markAD (w : Who) (leaf : Leaf) (write : Bool) : M Leaf := do
  let want := 2 ^ 9 + (if write then 2 ^ 10 else 0)
  if leaf.pte &&& want == want then pure leaf
  else do
    matCheck w leaf.ptePa .nmu
    walkDown (match targetOf leaf.ptePa with
      | .ntb a => do
        let v : Via := { gid := 0, lane := 65536, core := w.core.getD (22 * w.basin), region := w.region }
        let (port, far) ← ntbOf v a leaf.ptePa
        let _ ← nonPosted v (.ntb a) port far 8 (1 + 8 * 4 + 3) want 0
        pure ()
      | _ => do
        lapseGate w.basin (lineOf (keyOf leaf.ptePa)) w.region
        let (bs, _) ← agentRead (keyOf leaf.ptePa) 8
        agentWrite (keyOf leaf.ptePa) (natToBytes 8 (bytesToNat bs ||| want)) false)
    pure { leaf with pte := leaf.pte ||| want }

/-- The checks on a leaf that come before the buffer's own (R22): W with X, PRIV, X, WRITEPROT. -/
def leafErr (p : Nat) (kind : Kind) (sup : Bool) (f : Nat → AErr) : Option AErr :=
  if bit p 1 && bit p 2 then some (.trap .xperm 0 0#64)
  else if bit p 62 && !sup then some (f 3)
  else if kind == .fetch && !bit p 2 then some (.trap .xperm 0 0#64)
  else if kind.writes && !bit p 1 then some (f 4)
  else none

/-- The checks that use the buffer's entry (R22): SEALMISMATCH, VIEW, ATTR, RETIRED. -/
def leafErrBuf (p e : Nat) (kind : Kind) (f : Nat → AErr) : Option AErr :=
  let pa := ptePfn p * 4096
  if bteSealed e != bit p 61 then some (f 5)
  else if pa < 0x80000000000 && pa / 2 ^ 40 != bteView e then some (f 6)
  else if !bteDev e && (match targetOf pa with
      | .bar _ | .reg _ _ | .intr _ => true
      | _ => false) then some (f 7)
  else if kind.writes && bit p 63 then some (f 8)
  else none

/-- The 32 lines of a frame in HBM4E (R99). -/
def frameLines (pfn : Nat) : List Nat := if isHbmKey (pfn * 4096) then (List.range 32).map (32 * pfn + ·) else []

/-- Set XF of a frame (R99). -/
def State.setXf (s : State) (pfn : Nat) : State :=
  s.setMem { s.mem with xf := (frameLines pfn).foldl insertNat s.mem.xf }

/-- Clear XF of a frame and the publication state of its lines (R99). -/
def State.clearXf (s : State) (pfn : Nat) : State :=
  let ls := frameLines pfn
  s.setMem { s.mem with xf := s.mem.xf.filter (fun l => !ls.contains l), dx := s.mem.dx.filter (fun l => !ls.contains l),
                        pub := s.mem.pub.filter fun p => !ls.contains p.1 }

/-- Cached leaves (R32): the core's TLB, then the basin's translation cache. -/
def State.tlbLook (s : State) (w : Who) (root vpn : Nat) : Option Tlb :=
  let hit (l : List Tlb) : Option Tlb := l.find? fun t => t.root == root && t.vpn == vpn
  match w.core with
  | some c => (hit (s.core c).tlb).orElse fun _ => hit (s.basin w.basin).tlb
  | none => hit (s.basin w.basin).tlb

/-- Fill both (R32). -/
def State.tlbFill (s : State) (w : Who) (t : Tlb) : State :=
  let put (l : List Tlb) : List Tlb := t :: l.filter fun u => !(u.root == t.root && u.vpn == t.vpn)
  let s := s.updBasin w.basin fun x => { x with tlb := put x.tlb }
  match w.core with
  | some c => s.updCore c fun x => { x with tlb := put x.tlb }
  | none => s

/-- The leaf of a virtual address: cached, or walked for (R24, R32, R33, R34).  A cached leaf without D is walked again for a
write kind whose page is writable. -/
def leafOf (w : Who) (root va : Nat) (kind : Kind) (f : Nat → AErr) (chk : Nat → Option AErr) : M Nat := do
  let s ← getS
  let vpn := va / 4096
  let cached := (s.tlbLook w root vpn).map (·.pte.toNat)
  match cached with
  | some p =>
    match chk p with
    | some e => err e
    | none =>
      if kind.writes && !bit p 10 then walk vpn
      else pure p
  | none => walk vpn
where
  /-- A miss takes its place in the walk queue and waits (R33); what its walk did not find it then finds missing itself. -/
  walk (vpn : Nat) : M Nat := do
    if w.queued then do
      let s ← getS
      let mine (q : Walk) : Bool := q.root == root && q.vpn == vpn
      match (s.basin w.basin).walks.find? mine with
      | some q =>
        if q.failed then do
          modS fun s => s.updBasin w.basin fun x => { x with walks := x.walks.filter fun q => !mine q }
          direct vpn
        else wait .memdep
      | none => do
        modS fun s => s.updBasin w.basin fun x =>
          if x.walks.length < 1024 then
            { x with walks := x.walks ++ [{ root := root, vpn := vpn, core := w.core, region := w.region, master := w.master,
                                            write := kind.writes, started := false, failed := false }] }
          else x
        wait .memdep
    else direct vpn
  direct (vpn : Nat) : M Nat := do
    let leaf ← descend w va f 5 root
    match chk leaf.pte with
    | some e => err e
    | none => do
      let leaf ← markAD w leaf kind.writes
      modS fun s => if bit leaf.pte 2 then s.setXf (ptePfn leaf.pte) else s
      modS fun s => s.tlbFill w { root := root, vpn := vpn, pte := BitVec.ofNat 64 leaf.pte }
      pure leaf.pte

/-- The key of an entry in a BTE cache: table (root and virtual base) and index (R32, R465). -/
def bteKey (root base i : Nat) : Nat := (root * 2 ^ 57 + base) * 65536 + i

/-- Bte(rg, i) (R17, R465): from the core's BTE cache, or read from the table in memory. -/
def bteOf (w : Who) (i h : Nat) : M Nat := do
  let s ← getS
  let root := s.ptRoot w.region
  let base := s.btBase w.region
  let key := bteKey root base i
  let cached := match w.core with
    | some c => (s.core c).bte.look key
    | none => none
  match cached with
  | some e => pure e.toNat
  | none => do
    let va := base + 32 * i
    let f (sub : Nat) : AErr := .fault sub root va i 0 h
    let p ← leafOf { w with sup := true } root va .load f fun p => leafErr p .load true f
    let pa := ptePfn p * 4096 + va % 4096
    matCheck w pa .load
    sealCheck pa (bit p 61)
    let (bs, bad) ← partLoad w pa 32 (f 7)
    if bad || bit p 63 then trapM .nullbuf 5
    let e := BitVec.ofNat 256 (bytesToNat bs)
    modS fun s => match w.core with
      | some c => s.updCore c fun x => { x with bte := x.bte.set key e }
      | none => s
    pure e.toNat

/-- What a translation gives: the physical address, the handle address, the buffer's DEV, whether its key is not the one the sealed frame
was written under, and the leaf's RC rule, G, ENC and POR. -/
structure Xlat where
  pa    : Nat
  h     : Nat
  dev   : Bool
  check : Bool
  g     : Bool
  enc   : Bool
  badKey : Bool
  por   : Bool
  deriving DecidableEq, Repr

/-- Whether a sealed frame was initialised under another key slot than a buffer's (R11, R121, R122): its lines do not decrypt. -/
def State.keyDiffers (s : State) (pa slot : Nat) : Bool :=
  match (s.poolFrame pa).bind (s.seal (stackOf pa)).frames.look with
  | some f => f.slot != slot
  | none => false

/-- Translate (R17) up to the checks at the target: every global access is checked in this order. -/
def locate (w : Who) (h size : Nat) (kind : Kind) : M Xlat := do
  let i := h / 2 ^ 48 % 2 ^ 16
  let off := h % 2 ^ 48
  let s ← getS
  if i == 0 then trapM .nullbuf 1
  if i > s.btCount w.region then trapM .nullbuf 2
  let e ← bteOf w i h
  if !bteValid e then trapM .nullbuf 3
  if badBte e then trapM .nullbuf 4
  let s ← getS
  if !s.selfOrDesc w.region (bteOwner e) then trapM .bufowner
  if !rightsAllow e kind then trapM .bufrights
  if off + size > bteLength e then trapM .bufbound
  let va := bteVbase e + off
  let root := s.ptRoot w.region
  let f (sub : Nat) : AErr := .fault sub root va i kind.cls h
  let chk (p : Nat) : Option AErr :=
    match leafErr p kind w.sup f with
    | some x => some x
    | none => leafErrBuf p e kind f
  let p ← leafOf w root va kind f chk
  let pa := ptePfn p * 4096 + va % 4096
  -- an atomic through a DEV buffer is for HBM4E only (R15); it meets BUFRIGHTS before the target's denial (R299)
  if kind == .atomic && bteDev e && !isHbmKey pa then trapM .bufrights
  let s ← getS
  pure { pa := pa, h := h, dev := bteDev e, check := bteRcmode e == 1 || (bteRcmode e == 0 && bit p 59), g := bit p 60,
         enc := bit p 61, badKey := bit p 61 && s.keyDiffers pa (bits e 160 8), por := bit p 63 }

/-- Translate (R17): the target's access table and its seal check come last. -/
def translate (w : Who) (h size : Nat) (kind : Kind) : M Xlat := do
  let x ← locate w h size kind
  matCheck w x.pa kind
  sealCheck x.pa x.enc
  pure x

/-- Pages a range of a request meets: offset from the start, and length, split at 4 KiB (R18).  `a` is an address congruent to the virtual
address modulo 4 KiB. -/
def pagePieces (a : Nat) : Nat → Nat → Nat → List (Nat × Nat)
  | 0, _, _ => []
  | fuel + 1, done, n =>
    if n == 0 then [] else
    let m := min (4096 - (a + done) % 4096) n
    (done, m) :: pagePieces a fuel (done + m) (n - m)

/-- The pages a range of handle addresses meets.  VBASE is 256-byte aligned, so only a range that leaves its 256 bytes needs the virtual
address, which the translation of its first byte gives. -/
def handlePieces (w : Who) (h n : Nat) (kind : Kind) : M (List (Nat × Nat)) :=
  if h % 256 + n ≤ 256 then pure [(0, n)]
  else do
    let x ← translate w h 1 kind
    pure (pagePieces x.pa (n / 4096 + 2) 0 n)

end Sys2Proof.Machine
end

