-- ==== Sys2Proof/Machine/Race.lean ====
section
/-! DEFINITION. Synchronisation-free regions, what releases and acquires pass on (R128, R132, R133), and the race check
(R134 to R136).  A thread is numbered by its group and lane; an entry of the history happens before an access when the
accessing thread knows that the entry's region has ended. -/
namespace Sys2Proof.Machine

/-- The number of a thread: never used twice. -/
def tidOf (gid lane : Nat) : Nat := gid * 32 + lane

def State.group? (s : State) (gid : Nat) : Option Group := s.groups.look gid
def Group.thread? (g : Group) (lane : Nat) : Option Thread := g.threads.look lane
def State.thread? (s : State) (gid lane : Nat) : Option Thread := (s.group? gid).bind (·.thread? lane)
def State.updThread (s : State) (gid lane : Nat) (f : Thread → Thread) : State :=
  s.updGroup gid fun g => { g with threads := g.threads.upd lane f }

/-- Join of two clocks: for each thread, the larger count of ended regions. -/
def joinClock (a b : NMap Nat) : NMap Nat := b.foldl (fun m p => m.set p.1 (max (m.get 0 p.1) p.2)) a

/-- Everything a thread knows: its clock, and that its own regions up to the present one end here. -/
def Thread.knowledge (t : Thread) (tid : Nat) : NMap Nat := joinClock t.clock [(tid, t.sfr + 1)]

/-- End the present region of a thread (R128). -/
def State.endSfr (s : State) (gid lane : Nat) : State := s.updThread gid lane fun t => { t with sfr := t.sfr + 1 }

/-- Whether an agent on (core, wg) lies in the instance of a scope taken from (core', wg') (R129). -/
def inInstance (scope core wg core' wg' : Nat) : Bool :=
  match scope with
  | 0 => wg == wg'
  | 1 => basinOf core == basinOf core'
  | _ => true

/-- A release by a thread at a location: an AR operation keeps the earlier releases of the chain, a STREL (`chain` unset) takes their
place (R132). -/
def State.releaseAt (s : State) (gid lane : Nat) (loc : Loc) (scope : Nat) (chain : Bool) : State :=
  match s.group? gid with
  | none => s
  | some g =>
    match g.thread? lane with
    | none => s
    | some t =>
      let r : Release := { core := g.core, wg := g.wg, scope := scope, clock := t.knowledge (tidOf gid lane), strel := !chain }
      let old := if chain then s.mem.rel else s.mem.rel.filter fun p => p.1 != loc
      s.setMem { s.mem with rel := (loc, r) :: old }

/-- The aligned 4-byte granules of an access (R134). -/
def granules (loc : Loc) (n : Nat) : List Loc :=
  (rangeFrom (loc.addr / 4) ((loc.addr + n - 1) / 4 - loc.addr / 4 + 1)).map fun a => { loc with addr := 4 * a }

/-- A release at every granule of n bytes: a part of the value is acquired from it as the whole is. -/
def State.releaseRange (s : State) (gid lane : Nat) (loc : Loc) (n scope : Nat) (chain : Bool) : State :=
  (granules loc n).foldl (fun s l => s.releaseAt gid lane l scope chain) s

/-- An acquire by a thread of every release at the locations `at_`, under the scope test of R133. -/
def State.acquireAt (s : State) (gid lane : Nat) (at_ : Loc → Bool) (scope : Nat) : State :=
  match s.group? gid with
  | none => s
  | some g =>
    let known := (s.mem.rel.filter fun p => at_ p.1 && inInstance p.2.scope g.core g.wg p.2.core p.2.wg
        && inInstance scope p.2.core p.2.wg g.core g.wg).foldl (fun c p => joinClock c p.2.clock) []
    if known.isEmpty then s else s.updThread gid lane fun t => { t with clock := joinClock t.clock known }

/-- What a load of n bytes would acquire through a dependency (R139): the clocks of the STRELs of which it returns a part, at a scope that
includes both threads. -/
def State.knownAt (s : State) (g : Group) (loc : Loc) (n : Nat) : NMap Nat :=
  let gs := granules loc n
  (s.mem.rel.filter fun p => p.2.strel && gs.contains p.1 && inInstance p.2.scope g.core g.wg p.2.core p.2.wg).foldl
    (fun c p => joinClock c p.2.clock) []

/-- A plain write or a RED ends the release chain of the locations it writes (R132). -/
def State.breakChain (s : State) (sp : Bool) (wg addr n : Nat) : State :=
  s.setMem { s.mem with rel := s.mem.rel.filter fun p =>
    !(p.1.sp == sp && p.1.wg == wg && addr ≤ p.1.addr && p.1.addr < addr + n) }

/-- Two kinds of access never conflict: atomics, REDs of one pair, a RED and an atomic (R134). -/
def kindsAgree (a b : Nat) : Bool := (a == 1 && b == 1) || (2 ≤ a && 2 ≤ b && a == b) || (a == 1 && 2 ≤ b) || (2 ≤ a && b == 1)

/-- Whether a history entry conflicts with an access by thread `tid` that knows `clock` (R134). -/
def Hist.conflicts (e : Hist) (tid : Nat) (clock : NMap Nat) (write : Bool) (kind : Nat) : Bool :=
  e.tid != tid && (e.write || write) && !kindsAgree e.kind kind && !(e.sfr < clock.get 0 e.tid)

/-- The GTB that names a thread's execution of the instruction it is at: when it was first issued to it. -/
def Thread.execution (t : Thread) (now : Nat) : Nat := t.began.getD now

/-- The check of a race-checked access against the history as it stood when the instruction issued (R134, R136).  A thread that
has waited at the instruction does not meet the lanes that went ahead of it in the same execution. -/
def raceTest (hist : List (Loc × Hist)) (gid lane : Nat) (dep : NMap Nat) (loc : Loc) (n kind : Nat) (write : Bool)
    (pc : DWord) : M Unit := do
  let s ← getS
  match s.thread? gid lane with
  | none => pure ()
  | some t =>
    let clock := joinClock t.clock dep
    let gs := granules loc n
    let ahead (e : Hist) : Bool := e.begun == t.execution s.time && e.pc == pc && e.tid / 32 == gid
    match hist.find? fun p => gs.contains p.1 && p.2.conflicts (tidOf gid lane) clock write kind && !ahead p.2 with
    | some p => err (.mmx p.2)
    | none => pure ()

/-- Record a race-checked access that has been performed (R134). -/
def State.raceNote (s : State) (gid lane : Nat) (loc : Loc) (n kind : Nat) (write : Bool) (pc : DWord)
    (name : Nat × Nat × Nat) : State :=
  match s.thread? gid lane with
  | none => s
  | some t =>
    let gs := granules loc n
    let e : Hist := { tid := tidOf gid lane, sfr := t.sfr, write := write, kind := kind, pc := pc, name := name,
                      begun := t.execution s.time }
    let same (p : Loc × Hist) : Bool := gs.contains p.1 && p.2.tid == e.tid && p.2.write == write && p.2.kind == kind
    s.setMem { s.mem with hist := gs.map (·, e) ++ s.mem.hist.filter fun p => !same p }

/-- Locations that stand for a command n on a timeline of a workgroup or group, for the barrier at a location in a
generation, for the filling of a scratchpad line, for a grid's or task's start, and for cols of a region ending a period. -/
def tlLoc (wg tl n : Nat) : Loc := { sp := true, wg := wg, addr := 2 ^ 64 * (1 + tl) + n }
def barLoc (b : Loc) (gen : Nat) : Loc := { b with addr := 2 ^ 70 * (1 + gen) + b.addr }
def fillLoc (wg line : Nat) : Loc := { sp := true, wg := wg, addr := 2 ^ 110 + line }
def startLoc (n : Nat) : Loc := { sp := false, wg := 0, addr := 2 ^ 111 + n }
def colLoc (region n : Nat) : Loc := { sp := false, wg := region, addr := 2 ^ 112 + n }

end Sys2Proof.Machine
end

