-- ==== Sys2Proof/Machine/Threads.lean ====
section
/-! DEFINITION. Threads and groups: levels, eligibility and the frontier (R168 to R170), timelines (R148, R368, R371), grace
periods (R154, R155), blocking waits (R183) and the masks (R327). -/
namespace Sys2Proof.Machine

/-- The group's region. -/
def State.regionOf (s : State) (g : Group) : Nat := ((s.wgs.look g.wg).map (·.region)).getD 0

/-- The level of a group (R398): 0 program, 1 supervisor, 2 firmware. -/
def State.levelOf (s : State) (g : Group) : Nat := (if s.regionOf g == 0 then 1 else 0) + (if g.trap.isSome then 1 else 0)

/-- On whose behalf a thread of the group accesses memory (R40). -/
def State.whoOf (s : State) (g : Group) : Who := Who.thread (s.regionOf g) g.core (1 ≤ s.levelOf g)

/-- The logical name kept with race history: launch id, wix, gix × 32 + tix (R403). -/
def State.nameOf (s : State) (g : Group) (lane : Nat) : Nat × Nat × Nat :=
  match s.wgs.look g.wg with
  | some w => (w.launch, w.wix, g.gix * 32 + lane)
  | none => (0, 0, g.gix * 32 + lane)

/-- Issue a command on a timeline: its number (R368, R369). -/
def Timeline.issue (t : Timeline) : Nat × Timeline :=
  (t.issued + 1, { t with issued := t.issued + 1, pend := t.pend ++ [t.issued + 1] })

/-- Complete a command with a record; a status other than OK sets the error flag (R148, R369, R371). -/
def Timeline.complete (t : Timeline) (n status a b gtb : Nat) : Timeline :=
  if t.pend.contains n then
    { t with pend := t.pend.erase n, err := t.err || status != 0,
             recs := ({ n := n, status := status, detA := a, detB := b, gtb := gtb } :: t.recs).take 64 }
  else t

/-- The counter: every command numbered n or below is complete (R148). -/
def Timeline.counter (t : Timeline) : Nat := t.pend.foldl (fun m n => min m (n - 1)) t.issued

/-- The timeline a handle of a group names (R318, R368); none for tl7. -/
def State.timeline (s : State) (g : Group) (tl : Nat) : Option Timeline :=
  if tl == 2 then some g.tl2
  else if tl == 8 then some (s.core g.core).pool
  else if tl == 7 then none
  else some (((s.wgs.look g.wg).map (·.tls.get .fresh tl)).getD .fresh)

def State.updTl (s : State) (wg tl : Nat) (f : Timeline → Timeline) : State :=
  s.updWg wg fun w => { w with tls := w.tls.set tl (f (w.tls.get .fresh tl)) }

/-- Number a command on a workgroup timeline. -/
def State.issueTl (s : State) (wg tl : Nat) : Nat × State :=
  match s.wgs.look wg with
  | some w =>
    let (n, t) := (w.tls.get .fresh tl).issue
    (n, s.setWg wg { w with tls := w.tls.set tl t })
  | none => (0, s)

def State.completeTl (s : State) (wg tl n status a b : Nat) : State :=
  s.updTl wg tl fun t => t.complete n status a b s.time

/-- Whether a WAITM on m may end (R327): every live thread with its bit set stands at a WAITM on m. -/
def Group.maskSettled (g : Group) (m : Nat) : Bool :=
  g.threads.all fun p => p.2.exited || !bit (g.masks.get 0#32 m).toNat p.1 ||
    (match p.2.wait with
     | some w => w.what == .mask m
     | none => false)

/-- Whether a blocking wait's condition is met: latched for locations and barriers, evaluated now for the others. -/
def State.waitMet (s : State) (g : Group) (w : Wait) : Bool :=
  w.outcome.isSome || match w.what with
  | .addr .. | .barrier .. => false
  | .timeline tl n => match s.timeline g tl with
    | some t => n ≤ t.counter
    | none => true
  | .grace r target => target ≤ ((s.region? r).map (·.gseq.toNat)).getD 0
  | .mask m => g.maskSettled m
  | .time t => t ≤ s.time

/-- A thread is eligible (R168, R403): not exited, parked, or at a wait that is not met, and in trap mode only if trapped. -/
def State.eligible (s : State) (g : Group) (lane : Nat) (t : Thread) : Bool :=
  !t.exited && t.park.isNone
    && (match t.wait with
        | some w => s.waitMet g w
        | none => true)
    && (match g.trap with
        | some tr => bit tr.tmask.toNat lane
        | none => true)

/-- Whether a group is halted by a region's halt (R437). -/
def State.haltedRegion (s : State) (r : Nat) : Bool :=
  (s.chain 17 r).any fun x => ((s.region? x).map (·.halt.isSome)).getD false

/-- The time a region's waits run on: it stands still from the start of a halt (R437). -/
def State.clockOf (s : State) (r : Nat) : Nat :=
  (s.chain 17 r).foldl (fun n x => match (s.region? x).bind (·.halt) with
    | some (_, t) => min n t
    | none => n) s.time

/-- Whether a group is resident: its slot on a pipe is its own (R166). -/
def State.resident (s : State) (g : Group) : Bool :=
  !g.exited && ((s.wgs.look g.wg).map fun w => w.saved == .resident).getD false

/-- Whether the timeout of a lane's blocking wait has passed, the instant itself excluded (R185, R315), by the group's clock and its
region's timeout; a wait that another lane's trap holds back has not. -/
def Group.overdue (g : Group) (now timeout lane : Nat) : Bool :=
  match (g.thread? lane).bind (·.wait) with
  | some w => !((g.trap.map fun tr => !bit tr.tmask.toNat lane).getD false) && w.since + timeout < now + w.elapsed
  | none => false
def State.overdue (s : State) (gid lane : Nat) : Bool :=
  match s.group? gid with
  | some g => s.resident g && g.overdue (s.clockOf (s.regionOf g)) (s.waitTimeout (s.regionOf g)) lane
  | none => false

/-- The lanes of a group in ascending order with their threads. -/
def Group.lanesOf (g : Group) : List (Nat × Thread) :=
  (List.range 32).filterMap fun i => (g.thread? i).map (i, ·)

/-- The order of R169: highest priority, then lowest PC; then the lowest lane, where only hints differ. -/
def entryBefore (a b : Thread) : Bool := a.prio > b.prio || (a.prio == b.prio && a.pc < b.pc)

def sameEntry (a b : Thread) : Bool := a.pc == b.pc && a.prio == b.prio && a.hint == b.hint

/-- The eligible threads of a group. -/
def State.eligibles (s : State) (g : Group) : List (Nat × Thread) := g.lanesOf.filter fun p => s.eligible g p.1 p.2

/-- The first thread of the entry R169 and R170 choose: highest first, except that after 1,024 issues in a row the entry that
has waited longest is next: the one whose threads' oldest last issue is oldest, the lowest lane's on a tie (log entry 86). -/
def pickThread (row : Nat) : List (Nat × Thread) → Option (Nat × Thread)
  | [] => none
  | p :: ps => some (if 1024 ≤ row then ps.foldl (fun b q => if q.2.waited < b.2.waited then q else b) p
      else ps.foldl (fun b q => if entryBefore q.2 b.2 then q else b) p)

/-- The lanes of the entry that issues next (R169); inside a window only the entry that opened it issues (R220). -/
def State.entry (s : State) (g : Group) : List Nat :=
  let es := s.eligibles g
  match g.window with
  | some w =>
    let es := es.filter fun p => bit w.lanes.toNat p.1
    match es with
    | [] => []
    | p :: _ => (es.filter fun q => sameEntry q.2 p.2).map (·.1)
  | none =>
    match pickThread g.row es with
    | some p => (es.filter fun q => sameEntry q.2 p.2).map (·.1)
    | none => []

/-- Whether a thread stands between a hint and an instruction that it has not begun: one that waits at the instruction has (R65). -/
def Thread.midHint (t : Thread) : Bool :=
  !t.exited && t.hint.isSome && t.began.isNone && t.wait.isNone && t.park.isNone && t.feb.isNone

/-- Whether a group is at a switch point (R65, R224, R408): outside a hold window, no thread between a hint and its instruction. -/
def Group.atSwitch (g : Group) : Bool := g.window.isNone && g.threads.all fun p => !p.2.midHint

/-- Whether every live thread of the group stands at a blocking wait that is not met (R183); a thread that a trap holds is in
no blocking wait (R403). -/
def State.blockedGroup (s : State) (g : Group) : Bool :=
  !g.exited && g.threads.all fun p => p.2.exited ||
    ((match g.trap with
      | some tr => bit tr.tmask.toNat p.1
      | none => true) &&
     match p.2.wait with
     | some w => !s.waitMet g w
     | none => false)

/-- Write a word the part keeps in a registered region's RCB (R159). -/
def State.rcbWrite (s : State) (r i v : Nat) : State :=
  match s.region? r with
  | some x => (agentWrite (keyOf (x.word 32 + 8 * i)) (natToBytes 8 v) false).exec s
  | none => s

/-- The grace words written through. -/
def State.graceWrite (s : State) (r : Nat) : State :=
  match s.region? r with
  | some x => (s.rcbWrite r 16 x.gseq.toNat).rcbWrite r 17 x.greq.toNat
  | none => s

/-- The groups that hold a new period of region r open (R155, R184): live groups of the region and its descendants that are
neither swapped out at depth zero nor in a blocking wait entered at depth zero. -/
def State.graceHolders (s : State) (r : Nat) : List Nat :=
  (s.groups.filter fun p =>
    !p.2.exited && (s.chain 17 (s.regionOf p.2)).contains r
      && !(p.2.depth == 0 && (((s.wgs.look p.2.wg).map fun w => w.saved != .resident).getD true || s.blockedGroup p.2))).map (·.1)

/-- DEFER records of a region that its sequence has reached become runnable (R156, R179). -/
def State.wakeDeferred (s : State) (r : Nat) : State :=
  match s.region? r with
  | none => s
  | some x =>
    let due (d : Record) : Bool := d.deferred && !d.runnable && d.region == r
      && (x.gseq.toNat + 2 ^ 32 - d.join.toNat) % 2 ^ 32 < 2 ^ 31
    { s with steppe := (s.steppe.filter fun d => !due d) ++ (s.steppe.filter due).map fun d =>
        { d with runnable := true, since := s.time } }

/-- Start a period of region r (R155): the groups that count as having passed release to it what their cols ended, the others hold it
open. -/
def State.startPeriod (s : State) (r : Nat) : State :=
  let held := s.graceHolders r
  let n := ((s.region? r).map fun x => x.gseq.toNat + 1).getD 1
  let passed := s.groups.filter fun p => !p.2.exited && (s.chain 17 (s.regionOf p.2)).contains r && !held.contains p.1
  let s := passed.foldl (fun s p => p.2.lanesOf.foldl (fun s q => s.releaseAt p.1 q.1 (colLoc r n) 3 true) s) s
  s.updRegion r fun x => { x with period := some held }

/-- End periods of region r that no group holds open, starting the next where one is requested (R155). -/
def State.graceSettle (s : State) (r : Nat) : Nat → State
  | 0 => s
  | fuel + 1 =>
    match (s.region? r).bind (·.period) with
    | some [] =>
      let s := s.updRegion r fun x => { x with gseq := x.gseq + 1#64, period := none }
      let again : Bool := ((s.region? r).map fun x => decide (x.gseq < x.greq)).getD false
      let s := if again then s.startPeriod r else s
      (s.wakeDeferred r).graceSettle r fuel
    | _ => s

/-- A grace request of a region: its target (R155). -/
def State.graceRequest (s : State) (r : Nat) : Nat × State :=
  match s.region? r with
  | none => (0, s)
  | some x =>
    match x.period with
    | some _ =>
      let t := x.gseq + 2#64
      (t.toNat, (s.updRegion r fun x => { x with greq := if x.greq < t then t else x.greq }).graceWrite r)
    | none =>
      let t := x.gseq + 1#64
      let s := (s.updRegion r fun x => { x with greq := if x.greq < t then t else x.greq }).startPeriod r
      (t.toNat, (s.graceSettle r 8).graceWrite r)

/-- A group stops holding periods open: it has passed a col, or is no longer live (R154, R155, R165). -/
def State.gracePassed (s : State) (gid : Nat) : State :=
  s.regions.keys.foldl (fun s r =>
    match (s.region? r).bind (·.period) with
    | some gs =>
      if gs.contains gid then
        ((s.updRegion r fun x => { x with period := some (gs.erase gid) }).graceSettle r 8).graceWrite r
      else s
    | none => s) s

/-- A col of a group (R154): its loads have returned, its .dev counter is zero, and its accesses are released to the waiters
of the periods that it holds open (R155). -/
def State.col (s : State) (gid : Nat) : State :=
  match s.group? gid with
  | none => s
  | some g =>
    let s := (releaseDev gid).exec s
    let s := (s.chain 17 (s.regionOf g)).foldl (fun s r =>
      match s.region? r with
      | some x => if (x.period.map fun gs => gs.contains gid).getD false then
          g.lanesOf.foldl (fun s p => s.releaseAt gid p.1 (colLoc r (x.gseq.toNat + 1)) 3 true) s else s
      | none => s) s
    (s.gracePassed gid).updGroup gid fun g => { g with colDue := false }

/-- A col that takes effect at once, or is owed until the stores it follows are acknowledged (R154). -/
def State.colSoon (s : State) (gid : Nat) : State :=
  let t := s.drainStores gid
  if t.releaseCount gid 2 == 0 then s.col gid else t.updGroup gid fun g => { g with colDue := true }

/-- A group that has just entered a blocking wait at depth zero makes a col (R183). -/
def State.colIfBlocked (s : State) (gid : Nat) : State :=
  match s.group? gid with
  | some g => if g.depth == 0 && s.blockedGroup g then s.colSoon gid else s
  | none => s

/-- The cols owed by groups whose counters are zero now take effect (R154). -/
def State.owedCols (s : State) : State :=
  (s.groups.filter fun p => p.2.colDue && !p.2.exited).foldl (fun s p => s.colSoon p.1) s

/-- End every WAITM whose condition now holds (R327): its threads go to the word after their own WAITM at once. -/
def State.settleMasks (s : State) (gid : Nat) : State :=
  match s.group? gid with
  | none => s
  | some g =>
    let done := (List.range 12).filter g.maskSettled
    s.updGroup gid fun g => { g with threads := g.threads.map fun p =>
      match p.2.wait with
      | some w => match w.what with
        | .mask m => if done.contains m && !p.2.exited then
            (p.1, { p.2 with wait := none, pc := p.2.pc + 4#64, hint := none, nowatch := false }) else p
        | _ => p
      | none => p }

end Sys2Proof.Machine
end

