-- ==== Sys2Proof/Machine/Scratch.lean ====
section
/-! DEFINITION. Scratchpad: addresses (R30, R71), segments and who owns them (R68, R88 to R91), full/empty bits (R69), poison
(R76), and the operations of the owning SHU (R90). -/
namespace Sys2Proof.Machine

/-- The target workgroup of a scratchpad address issued by workgroup `w` (R30): itself, or a member of its cluster. -/
def State.scrTarget (s : State) (w x : Nat) : Option Nat :=
  let sel := x / 2 ^ 24 % 256
  if sel == 0xFF then some w
  else if 0x17 < sel then none
  else match s.wgs.look w with
    | none => none
    | some me =>
      if me.task then (if sel == 0 then some w else none)
      else (s.wgs.find? fun p => p.2.launch == me.launch && !p.2.task && p.2.cluster == me.cluster && p.2.rank == sel).map (·.1)

/-- The directory entry of a segment: the home holds it when the workgroup becomes resident (R88). -/
def Workgroup.dirOf (w : Workgroup) (seg : Nat) : SegDir := w.segDir.get { owner := w.rank, holders := 0#24, moving := none } seg

/-- A resolved scratchpad access: target workgroup and its 24-bit address. -/
structure ScrAt where
  wg   : Nat
  addr : Nat
  deriving DecidableEq, Repr

/-- Bounds of an access (R30, R71, R91), and the wait on a saved member or on a segment in T (R89, R91). -/
def scrResolve (w x n : Nat) : M ScrAt := do
  let s ← getS
  match s.scrTarget w x with
  | none => trapM .scrbound
  | some t =>
    match s.wgs.look t with
    | none => trapM .scrbound
    | some v =>
      let a := x % 2 ^ 24
      if v.exited || (a + n - 1) / 4096 ≥ v.segs || a / 4096 ≥ v.segs then trapM .scrbound
      else if v.saved != .resident || (v.dirOf (a / 4096)).moving.isSome then wait .memdep
      else pure { wg := t, addr := a }

def State.scr (s : State) (w : Nat) : List Host.Cell := ((s.wgs.look w).map (·.scr)).getD []
def State.lineEmpty (s : State) (a : ScrAt) : Bool :=
  ((s.wgs.look a.wg).map fun w => !w.exited && w.empty.contains (a.addr / 128)).getD false

/-- Whether any word of a range holds the poison syndrome (R76). -/
def State.scrPoisoned (s : State) (a : ScrAt) (n : Nat) : Bool :=
  ((s.wgs.look a.wg).map fun w => w.poisonW.any fun k => a.addr / 4 ≤ k && k ≤ (a.addr + n - 1) / 4).getD false

def scrBytes (s : State) (a : ScrAt) (n : Nat) : List Byte := cellsRead (s.scr a.wg) a.addr n

/-- Act on the words of a range where they lie, segment by segment: the core, the first word of its banks, their number, and the
first word in the workgroup's scratchpad (R68). -/
def State.overWords (s : State) (a : ScrAt) (lo hi : Nat) (f : Nat → Nat → Nat → Nat → State → State) : State :=
  match s.wgs.look a.wg with
  | none => s
  | some v => if lo < hi then
      (rangeFrom (lo / 1024) ((hi - 1) / 1024 + 1 - lo / 1024)).foldl (fun s seg =>
        match v.segMap.look seg with
        | none => s
        | some p =>
          let l := max lo (1024 * seg)
          f v.core (1024 * p + l % 1024) (min hi (1024 * (seg + 1)) - l) l s) s
    else s

/-- Words of a scratchpad are read (R76): one found uncorrectable takes the poison syndrome. -/
def State.scrRead (s : State) (a : ScrAt) (n : Nat) : State :=
  s.overWords a (a.addr / 4) ((a.addr + n + 3) / 4) fun c at_ k w s =>
    s.softRead c at_ k fun bad s => s.updWg a.wg fun v =>
      { v with poisonW := bad.foldl (fun l key => insertNat l (w + (key - at_))) v.poisonW }

/-- Words are written: those covered whole anew, a word covered in part once it has been read (R76). -/
def State.scrFresh (s : State) (a : ScrAt) (n : Nat) : State :=
  let s := if a.addr % 4 == 0 && n % 4 == 0 then s else s.scrRead a n
  s.overWords a ((a.addr + 3) / 4) ((a.addr + n) / 4) fun c at_ k _ s => s.softClear c at_ k

/-- Whether rank r holds a copy of a segment homed elsewhere, owns it, or is about to (R88, R91). -/
def SegDir.heldBy (d : SegDir) (r : Nat) : Bool := bit d.holders.toNat r || d.owner == r || d.moving == some r

/-- Copies of segments homed elsewhere that a workgroup has caused its core to hold (R88). -/
def State.copiesOf (s : State) (w : Nat) (me : Workgroup) : Nat :=
  (s.wgs.filter fun p => p.1 != w && p.2.launch == me.launch && !p.2.task && p.2.cluster == me.cluster).foldl
    (fun n p => n + (p.2.segDir.filter fun d => d.2.heldBy me.rank).length) 0

/-- Copies a core holds (R88): those of its resident workgroups. -/
def State.copiesHeld (s : State) (c : Nat) : Nat :=
  (s.wgs.filter fun p => p.2.core == c && p.2.saved == .resident && !p.2.exited && !p.2.task).foldl
    (fun n p => n + s.copiesOf p.1 p.2) 0

/-- Copies charged to a region on a core: those of its workgroups (R88). -/
def State.copyCharge (s : State) (c region : Nat) : Nat :=
  (s.wgs.filter fun p => p.2.core == c && p.2.saved == .resident && !p.2.exited && !p.2.task && p.2.region == region).foldl
    (fun n p => n + s.copiesOf p.1 p.2) 0

/-- Segments of SCR banks of a core not held by a workgroup or reserved for a move (R67, R68). -/
def State.unheldSegs (s : State) (c : Nat) : List Nat :=
  let k := s.core c
  let used := (s.wgs.filter fun p => p.2.core == c && p.2.saved == .resident && !p.2.exited).foldl
    (fun l p => p.2.segMap.vals ++ l) (k.segMoves.map (·.dest))
  (List.range 96).foldr (fun b l =>
    if (k.banks.get .reset b).role == .scr then (rangeFrom (32 * b) 32).filter (fun x => !used.contains x) ++ l else l) []

/-- Those of a list of unheld segments that are free: the copies a core holds take the last (R88, log entry 74). -/
def State.lessCopies (s : State) (c : Nat) (l : List Nat) : List Nat := l.take (l.length - s.copiesHeld c)

/-- Free segments of a core (R60, R67, R88). -/
def State.freeSegs (s : State) (c : Nat) : List Nat := s.lessCopies c (s.unheldSegs c)

/-- Whether the core of workgroup w has a free copy slot (R88). -/
def State.copySlot (s : State) (w : Nat) : Bool :=
  match s.wgs.look w with
  | none => false
  | some me => s.copiesHeld me.core < 64 && !(s.freeSegs me.core).isEmpty

/-- Change a segment's directory entry. -/
def State.setSeg (s : State) (w seg : Nat) (d : SegDir) : State := s.updWg w fun v => { v with segDir := v.segDir.set seg d }

/-- The rank of the accessing workgroup in the target's cluster. -/
def State.rankOf (s : State) (w : Nat) : Nat := ((s.wgs.look w).map (·.rank)).getD 0

/-- Whether the core of workgroup w owns the segment (R88). -/
def State.ownsSeg (s : State) (w : Nat) (a : ScrAt) : Bool :=
  match s.wgs.look a.wg with
  | some v => (v.dirOf (a.addr / 4096)).owner == s.rankOf w
  | none => false

/-- Whether the core of workgroup w holds the segment of an address in O or S (R88). -/
def State.holdsSeg (s : State) (w : Nat) (a : ScrAt) : Bool :=
  match s.wgs.look a.wg with
  | some v => let d := v.dirOf (a.addr / 4096); d.owner == s.rankOf w || bit d.holders.toNat (s.rankOf w)
  | none => false

/-- Whether a segment is in T, or its workgroup saved (R89, R91). -/
def State.segBusy (s : State) (a : ScrAt) : Bool :=
  match s.wgs.look a.wg with
  | some v => !v.exited && (v.saved != .resident || (v.dirOf (a.addr / 4096)).moving.isSome)
  | none => false

/-- A load's effect on the directory (R89): a core with no copy takes an S copy when a slot is free. -/
def State.takeCopy (s : State) (w : Nat) (a : ScrAt) : State :=
  match s.wgs.look a.wg with
  | none => s
  | some v =>
    let d := v.dirOf (a.addr / 4096)
    let r := s.rankOf w
    if d.owner == r || bit d.holders.toNat r || !s.copySlot w then s
    else s.setSeg a.wg (a.addr / 4096) { d with holders := d.holders ||| BitVec.ofNat 24 (2 ^ r) }

/-- Whether the access that an aborted hold window has begun has still to make its line full and locally held (R223). -/
def State.febHeld (s : State) (w : Nat) (f : FebWait) : Bool :=
  let a : ScrAt := { wg := f.wg, addr := f.addr }
  s.lineEmpty a || (f.hold && (s.segBusy a || (!s.holdsSeg w a && s.copySlot w)))

/-- Those accesses take the copies they wait for. -/
def State.windowTakes (s : State) : State :=
  s.groups.foldl (fun s p => p.2.threads.foldl (fun s q => match q.2.feb with
    | some f =>
      let a : ScrAt := { wg := f.wg, addr := f.addr }
      if f.hold && !s.lineEmpty a && !s.segBusy a then s.takeCopy p.2.wg a else s
    | none => s) s) s

/-- Before a write the SHU invalidates every S copy (R90). -/
def State.invalidateCopies (s : State) (a : ScrAt) : State :=
  match s.wgs.look a.wg with
  | none => s
  | some v =>
    let d := v.dirOf (a.addr / 4096)
    if d.holders == 0#24 then s else s.setSeg a.wg (a.addr / 4096) { d with holders := 0#24 }

/-- Test the waits registered on a scratchpad unit that has changed (R317). -/
def State.testScr (s : State) (a : ScrAt) (n : Nat) : State :=
  s.testWaits (fun l => l.sp && l.wg == a.wg && l.addr < a.addr + n && a.addr < l.addr + 8
      && !s.lineEmpty { wg := l.wg, addr := l.addr }) fun l size =>
    let u : ScrAt := { wg := l.wg, addr := l.addr }
    if s.scrPoisoned u size then none else some (bytesToNat (scrBytes s u size))

/-- Words of a range that it covers whole. -/
def wholeWords (addr n : Nat) : List Nat :=
  (rangeFrom (addr / 4) ((addr + n - 1) / 4 - addr / 4 + 1)).filter fun k => addr ≤ 4 * k && 4 * k + 4 ≤ addr + n

/-- Write bytes at the owning SHU (R90): a word written whole loses its poison syndrome (R76). -/
def State.scrWrite (s : State) (a : ScrAt) (bs : List Byte) : State :=
  let s := (s.invalidateCopies a).scrFresh a bs.length
  let s := s.updWg a.wg fun w =>
    { w with scr := cellsWrite w.scr a.addr bs, poisonW := w.poisonW.filter fun k => !(wholeWords a.addr bs.length).contains k }
  s.testScr a bs.length

/-- Write words with the poison syndrome (R76, R370). -/
def State.scrPoison (s : State) (a : ScrAt) (n : Nat) : State :=
  let s := (s.invalidateCopies a).scrFresh a n
  let s := s.updWg a.wg fun w => { w with poisonW := (wholeWords a.addr n).foldl insertNat w.poisonW }
  s.testScr a n

/-- Set or clear a line's full/empty bit (R69, R305). -/
def State.setFull (s : State) (a : ScrAt) (full : Bool) : State :=
  let s := s.invalidateCopies a
  let s := s.updWg a.wg fun w =>
    { w with empty := if full then w.empty.erase (a.addr / 128) else insertNat w.empty (a.addr / 128) }
  if full then s.testScr { a with addr := a.addr / 128 * 128 } 128 else s

/-- A load (R69, R89): waits on an empty line; takes a copy where it may. -/
def scrLoad (w : Nat) (a : ScrAt) (n : Nat) : M (List Byte × Bool) := do
  let s ← getS
  if s.lineEmpty a then err (.feb a.wg a.addr)
  modS fun s => (s.takeCopy w a).scrRead a n
  let s ← getS
  pure (scrBytes s a n, s.scrPoisoned a n)

/-- A plain store (R69, R89): at the owner it writes whatever the bit; as an active message it waits until the line is full. -/
def scrStore (w : Nat) (a : ScrAt) (bs : List Byte) : M Unit := do
  let s ← getS
  if s.lineEmpty a && !s.ownsSeg w a then err (.feb a.wg a.addr)
  modS fun s => s.scrWrite a bs

/-- An atomic at the owning SHU (R69, R90, R467): none when the unit held poison, else its old value. -/
def scrAtomic (a : ScrAt) (op typ v cmp : Nat) : M (Option Nat) := do
  let s ← getS
  if s.lineEmpty a then err (.feb a.wg a.addr)
  let n := typSize typ
  modS fun s => s.scrRead a n
  let s ← getS
  if s.scrPoisoned a n then pure none
  else do
    let o := bytesToNat (scrBytes s a n)
    modS fun s => s.scrWrite a (natToBytes n (atomicNew op typ o v cmp))
    pure (some o)

/-- Complete a transfer of ownership (R91): copies invalidated, the directory naming the new owner, nobody in T. -/
def State.segTransfer (s : State) (w seg : Nat) : State :=
  match s.wgs.look w with
  | none => s
  | some v =>
    match (v.dirOf seg).moving with
    | some r => s.setSeg w seg { owner := r, holders := 0#24, moving := none }
    | none => s

/-- Ownership of everything a workgroup's core owns elsewhere or is about to, and of its own segments, returns to the homes (R91). -/
def State.ownershipHome (s : State) (w : Nat) : State :=
  match s.wgs.look w with
  | none => s
  | some me =>
    { s with wgs := s.wgs.map fun p =>
        if p.1 == w then (p.1, { p.2 with segDir := [] })
        else if p.2.launch == me.launch && !p.2.task && p.2.cluster == me.cluster then
          (p.1, { p.2 with segDir := p.2.segDir.map fun d =>
            let h := d.2.holders &&& ~~~(BitVec.ofNat 24 (2 ^ me.rank))
            if d.2.owner == me.rank || d.2.moving == some me.rank then (d.1, { owner := p.2.rank, holders := 0#24, moving := none })
            else (d.1, { d.2 with holders := h }) })
        else p }

/-- A barrier object (R312) as a number, and its fields. -/
structure Barrier where
  expect : Nat
  count  : Nat
  gen    : Nat
  state  : Nat
  scope  : Nat
  lost   : Nat
  rsv    : Nat
  deriving DecidableEq, Repr

def Barrier.ofNat (x : Nat) : Barrier :=
  { expect := bits x 0 32, count := bits x 32 32, gen := bits x 64 32, state := bits x 96 2, scope := bits x 98 2,
    rsv := bits x 100 12, lost := bits x 112 16 }

def Barrier.toNat (b : Barrier) : Nat :=
  b.expect + b.count * 2 ^ 32 + b.gen * 2 ^ 64 + b.state * 2 ^ 96 + b.scope * 2 ^ 98 + b.rsv * 2 ^ 100 + b.lost * 2 ^ 112

/-- R312: a bad object. -/
def Barrier.bad (b : Barrier) : Bool := b.rsv != 0 || ((b.state == 1 || b.state == 2) && b.expect == 0)

/-- R313: generation g has completed. -/
def completedGen (gen g : Nat) : Bool :=
  let d := (gen + 2 ^ 32 - g % 2 ^ 32) % 2 ^ 32
  1 ≤ d && d ≤ 2 ^ 31

/-- The object at a location, waiting on an empty line in scratchpad (R312). -/
def barRead (l : Loc) : M Barrier := do
  let s ← getS
  if l.sp then do
    let a : ScrAt := { wg := l.wg, addr := l.addr }
    if s.lineEmpty a then err (.feb a.wg a.addr)
    pure (Barrier.ofNat (bytesToNat (scrBytes s a 16)))
  else do
    let (bs, _) ← agentRead l.addr 16
    let b := Barrier.ofNat (bytesToNat bs)
    -- its home has still to make it OPEN
    pure (if b.state == 2 && s.mem.reopen.contains l then { b with state := 1 } else b)

def barWrite (l : Loc) (b : Barrier) : M Unit := do
  if l.sp then modS fun s => s.scrWrite { wg := l.wg, addr := l.addr } (natToBytes 16 b.toNat)
  else do
    agentWrite l.addr (natToBytes 16 b.toNat) false
    modS fun s => s.setMem { s.mem with reopen := s.mem.reopen.erase l }

/-- Whether an object holds poison: the operation is then not performed, as an atomic's (R467). -/
def barPoisoned (l : Loc) : M Bool := do
  if l.sp then do
    modS fun s => s.scrRead { wg := l.wg, addr := l.addr } 16
    let s ← getS
    pure (s.scrPoisoned { wg := l.wg, addr := l.addr } 16)
  else do
    let (_, bad) ← agentRead l.addr 16
    pure bad

/-- Whether a location has registered waiters. -/
def State.hasWaiters (s : State) (l : Loc) : Bool := s.mem.barw.any fun w => w.loc == l

/-- Release registered waiters of a location that `done` selects, with a result and the scope of their acquire (R313, R314).  One whose
timeout passed before is unregistered and left to it (R315). -/
def State.releaseWaiters (s : State) (l : Loc) (done : Nat → Bool) (result : Nat) : State :=
  let out := s.mem.barw.filter fun w => w.loc == l && done w.gen.toNat && !s.overdue w.group w.lane
  let s := s.setMem { s.mem with barw := s.mem.barw.filter fun w => !(w.loc == l && (done w.gen.toNat || s.overdue w.group w.lane)) }
  out.foldl (fun s w => s.updThread w.group w.lane fun t =>
    match t.wait with
    | some q => { t with wait := some { q with outcome := some (result, BitVec.ofNat 64 w.scope) } }
    | none => t) s

/-- A barrier without waiters is made OPEN by its home (R314): in scratchpad whatever the line's full/empty bit. -/
def barReopen (l : Loc) : M Unit := do
  if l.sp then modS fun s =>
    let a : ScrAt := { wg := l.wg, addr := l.addr }
    let b := Barrier.ofNat (bytesToNat (scrBytes s a 16))
    if b.state == 2 then s.scrWrite a (natToBytes 16 { b with state := 1 }.toNat) else s
  else do
    let (bs, bad) ← agentRead l.addr 16
    let b := Barrier.ofNat (bytesToNat bs)
    M.whenB (!bad && b.state == 2) (agentWrite l.addr (natToBytes 16 { b with state := 1 }.toNat) false)

/-- Make a barrier OPEN, or leave that to be done where its home cannot yet. -/
def State.reopenBar (s : State) (l : Loc) : State :=
  if s.hasWaiters l then s
  else match barReopen l s with
    | .error (.stall _) t => t.setMem { t.mem with reopen := t.mem.reopen ++ [l] }
    | .ok _ t | .error _ t => t

/-- What is left to be done of that. -/
def State.reopenBars (s : State) : State :=
  if s.mem.reopen.isEmpty then s else s.mem.reopen.foldl State.reopenBar (s.setMem { s.mem with reopen := [] })

/-- Unregister a waiter that timed out or was discarded: with the last one STATE returns to OPEN (R314). -/
def State.unregister (s : State) (group lane : Nat) : State :=
  match s.mem.barw.find? fun w => w.group == group && w.lane == lane with
  | none => s
  | some w =>
    (s.setMem { s.mem with barw := s.mem.barw.filter fun x => !(x.group == group && x.lane == lane) }).reopenBar w.loc

/-- Whether the generation a waiter waits for completes while GEN rises by k from gen (R313). -/
def completedWithin (gen k g : Nat) : Bool :=
  let d := (gen + 2 ^ 32 - g % 2 ^ 32) % 2 ^ 32
  k != 0 && (d == 0 || d ≤ 2 ^ 31 || 2 ^ 32 + 1 ≤ d + k)

/-- BARARR, and the arrivals of copies and the IAT (R313): the generation joined, or none for an object that is bad or holds poison. -/
def barArrive (l : Loc) (c : Nat) : M (Option Nat) := do
  let poisoned ← barPoisoned l
  let b ← barRead l
  if poisoned || b.bad then pure none
  else if b.state == 0 || b.state == 3 then do
    barWrite l { b with lost := min 0xFFFF (b.lost + c) }
    pure (some b.gen)
  else do
    -- each completed generation takes EXPECT ≥ 1 arrivals: quotient and remainder give the object the loop of R313 leaves
    let total := b.count + c
    let k := total / b.expect
    modS fun s => s.releaseWaiters l (completedWithin b.gen k) 0
    let s ← getS
    let st := if s.hasWaiters l then b.state else 1
    barWrite l { b with count := total % b.expect, gen := (b.gen + k) % 2 ^ 32, state := st }
    pure (some b.gen)

end Sys2Proof.Machine
end

