-- ==== Sys2Proof/Machine/Mmio.lean ====
section
/-! DEFINITION. The basin register space (R29): which register an offset names, and what a load of it returns. -/
namespace Sys2Proof.Machine

/-- What an aligned 8-byte slot of a basin's register space names (R29). -/
inductive Slot where
  | pinit (c : Nat)
  | xframe
  | plain (r : BReg)
  | lapse (k : Nat)
  | rcbupd
  | rgnkill
  | svcup
  | meas (n piece : Nat)
  | matEntry (t i piece : Nat)
  | matctl (t : Nat)
  | denycount (t : Nat)
  | denial (t piece : Nat)
  | none
  deriving DecidableEq, Repr

/-- Whether MAT t exists in basin b (R29). -/
def matPresent (b t : Nat) : Bool := t ≤ 11 || (b == 0 && (t == 12 || t == 13 || (16 ≤ t && t ≤ 143)))

/-- Registers of every basin below 0x200. -/
def slotLow (off : Nat) : Slot :=
  if off < 8 * 22 then .pinit (off / 8)
  else match off with
    | 0x100 => .plain .lguard
    | 0x108 => .plain .lapsectl
    | 0x110 => .xframe
    | 0x118 => .plain .ctxpool
    | 0x120 => .plain .evqbase
    | 0x128 => .plain .evqptr
    | 0x130 => .plain .pfqbase
    | 0x138 => .plain .pfqptr
    | 0x140 => .plain .pfqresp
    | 0x148 => .plain .secfetch
    | 0x150 => .plain .secuse
    | _ => .none

/-- Registers of local stacks and ports and host queues, 0x200 to 0x7FF. -/
def slotMid (off : Nat) : Slot :=
  if off < 0x400 then
    let s := (off - 0x200) / 0x100
    let o := off % 0x100
    if o == 0 then .plain (.hbmctl s)
    else if o == 8 then .plain (.sealpool s)
    else if o == 0x10 then .plain (.sealctl s)
    else if 0x40 ≤ o && o < 0x80 then .plain (.retmap s ((o - 0x40) / 8))
    else .none
  else if off < 0x500 then
    let i := (off - 0x400) / 0x40
    match off % 0x40 with
    | 0 => .plain (.rpctl i)
    | 8 => .plain (.cxlctl i)
    | 0x10 => .plain (.pasidtab i)
    | 0x18 => .plain (.pasidnone i)
    | _ => .none
  else if 0x600 ≤ off && off < 0x800 then
    let n := (off - 0x600) / 0x20
    match off % 0x20 with
    | 0 => .plain (.hqbase n)
    | 8 => .plain (.hqptr n)
    | 0x10 => .plain (.hqstat n)
    | _ => .none
  else .none

/-- Registers that exist only in basin 0, from 0x8000. -/
def slotZero (off : Nat) : Slot :=
  match off with
  | 0x8000 => .plain .rgndir
  | 0x8008 => .rcbupd
  | 0x8010 => .rgnkill
  | 0x8018 => .plain .iatbase
  | 0x8020 => .plain .steppecfg
  | 0x8028 => .plain .tvecp
  | 0x8030 => .plain .tvecs
  | 0x8038 => .plain .gtbsync
  | 0x8040 => .plain .commcmd
  | 0x8048 => .plain .pwrlimit
  | 0x8050 => .svcup
  | 0x8058 => .plain .bootstat
  | 0x8060 => .plain .sampctl
  | 0x8068 => .plain .dbgcmd
  | 0x8070 => .plain .dbgdata
  | 0x80A0 => .plain .dbgqbase
  | 0x80A8 => .plain .dbgqptr
  | 0x80B0 => .plain .profqbase
  | 0x80B8 => .plain .profqptr
  | 0x80C0 => .plain .sampqbase
  | 0x80C8 => .plain .sampqptr
  | _ =>
    if 0x8080 ≤ off && off < 0x80A0 then .plain (.dbgname ((off - 0x8080) / 8))
    else if 0x8100 ≤ off && off < 0x8300 then .meas ((off - 0x8100) / 0x40) (off % 0x40 / 8)
    else if 0x8400 ≤ off && off < 0x8500 then
      (if off % 16 == 0 then .plain (.dbgwpa ((off - 0x8400) / 16)) else .plain (.dbgwpb ((off - 0x8400) / 16)))
    else if 0x9000 ≤ off && off < 0x9400 then .plain (.ntbap ((off - 0x9000) / 8))
    else .none

/-- The slot at offset off, a multiple of 8, of basin b. -/
def slotOf (b off : Nat) : Slot :=
  if off < 0x200 then slotLow off
  else if off < 0x800 then slotMid off
  else if 0x1000 ≤ off && off < 0x1200 then .lapse ((off - 0x1000) / 8)
  else if 0x8000 ≤ off && off < 0x9400 then (if b == 0 then slotZero off else .none)
  else if 0x1000000 ≤ off && off < 0x1000000 + 0x4000 * 144 then
    let t := (off - 0x1000000) / 0x4000
    let o := off % 0x4000
    if !matPresent b t then .none
    else if o < 0x2000 then .matEntry t (o / 32) (o % 32 / 8)
    else if o == 0x2000 then .matctl t
    else if o == 0x2008 then .denycount t
    else if 0x2010 ≤ o && o < 0x2030 then .denial t ((o - 0x2010) / 8)
    else .none
  else .none

/-- A lapse entry as R96 lays it out. -/
def Lapse.toNat (e : Lapse) : Nat :=
  2 ^ 63 + e.region * 2 ^ 39 + e.hclass * 2 ^ 35 + e.holder * 2 ^ 17 + min e.lines (2 ^ 17 - 1)

/-- HBMCTL of a stack (R112). -/
def State.hbmctlWord (s : State) (b i : Nat) : Nat :=
  let t := s.stack (2 * b + i)
  let on (c : Bool) (k : Nat) : Nat := if c then 2 ^ k else 0
  on (t.retired.length > 8) 62 + on (t.remain != 0 || !t.queued.isEmpty) 61
    + bits (s.reg b (.hbmctl i)) 52 9 * 2 ^ 52 + t.retired.length % 1024 * 2 ^ 42 + min t.remain 0xFFFF

/-- RETMAPn: bit c is channel 64 n + c (R112). -/
def State.retmapWord (s : State) (b i n : Nat) : Nat :=
  (s.stack (2 * b + i)).retired.foldl (fun w c => if c / 64 == n && !bit w (c % 64) then w + 2 ^ (c % 64) else w) 0

/-- The 64 bits a slot reads as (R29 and the register tables). -/
def State.slotRead (s : State) (b : Nat) : Slot → Nat
  | .pinit c => if (s.core (22 * b + c)).ready then 2 ^ 30 else 0
  | .plain (.hbmctl i) => s.hbmctlWord b i
  | .plain (.retmap i n) => s.retmapWord b i n
  | .plain .lapsectl => bits (s.reg b .lapsectl) 63 1 * 2 ^ 63 + (s.basin b).lapses.length
  | .plain r => s.reg b r
  | .lapse k => (((s.basin b).lapses.look k).map Lapse.toNat).getD 0
  | .rcbupd => s.reg 0 .rcbupd
  | .meas n piece => bits (s.meas.get 0#512 n).toNat (64 * piece) 64
  | .matEntry t i piece => bits ((s.basin b).mat.get 0#256 (t * 256 + i)).toNat (64 * piece) 64
  | .matctl t => s.reg b (.matctl t)
  | .denycount t => s.reg b (.denycount t)
  | .denial t piece =>
    if bit (s.reg b (.matctl t)) 1 then bits ((s.basin b).denial.get 0#256 t).toNat (64 * piece) 64 else 0
  | .xframe | .rgnkill | .svcup | .none => 0

/-- Whether a load or store of `size` bytes at `off` is one R29 admits: 4 or 8 bytes, or 64 bytes of a MEASn. -/
def regSizeOk (b off size : Nat) : Bool :=
  off % size == 0 &&
    (match slotOf b (off / 8 * 8) with
     | .meas _ _ => size == 64
     | _ => size == 4 || size == 8)

/-- A load of the register space. -/
def State.regRead (s : State) (b off size : Nat) : Nat :=
  if size == 64 then (match slotOf b off with
    | .meas n _ => (s.meas.get 0#512 n).toNat
    | _ => 0)
  else bits (s.slotRead b (slotOf b (off / 8 * 8))) (8 * (off % 8)) (8 * size)

end Sys2Proof.Machine
end

