-- ==== Sys2Proof/Machine/Memory.lean ====
section
/-! DEFINITION. Accesses at a translated address: HBM4E and CXL memory through CCH lines or at the home (R15, R84), register
space (R29), system-core memory, BAR windows and NTB apertures (R413, R418, R466), the interrupt window (R386); instruction
fetch (R102). -/
namespace Sys2Proof.Machine

/-- Whether an address is HBM4E or CXL memory. -/
def isMain (pa : Nat) : Bool :=
  match targetOf pa with
  | .hbm _ | .cxl _ => true
  | _ => false

/-- A request to memory waits while nothing of its region's share is left on the basin that serves it (R210): HBM bytes at the home,
link bytes where the home is another basin. -/
def memoryGate (b region pa : Nat) : M Unit := do
  let s ← getS
  let home := homeOf (keyOf pa)
  M.whenB ((isHbmKey pa && !s.shareLeft home region 0) || (home != b && !s.shareLeft b region 1)) (wait .memdep)

/-- Charge the bytes of a request to memory (R210). -/
def memoryCharge (b region pa n : Nat) : M Unit := modS fun s =>
  let home := homeOf (keyOf pa)
  let s := if isHbmKey pa then s.charge home region 0 n else s
  if home != b then s.charge b region 1 n else s

/-- A read through a DEV buffer (R15): of HBM4E at the home slice, of CXL memory by its device, no line filled in any cache. -/
def devRead (pa n : Nat) (except : Option (Nat × Nat)) : M (List Byte × Bool) :=
  match targetOf pa with
  | .cxl _ => do
    let ps := linePieces pa (n / 128 + 2) n
    cxlDirect (ps.map (·.1))
    let s ← getS
    pure (s.rawRead pa n, s.rangeBad pa n)
  | _ => agentReadN pa n except false

/-- A write likewise. -/
def devWrite (pa : Nat) (bs : List Byte) (poison : Bool) (except : Option (Nat × Nat)) : M Unit :=
  match targetOf pa with
  | .cxl p => do
    let s ← getS
    if s.contained p then err .down
    modS fun s => (paPieces pa bs.length).foldl (fun s q =>
      let part := (bs.drop q.1).take q.2.2.2
      let m := maskOf q.2.2.1 part.length
      s.homeMerge q.2.1 (placeBytes q.2.2.1 part) m (if poison then m else 0#128)) s
  | _ => agentWriteN pa bs poison except false

/-- Sizes and alignment of accesses to register space and the ECAM windows in it (R29). -/
def spaceOk (b off n : Nat) : Bool := if off < 0x100000000 then regSizeOk b off n else (n == 4 || n == 8) && off % n == 0

/-- Bytes read at an address, and whether they are poisoned.  A page with POR returns poison (R112), a sealed frame of another key the
poison of a line whose tag does not match, with its event (R122). -/
def loadAt (v : Via) (x : Xlat) (n : Nat) : M (List Byte × Bool) :=
  if x.por then pure (natToBytes n 0, true)
  else if x.badKey then do
    modS fun s => s.machineEvent (homeOf x.pa) 5 0 (x.pa / 128 * 128)
    pure (natToBytes n 0, true)
  else match targetOf x.pa with
  | .hbm _ | .cxl _ =>
    if x.dev then do
      lapseGate (basinOf v.core) (lineOf x.pa) v.region
      memoryGate (basinOf v.core) v.region x.pa
      memoryCharge (basinOf v.core) v.region x.pa n
      devRead x.pa n v.except
    else do
      let parts ← M.mapEach (fun (p : Nat × Nat × Nat × Nat) => cchLoad v.core p.2.1 p.2.2.1 p.2.2.2 v.region) (paPieces x.pa n)
      pure ((parts.map (·.1)).flatten, parts.any (·.2))
  | .reg b off => do
    let s ← getS
    if !spaceOk b off n then err .deny
    else if off < 0x100000000 then pure (natToBytes n (s.regRead b off n), false)
    else if off < 0x140000000 then do
      let d ← nonPosted v (.reg b off) (4 * b + (off - 0x100000000) / 0x10000000) x.pa n 0 0 0
      pure (natToBytes n d, false)
    else pure (natToBytes n 0, false)
  | .sysmem => do
    let s ← getS
    pure (s.rawRead x.pa n, s.rangeBad x.pa n)
  | .bar p => do
    let d ← nonPosted v (.bar p) p x.pa n 0 0 0
    pure (natToBytes n d, false)
  | .ntb a => do
    let (port, pa) ← ntbOf v a x.pa
    let d ← nonPosted v (.ntb a) port pa n 0 0 0
    pure (natToBytes n d, false)
  | .intr _ => do
    modS fun s => { s with agenda := s.agenda ++ [.msixArrival 16 0x10000 (x.pa % 2 ^ 32) 0] }
    let (k, t) := (← getS).takeFree
    modS fun _ => t
    pure (natToBytes n (Config.windowRead k), false)
  | .none => err .deny

/-- Write bytes at an address.  A register write is performed by the event the store makes (R29); a message to the interrupt
window likewise (R386). -/
def storeAt (v : Via) (x : Xlat) (bs : List Byte) : M Unit :=
  match targetOf x.pa with
  | .hbm _ | .cxl _ =>
    if x.dev then do
      lapseGate (basinOf v.core) (lineOf x.pa) v.region
      memoryGate (basinOf v.core) v.region x.pa
      memoryCharge (basinOf v.core) v.region x.pa bs.length
      devWrite x.pa bs false v.except
    else M.forEach (fun (p : Nat × Nat × Nat × Nat) =>
        cchStore v.core p.2.1 p.2.2.1 ((bs.drop p.1).take p.2.2.2) v.region v.gid) (paPieces x.pa bs.length)
  | .reg b off =>
    if !spaceOk b off bs.length then err .deny
    else if off < 0x100000000 then modS fun s => { s with agenda := s.agenda ++ [.registerWrite b off bs.length (bytesToNat bs)] }
    else if off < 0x140000000 then modS fun s => { s with cfgWrites := s.cfgWrites + 1, sent := s.sent ++
      [{ peer := none, master := 0, port := 4 * b + (off - 0x100000000) / 0x10000000, pa := x.pa, size := bs.length, value := bytesToNat bs }] }
    else pure ()
  | .sysmem => modS fun s =>
      ((s.coverRange x.pa bs.length).rawWrite x.pa bs).testLine (lineOf x.pa)
  | .bar p => posted v p x.pa bs
  | .ntb a => do
    let (port, pa) ← ntbOf v a x.pa
    -- the peer, its home, acknowledges it (R87), granting no lease: a plain store is pending at .dev until then, through a DEV buffer at
    -- .die too, anything else waits for it (R46, R142, R148)
    if !v.late.isEmpty then do
      let s ← getS
      countGate v.gid
      if !s.portUp port then err .down
      else sendRequest v (.ntb a) x.dev port pa bs.length storeOp (bytesToNat bs) x.h
    else do
      let _ ← nonPosted v (.ntb a) port pa bs.length awaitedOp (bytesToNat bs) 0
      pure ()
  | .intr off => modS fun s => { s with agenda := s.agenda ++ [.msixArrival 16 0x10000 off bs.length] }
  | .none => err .deny

/-- An atomic at its home, the RDC acting as home, or the target of a DEV buffer (R15, R84, R309): the old value, or none
where the unit holds poison (R467). -/
def atomicAt (v : Via) (x : Xlat) (op typ val cmp : Nat) : M (Option Nat) := do
  let z := typSize typ
  let key := keyOf x.pa
  match targetOf x.pa with
  | .hbm _ | .cxl _ =>
    if x.dev && !isHbmKey key then trapM .bufrights
    else if x.badKey then do
      modS fun s => s.machineEvent (homeOf x.pa) 5 0 (x.pa / 128 * 128)
      pure none
    else do
      let b := if x.dev then homeOf key else basinOf v.core
      if x.dev then do
        lapseGate (basinOf v.core) (lineOf key) v.region
        sealStep key
        dxGate (lineOf key)
        clearLeases (lineOf key) true v.except
        modS fun s => s.recallAll b (lineOf key) false
        exhaustGate key
      else atHome b (lineOf key) true v.region
      M.whenB x.dev (memoryGate (basinOf v.core) v.region x.pa)
      memoryCharge (basinOf v.core) v.region x.pa z
      let (o, bad) ← backBytes b (lineOf key) (key % 128) z
      if bad then pure none
      else do
        let old := bytesToNat o
        backWrite b (lineOf key) (key % 128) (natToBytes z (atomicNew op typ old val cmp)) false
        pure (some old)
  | .sysmem =>
    if x.dev then trapM .bufrights
    else do
      let s ← getS
      if s.sectorBad x.pa then pure none
      else do
        let old := bytesToNat (s.rawRead x.pa z)
        modS fun s => (s.rawWrite x.pa (natToBytes z (atomicNew op typ old val cmp))).testLine (lineOf x.pa)
        pure (some old)
  | .ntb a =>
    if x.dev then trapM .bufrights
    else do
      let (port, pa) ← ntbOf v a x.pa
      let d ← nonPosted v (.ntb a) port pa z (1 + 8 * op + typ) val cmp
      pure (some d)
  | _ => trapM .bufrights

/-- A RED (R145, R310): into a U line, or at the home where the buffer is DEV or the target keeps no U lines. -/
def redAt (v : Via) (x : Xlat) (op typ val : Nat) : M Unit :=
  match targetOf x.pa with
  | .hbm _ | .cxl _ =>
    if x.dev then do
      let _ ← atomicAt v x op typ val 0
      pure ()
    else cchRed v.core (lineOf (keyOf x.pa)) (keyOf x.pa % 128) op typ val v.region v.gid
  | _ => do
    let _ ← atomicAt v x op typ val 0
    pure ()

/-- Whether an access at an address is race-checked (R25, R135): a plain load from a G page never is. -/
def raceChecked (x : Xlat) (plainLoad : Bool) : Bool :=
  x.check && !x.dev && !(plainLoad && x.g) &&
    (match targetOf x.pa with
     | .hbm _ | .cxl _ => true
     | _ => false)

/-- The location of a global byte (R142). -/
def globalLoc (pa : Nat) : Loc := { sp := false, wg := 0, addr := keyOf pa }

/-- The lines an instruction cache holds (R3): 512 KiB of 128 bytes. -/
def icacheLines : Nat := 4096

/-- A line dirty for execute that is not published to the fetching core's basin traps XTORN (R102). -/
def tornGate (core l : Nat) : M Unit := do
  let s ← getS
  if s.mem.dx.contains l && !bit (s.mem.pub.get 0#4 l).toNat (basinOf core) then trapM .xtorn

/-- A line fetched from its home for execution (R102, R120); one with poison in its other half fills nothing.  A full cache gives up the
line it filled first (log entry 84). -/
def fetchLine (core region : Nat) (key : Nat) : M (BitVec 1024) := do
  let l := lineOf key
  lapseGate (basinOf core) l region
  tornGate core l
  memoryGate (basinOf core) region key
  let (bs, bad) ← agentRead (lineKey l) 128
  memoryCharge (basinOf core) region key 128
  let d := BitVec.ofNat 1024 (bytesToNat bs)
  if bad then do
    let (_, own) ← agentRead (key / 64 * 64) 64
    if own then err .poison else pure d
  else do
    modS fun s => s.updCore core fun k =>
      { k with icache := (if k.icache.length < icacheLines then k.icache else k.icache.tail).set l d }
    pure d

/-- Fetch the word at a PC (R17, R102), never from a misaligned one (R213; log entry 87): through the core's instruction cache for HBM4E and CXL frames. -/
def fetchWord (w : Who) (v : Via) (pc : Nat) : M Word := do
  M.whenB (pc % 4 != 0) (trapM .misalign)
  let x ← translate w pc 4 .fetch
  match targetOf x.pa with
  | .hbm _ | .cxl _ =>
    if x.por || x.badKey then err .poison
    else if x.dev then do
      tornGate v.core (lineOf x.pa)
      let (bs, bad) ← loadAt v x 4
      if bad then err .poison else pure (BitVec.ofNat 32 (bytesToNat bs))
    else do
      let key := keyOf x.pa
      let s ← getS
      let d ← match (s.core v.core).icache.look (lineOf key) with
        | some d => pure d
        | none => fetchLine v.core v.region key
      pure (BitVec.ofNat 32 (bits d.toNat (8 * (key % 128)) 32))
  | .reg _ _ => err .deny
  | _ => do
    let (bs, bad) ← loadAt v x 4
    if bad then err .poison else pure (BitVec.ofNat 32 (bytesToNat bs))

end Sys2Proof.Machine
end

