-- ==== Sys2Proof/Machine/Engine.lean ====
section
/-! DEFINITION. Memory accesses of engines and the dispatchers (R18, R80, R96, R370), what an access error makes of a command,
and collectives' arithmetic and abort (R393 to R395). -/
namespace Sys2Proof.Machine

/-- Read n bytes within a page: memory at the home (R79), by its device through a DEV buffer (R15), anything else at its target.  The
first request of a unit of work waits for its budget (R210). -/
def engineLoadAt (w : Who) (v : Via) (x : Xlat) (n : Nat) (first : Bool := true) : M (List Byte × Bool) := do
  if isMain x.pa && !x.por && !x.badKey then do
    lapseGates w.basin x.pa n w.region
    M.whenB first (memoryGate w.basin w.region x.pa)
    memoryCharge w.basin w.region x.pa n
    if x.dev then devRead x.pa n v.except else agentReadN x.pa n v.except
  else loadAt v x n

/-- Write bytes within a page; `poison` carries sector poison (R370).  A unit's writes follow its reads and charge what they carry; a
value they write is no release's (R132). -/
def engineStoreAt (w : Who) (v : Via) (x : Xlat) (bs : List Byte) (poison : Bool) : M Unit := do
  if isMain x.pa then do
    lapseGates w.basin x.pa bs.length w.region
    memoryCharge w.basin w.region x.pa bs.length
    if x.dev then devWrite x.pa bs poison v.except else agentWriteN x.pa bs poison v.except
    modS fun s => s.breakChain false 0 (keyOf x.pa) bs.length
  else storeAt v x bs

/-- The pieces of a range, split at page boundaries and checked one by one in ascending order (R18), before any is accessed: offset,
length and place. -/
def reachPieces (w : Who) (h n : Nat) (kind : Kind) : M (List (Nat × Nat × Xlat)) := do
  M.mapEach (fun (p : Nat × Nat) => do pure (p.1, p.2, ← translate w (h + p.1) p.2 kind)) (← handlePieces w h n kind)

/-- Read a range. -/
def engineRead (w : Who) (v : Via) (h n : Nat) (kind : Kind) : M (List Byte × Bool) := do
  let parts ← M.mapEach (fun (p : Nat × Nat × Xlat) => engineLoadAt w v p.2.2 p.2.1 (p.1 == 0)) (← reachPieces w h n kind)
  pure ((parts.map (·.1)).flatten, parts.any (·.2))

/-- Write a range. -/
def engineWrite (w : Who) (v : Via) (h : Nat) (bs : List Byte) (poison : Bool) : M Unit := do
  M.forEach (fun (p : Nat × Nat × Xlat) => engineStoreAt w v p.2.2 ((bs.drop p.1).take p.2.1) poison) (← reachPieces w h bs.length .store)

/-- Completion statuses (R370). -/
def stOK : Nat := 0
def stUE : Nat := 1
def stBADCMD : Nat := 2
def stENGFAULT : Nat := 3
def stACCESSDENY : Nat := 4
def stLINKDOWN : Nat := 5
def stABORTED : Nat := 6
def stNOSTOP : Nat := 7
def stBADBANK : Nat := 8
def stABANDONED : Nat := 9
def stPARTIAL : Nat := 10
def stLFAIL : Nat := 11
def stCTREXH : Nat := 12

/-- The status a command takes from a failed access; none while it waits or parks (R35, R370). -/
def AErr.status : AErr → Option Nat
  | .trap .linkdown .. => some stLINKDOWN
  | .trap .. => some stENGFAULT
  | .fault .. => none
  | .deny => some stACCESSDENY
  | .down => some stLINKDOWN
  | .exh => some stCTREXH
  | .poison => some stUE
  | .mmx _ | .lane _ => some stENGFAULT
  | .stall _ | .feb _ _ => none

/-- A detail of a command's record that the spec does not state for its outcome (log entry 11). -/
def State.detail (s : State) : Nat × State :=
  let (k, s) := s.takeFree
  (Config.detail k % 2 ^ 32, s)

/-- Complete a command with an outcome whose details the spec does not state. -/
def State.completeOpen (s : State) (wg tl n status : Nat) : State :=
  let (a, s) := s.detail
  let (b, s) := s.detail
  s.completeTl wg tl n status a b

/-- A requester number for engine requests that is no group's, with a lane of 32 and above. -/
def engineVia (core region unit : Nat) : Via := { gid := 0, lane := 32 + unit, core := core, region := region, keep := true }

/-- Words of a descriptor. -/
def Slice.word (l : Slice) (i : Nat) : Nat := (l.desc.getD i 0#32).toNat
def Slice.pair (l : Slice) (i : Nat) : Nat := l.word i + 2 ^ 32 * l.word (i + 1)

/-- Fields of a copy descriptor (R379). -/
def Slice.len (l : Slice) : Nat := l.word 4
def Slice.ssp (l : Slice) : Bool := bit (l.word 5) 0
def Slice.dsp (l : Slice) : Bool := bit (l.word 5) 1
def Slice.nkind (l : Slice) : Nat := bits (l.word 5) 3 2
def Slice.nsp (l : Slice) : Bool := bit (l.word 5) 5
def Slice.emptyReq (l : Slice) : Bool := bit (l.word 5) 6
def Slice.targets (l : Slice) : List Nat := (List.range 24).filter fun r => bit (l.word 5) (8 + r)

/-- Fields of a GATH or SCAT descriptor (R383). -/
def Slice.rowB (l : Slice) : Nat := bits (l.word 5) 16 16

/-- The NOTE of a command: its address by kind of descriptor (R379, R383). -/
def Slice.note (l : Slice) (rows : Bool) : Nat := if rows then l.word 7 else l.pair 6

/-- Steps of a multicast for each rank: its units (at least one), its lines' turning full, and its NOTE (R382). -/
def CopyCmd.perRank (q : CopyCmd) : Nat := match q.slices with
  | l :: _ => max 1 (l.len / 16) + 2
  | [] => 1

/-- The slice and the unit in it of step n of a collective copy, slices in ascending gix. -/
def sliceAt : List Slice → Nat → Option (Slice × Nat)
  | [], _ => none
  | l :: ls, n => if n < l.len / 16 then some (l, n) else sliceAt ls (n - l.len / 16)

/-- Details of a command that stopped (R371). -/
def CopyCmd.stopDetails (q : CopyCmd) : Nat × Nat := match q.kind with
  | 0 => match sliceAt q.slices q.done with
    | some (l, i) => (l.gix, 16 * i)
    | none => (0, 0)
  | 1 => (q.refused, min (16 * (q.done % q.perRank)) ((q.slices.head?.map (·.len)).getD 0))
  | _ => (0, q.done)

/-- Bytes of a collective's element type (R393). -/
def collSize (typ : Nat) : Nat := if typ == 2 || typ == 3 || typ == 5 then 8 else if typ == 6 || typ == 7 then 2 else 4

/-- One step of a reduction on codes of an integer or a 32- or 64-bit floating type (R394). -/
def collOp (op typ a b : Nat) : Nat :=
  if typ == 4 || typ == 5 then
    let f := if typ == 4 then fmtF32 else fmtF64
    match op with
    | 0 => addRne f a b
    | 1 => (fminmax f false true a b).1
    | _ => (fminmax f true true a b).1
  else atomicNew op typ a b 0

/-- The left fold of R394: .f16 and .bf16 fold in f32 and are rounded once at the end. -/
def collFold (op typ : Nat) : List Nat → Nat
  | [] => 0
  | x :: xs =>
    if typ == 6 || typ == 7 then
      let f := if typ == 6 then fmtF16 else fmtBF16
      let up (c : Nat) : Nat := (floatToFloat f fmtF32 c rne).1
      (floatToFloat fmtF32 f (xs.foldl (fun a y => collOp op 4 a (up y)) (up x)) rne).1
    else if typ == 4 || typ == 5 then
      let f := if typ == 4 then fmtF32 else fmtF64
      let r := xs.foldl (collOp op typ) x
      if isNaNCode f r then canonNaN f else r
    else xs.foldl (collOp op typ) x

/-- Fields of a COLL descriptor (R393). -/
def Coll.kind (c : Coll) : Nat := bits (c.desc.getD 0 0#32).toNat 28 4
def Coll.op (c : Coll) : Nat := bits (c.desc.getD 0 0#32).toNat 24 4
def Coll.typ (c : Coll) : Nat := bits (c.desc.getD 0 0#32).toNat 20 4
def Coll.count (c : Coll) : Nat := (c.desc.getD 1 0#32).toNat
def Coll.send (c : Coll) : Nat := (dword (c.desc.getD 2 0#32) (c.desc.getD 3 0#32)).toNat
def Coll.recv (c : Coll) : Nat := (dword (c.desc.getD 4 0#32) (c.desc.getD 5 0#32)).toNat

/-- Elements a rank sends and receives (R393). -/
def Coll.sendLen (c : Coll) (n : Nat) : Nat := match c.kind with
  | 0 | 2 => c.count
  | 1 | 3 => c.count * n
  | _ => 0
def Coll.recvLen (c : Coll) (n : Nat) : Nat := match c.kind with
  | 0 | 1 => c.count
  | 2 | 3 => c.count * n
  | _ => 0

/-- What a rank's RECV holds given the contributions that have arrived, each the part of the sender's SEND meant for it:
element by element, none where no step has written (R393, R394, R395). -/
def Coll.result (c : Coll) (n : Nat) : List (Option Nat) :=
  match c.kind with
  | 0 | 1 =>
    let prefix_ := (List.range n).map fun i => c.got.look i
    let have_ := (prefix_.takeWhile (·.isSome)).filterMap id
    (List.range c.count).map fun e =>
      if have_.isEmpty then none else some (collFold c.op c.typ (have_.map fun d => d.getD e 0))
  | _ => ((List.range n).map fun i =>
      match c.got.look i with
      | some d => (List.range c.count).map fun e => some (d.getD e 0)
      | none => List.replicate c.count none).flatten

/-- On whose behalf the CXE works (R468). -/
def cxeWho (region : Nat) : Who := Who.engine region 0 0x78 0 none

/-- Write elements to RECV, each 16 bytes whole; with `some` choosing, an aborted collective's (R395). -/
def collWrite (c : Coll) (n : Nat) (aborted : Bool) : M Unit := do
  let z := collSize c.typ
  let per := 16 / z
  let es := c.result n
  M.forEach (fun i => do
    let part := (es.drop (per * i)).take per
    if part.all (·.isSome) && !part.isEmpty then do
      let s ← getS
      let (k, t) := s.takeFree
      M.whenB aborted (modS fun _ => t)
      M.whenB (!aborted || Config.stepWrote k)
        (engineWrite (cxeWho c.region) { engineVia 0 c.region 0x78 with late := if aborted then [0] else [] } (c.recv + 16 * i)
          ((part.map fun e => natToBytes z (e.getD 0)).flatten) false)) (List.range (ceilDiv es.length per))

/-- A communicator's size. -/
def State.commSize (s : State) (comm : Nat) : Nat := ((s.comms.look comm).map (·.table.length)).getD 0

def State.updRank (s : State) (comm rank : Nat) (f : CommRank → CommRank) : State :=
  { s with ranks := s.ranks.map fun r => if r.comm == comm && r.rank == rank && !r.excluded then f r else r }

def State.rank? (s : State) (comm rank : Nat) : Option CommRank :=
  s.ranks.find? fun r => r.comm == comm && r.rank == rank && !r.excluded

/-- Complete the collectives of a rank ABORTED with culprit and cause (R395). -/
def State.abortColls (s : State) (comm rank culprit cause : Nat) : State :=
  match s.rank? comm rank with
  | none => s
  | some r =>
    let n := s.commSize comm
    let s := r.colls.foldl (fun s c => ((collWrite c n true).exec s).completeTl c.wg 6 c.num stABORTED culprit cause) s
    s.updRank comm rank fun r => { r with colls := [] }

/-- A rank detects a failure or receives a notice (R395): its collectives end ABORTED, the communicator is BROKEN at it, and,
when it detected the failure itself, the notice goes out. -/
def State.breakRank (s : State) (comm rank culprit cause : Nat) (notify : Bool) : State :=
  match s.rank? comm rank with
  | none => s
  | some r =>
    let s := s.abortColls comm rank culprit cause
    if r.state == 0 then
      let s := s.updRank comm rank fun r => { r with state := 1, cause := cause, culprit := some culprit }
      if notify then
        { s with notices := s.notices ++ (List.range (s.commSize comm)).filterMap fun t =>
            if t == rank then none
            else some { comm := comm, kind := 0, target := t, culprit := culprit, cause := cause, epoch := r.epoch, data := [] } }
      else s
    else s

end Sys2Proof.Machine
end

