-- ==== Sys2Proof/Machine/Lifecycle.lean ====
section
/-! DEFINITION. Page-fault records and parking (R35 to R37), the exit of groups and workgroups (R332, R443), grid completion
(R176), posting continuation records (R177, R178, R389), and the fault procedure (R164, R165). -/
namespace Sys2Proof.Machine

/-- The 32 bytes of a page-fault record (R35). -/
def PfRec.toNat (r : PfRec) : Nat :=
  r.stamp * 2 ^ 192 + (r.seq.getD 0) % 2 ^ 16 * 2 ^ 176 + min r.waiters 0xFFFF * 2 ^ 160 + r.bufidx * 2 ^ 144
    + r.region * 2 ^ 120 + r.master * 2 ^ 72 + r.cls * 2 ^ 68 + r.sub * 2 ^ 56 + r.va / 2 % 2 ^ 56

/-- Write a page-fault record to its slot of the ring, while the slot is still its own (R35, R37). -/
def State.pfWrite (s : State) (b : Nat) (r : PfRec) : State :=
  match r.seq with
  | some q =>
    let put := bits (s.reg b .pfqptr) 0 32
    let base := bits (s.reg b .pfqbase) 17 35 * 2 ^ 17
    if (put + 2 ^ 16 - q) % 2 ^ 16 ≤ 4096 then s.paWrite (base + q % 4096 * 32) 32 r.toNat else s
  | none => s

/-- Attach a faulter to the pending record of its root, page and class, or to a new one (R35): the number it parks on. -/
def State.park (s : State) (b region master root va bufidx cls sub : Nat) : Nat × State :=
  let same (r : PfRec) : Bool := r.root == root && r.page == va / 4096 && r.cls == cls
  match (s.basin b).pfq.find? same with
  | some r =>
    let r := { r with waiters := r.waiters + 1 }
    (r.id, (s.updBasin b fun x => { x with pfq := x.pfq.map fun q => if q.id == r.id then r else q }).pfWrite b r)
  | none =>
    let r : PfRec := { id := s.parkNext, seq := none, root := root, page := va / 4096, cls := cls, sub := sub, va := va,
                       bufidx := bufidx, region := region, master := master, stamp := s.time, waiters := 1, pages := [] }
    (s.parkNext, { s with parkNext := s.parkNext + 1 }.updBasin b fun x => { x with pfq := x.pfq ++ [r] })

/-- Park a command of an engine on a page fault, if that is what stopped it. -/
def State.parkEngine (s : State) (w : Who) : AErr → Option (Nat × State)
  | .fault sub root va bufidx cls _ => some (s.park w.basin w.region w.master root va bufidx cls sub)
  | _ => none

/-- Bits 127:0 of a thread's logical name (R433). -/
def State.logicalName (s : State) (g : Group) (lane : Nat) : Nat :=
  match s.wgs.look g.wg with
  | some w =>
    w.launch * 2 ^ 96 + (if w.task then 2 ^ 95 else w.wz * 2 ^ 60 + w.wy * 2 ^ 40 + w.wx * 2 ^ 20)
      + (g.gix * 32 + lane) % 1024 * 2 ^ 80
  | none => 0

/-- An exit record (R443). -/
def State.exitRecord (s : State) (g : Group) (groups : Nat) : Nat :=
  let word (i v : Nat) : Nat := v % 2 ^ 64 * 2 ^ (64 * i)
  s.logicalName g 0 + word 2 g.tstart + word 3 s.time + word 4 g.issued.toNat
    + word 5 (min g.saves 0xFFFF * 2 ^ 48 + min g.moves 0xFFFF * 2 ^ 32 + g.gix % 32 * 2 ^ 21 + (groups - 1) % 32 * 2 ^ 16
        + min g.traps 0xFFFF)
    + (List.range 16).foldl (fun n i => n + word (8 + i) (g.counters.get 0#64 i).toNat) 0

/-- The groups of a workgroup, in ascending gix. -/
def State.groupsOf (s : State) (w : Nat) : List (Nat × Group) :=
  (List.range 32).filterMap fun i => (s.groups.look (w * 32 + i)).map (w * 32 + i, ·)

/-- Release a core's matrix engine, the waiters kept (R344): the next claim sets it to its initial state. -/
def State.mxRelease (s : State) (c : Nat) : State :=
  s.updCore c fun k => { k with mxe := { k.mxe with holder := none, queue := [] } }

/-- The holder has exited and its commands have completed: the engine is released (R344). -/
def State.mxTryRelease (s : State) (c : Nat) : State :=
  match (s.core c).mxe.holder with
  | some w =>
    let gone : Bool := ((s.wgs.look w).map (·.exited)).getD true
    if gone && (s.core c).mxe.queue.isEmpty then s.mxRelease c else s
  | none => s

/-- What the exits of a grid's threads leave for its completion (R132). -/
def gridEnd (launch : Nat) : Loc := startLoc (2 ^ 40 + launch)

/-- Pass on what was released at one location to another. -/
def State.passOn (s : State) (from_ dest : Loc) (scope : Option Nat) : State :=
  let rs := (s.mem.rel.filter fun (p : Loc × Release) => p.1 == from_).map
    fun (p : Loc × Release) => (dest, { p.2 with scope := scope.getD p.2.scope })
  s.setMem { s.mem with rel := s.mem.rel ++ rs }

/-- Write a grid's notify word (R176), a release at .dev of what its threads' exits released (R132): the status of the failure, if
any. -/
def gridNotify (lid : Nat) (g : Grid) : M Unit := do
  let h := (g.packet.getD 6 0#64).toNat
  let v := bits (g.packet.getD 7 0#64).toNat 32 32
  let w := Who.dispatcher g.region g.basin (g.region == 0)
  if h % 4 != 0 then trapM .misalign
  let x ← translate w h 4 .store
  engineStoreAt w { engineVia (22 * w.basin) g.region 0x7C with keep := false } x (natToBytes 4 v) false
  modS fun s => s.passOn (gridEnd lid) (globalLoc x.pa) (some 2)

/-- A failed launch or notify of a host queue is counted (R187, R191). -/
def State.queueError (s : State) (b n code : Nat) : State :=
  let w := s.reg b (.hqstat n)
  s.setReg b (.hqstat n) (code * 2 ^ 56 + min (2 ^ 32 - 1) (bits w 0 32 + 1))

/-- Whether a grid's thread has launched a packet that is still queued (R176, R189). -/
def State.childQueued (s : State) (lid : Nat) : Bool :=
  s.regions.any fun p => p.2.lqCtx.any fun q => ((s.wgs.look q.2.1).map fun w => !w.task && w.launch == lid).getD false

/-- Complete grids whose workgroups have exited and whose children are complete, from grid `lid` upward (R176): what a child's threads
released reaches whoever waits on the child and its parent's completion (R132). -/
def State.gridTest (s : State) (lid : Nat) : Nat → State
  | 0 => s
  | fuel + 1 =>
    match s.grids.look lid with
    | none => s
    | some g =>
      if g.left != 0 || s.grids.any (fun p => p.2.parent == some lid) || s.childQueued lid then s
      else
        let done (s : State) (status a b : Nat) : State :=
          let s := match g.ctx with
            | some (wg, n) => (s.completeTl wg 5 n status a b).passOn (gridEnd lid) (tlLoc wg 5 n) none
            | none => s
          let s := { s with grids := s.grids.del lid }
          match g.parent with
          | some p => (s.passOn (gridEnd lid) (gridEnd p) none).gridTest p fuel
          | none => s
        if g.aborted then done s stABORTED 0 lid
        else if g.packet.getD 6 0#64 == 0#64 then done s stOK 0 lid
        else match (gridNotify lid g).outcome s with
          | (.ok _, t) => done t stOK 0 lid
          | (.error (.stall _), t) => t
          | (.error e, t) =>
            let t := match g.hostq with
              | some (b, n) => t.queueError b n 8
              | none => t
            done t ((e.status).getD stENGFAULT) 8 lid

/-- Try again the grids whose completion waits on their notify write. -/
def State.gridSweep (s : State) : State := s.grids.keys.foldl (fun s k => s.gridTest k 64) s

/-- One workgroup of a grid is done (R176). -/
def State.gridLeave (s : State) (lid : Nat) : State :=
  let s := { s with grids := s.grids.upd lid fun g => { g with left := g.left - 1 } }
  s.gridTest lid 64

/-- Copies of the workgroup that still wait for a slice of a group that has exited complete ABANDONED (R380). -/
def State.abandonCopies (s : State) (w gix : Nat) : State :=
  match s.wgs.look w with
  | none => s
  | some x =>
    let bad (c : CopyCmd) : Bool := c.kind == 0 && !c.started && c.members.contains gix && !c.slices.any (fun l => l.gix == gix)
    let s := (x.copies.filter bad).foldl (fun s c => s.completeTl w 1 c.num stABANDONED gix 0) s
    s.updWg w fun x => { x with copies := x.copies.filter fun c => !bad c }

/-- The base of the Interrupt Arrival Table (R385). -/
def State.iatBase (s : State) : Nat := bits (s.reg 0 .iatbase) 21 31 * 2 ^ 21

/-- LOST of an IAT entry rises by its count, saturating (R385, R386). -/
def State.iatLost (s : State) (entry count : Nat) : State :=
  let a := s.iatBase + 32 * entry + 4
  s.paWrite a 4 (min (2 ^ 32 - 1) (s.paNat a 4 + count))

/-- An arrival at a barrier of a resident workgroup's scratchpad (R386): a bad object, or none there, loses it; an empty line holds
it back. -/
def State.heldArrive (s : State) (w : Nat) (h : Held) : Option State :=
  let go : M (Option Nat) := do
    let a ← scrResolve w (0xFF000000 + h.addr % 2 ^ 24) 16
    if h.addr % 16 != 0 then trapM .misalign
    barArrive { sp := true, wg := a.wg, addr := a.addr } h.count
  match go.outcome s with
  | (.ok (some _), t) => some t
  | (.error (.feb _ _), _) | (.error (.stall _), _) => none
  | (.ok none, t) | (.error _, t) => some (t.iatLost h.entry h.count)

/-- An arrival for a workgroup (R386): performed where it is resident, lost where it has exited or its region is DEAD; none where it
has to wait. -/
def State.heldTry (s : State) (h : Held) : Option State :=
  match s.wgs.find? fun p => p.2.launch == h.launch && p.2.wix == h.wix && !p.2.task with
  | some (w, x) =>
    if x.exited || s.isDead h.region then some (s.iatLost h.entry h.count)
    else if x.saved == .resident then s.heldArrive w h
    else none
  | none =>
    if s.isDead h.region || (s.grids.look h.launch).isNone then some (s.iatLost h.entry h.count) else none

/-- Try every held arrival again. -/
def State.settleHeld (s : State) : State :=
  (List.range 4).foldl (fun s b => (s.basin b).held.foldl (fun s h =>
    match s.heldTry h with
    | some t => t.updBasin b fun x => { x with held := x.held.erase h }
    | none => s) s) s

/-- The last group of a workgroup has exited (R332): records written, segments freed, copies and ownership home, the engine
released when its commands are done, the grid tested. -/
def State.workgroupExit (s : State) (w : Nat) : State :=
  match s.wgs.look w with
  | none => s
  | some x =>
    let gs := s.groupsOf w
    let s := s.ringWrite 0 .profqbase .profqptr 14 10 256 (gs.map fun p => s.exitRecord p.2 gs.length)
    let s := s.ownershipHome w
    let s := s.updWg w fun x => { x with exited := true, segMap := [], segDir := [] }
    let s := s.mxTryRelease x.core
    let s := s.updCore x.core fun k => { k with mxe := { k.mxe with waiters := k.mxe.waiters.erase w } }
    let s := s.settleHeld
    if x.task then s else s.gridLeave x.launch

/-- The last live thread of a group has exited (R332): a col; slot, window and terrace freed. -/
def State.groupExit (s : State) (gid : Nat) : State :=
  match s.group? gid with
  | none => s
  | some g =>
    let s := (s.col gid).updGroup gid fun g => { g with exited := true, trap := none, window := none, stall := none }
    let s := s.updCore g.core fun k => { k with compact := k.compact.erase (g.pipe / 16) }
    let s := s.abandonCopies g.wg g.gix
    if (s.groupsOf g.wg).all fun p => p.2.exited then s.workgroupExit g.wg else s

/-- Slots per bucket of the steppe (R389). -/
def State.steppeSlots (s : State) : Nat := 2 ^ max 4 (min 16 (bits (s.reg 0 .steppecfg) 52 4))

/-- The home bucket of a record (R178): the affinity's home basin and core, or the posting core. -/
def State.recordHome (s : State) (posting : Option Nat) (region : Nat) (handle : DWord) : Nat × State :=
  let dflt := posting.getD 0
  if handle == 0#64 then (dflt, s)
  else
    let b := basinOf dflt
    match (translate { Who.dispatcher region b (region == 0) with queued := false } handle.toNat 1 .load).outcome s with
    | (.ok x, t) => if isHbmKey (keyOf x.pa) then (22 * homeOf (keyOf x.pa) + x.pa / 4096 % 22, t) else (dflt, t)
    | (.error _, t) => (dflt, t)

/-- The 32 bytes of a record (R177). -/
def Record.toNat (r : Record) : Nat :=
  r.code.toNat + r.frame.toNat * 2 ^ 64 + ((if r.deferred then 1 else 0) + (if r.isFault then 2 else 0)) * 2 ^ 128
    + r.region * 2 ^ 140 + r.join.toNat * 2 ^ 160 + r.affinity.toNat * 2 ^ 192

def Record.id (r : Record) : Nat := r.home * 2 ^ 25 + r.slot * 2 ^ 9 + r.gen

/-- Write a record through to the steppe's storage (R389). -/
def State.recordStore (s : State) (r : Record) : State :=
  let base := bits (s.reg 0 .steppecfg) 21 31 * 2 ^ 21
  s.paWrite (base + (r.home * s.steppeSlots + r.slot) * 32) 32 r.toNat

/-- The next generation of a slot whose id no live task has for a name (R389, R433), after `old`. -/
def State.freshGen (s : State) (home slot old : Nat) : Option Nat :=
  (rangeFrom (old + 1) 512).findSome? fun g =>
    let id := home * 2 ^ 25 + slot * 2 ^ 9 + g % 512
    if s.wgs.any fun p => p.2.task && !p.2.exited && p.2.launch == id then none else some (g % 512)

/-- Post a record to its home bucket: its id, or none when the steppe is off or the bucket full (R177, R179, R389). -/
def State.postRecord (s : State) (r : Record) (posting : Option Nat) : Option Nat × State :=
  if !bit (s.reg 0 .steppecfg) 63 then (none, s)
  else
    let (home, s) := s.recordHome posting r.region (if r.isFault then r.frame else r.affinity)
    let used := (s.steppe.filter fun q => q.home == home).map (·.slot)
    match ((List.range s.steppeSlots).filter fun i => !used.contains i).findSome? fun i =>
        (s.freshGen home i (s.slotGen.get 0 (home * 65536 + i))).map (i, ·) with
    | none => (none, s)
    | some (slot, gen) =>
      let key := home * 65536 + slot
      let ready : Bool := if r.deferred then
          ((s.region? r.region).map fun x => decide ((x.gseq.toNat + 2 ^ 32 - r.join.toNat) % 2 ^ 32 < 2 ^ 31)).getD false
        else r.join == 0#32
      let r := { r with home := home, slot := slot, gen := gen, runnable := ready, since := s.time }
      let s := { s with slotGen := s.slotGen.set key gen, steppe := s.steppe ++ [r] }
      (some r.id, s.recordStore r)

/-- Stores of a discarded group that are not yet visible at .dev (R164): performed, or lost where the line's dirty bytes are
the group's alone. -/
def State.dropStores (s : State) (gid : Nat) : State :=
  match s.group? gid with
  | none => s
  | some g =>
    let b := basinOf g.core
    let s := g.pend.keys.foldl (fun s l =>
      let (k, s) := s.takeFree
      let shared := s.groups.any fun p => p.1 != gid && (p.2.pend.look l).isSome
      if Config.performed k || shared then s.rdcClean b l else s.loseLine b l) s
    (s.updGroup gid fun g => { g with pend := [] }).updBasin b fun x => { x with lapsed := x.lapsed.filter fun p => p.1 != gid }

/-- Discard a group (R164 step 3, R165): registered waits and outstanding requests dropped, no longer live. -/
def State.discardGroup (s : State) (gid : Nat) : State :=
  let s := s.dropStores gid
  let s := match s.group? gid with
    | some g => s.updCore g.core fun k => { k with compact := k.compact.erase (g.pipe / 16) }
    | none => s
  let s := (List.range 32).foldl (fun s i => s.unregister gid i) s
  let s := { s with barReqs := s.barReqs.filter fun q => q.group != gid, atsWaits := s.atsWaits.filter fun q => q.group != gid }
  let s := s.updGroup gid fun g =>
    { g with exited := true, threads := g.threads.map fun p => (p.1, { p.2 with exited := true, wait := none, park := none }),
             trap := none, window := none, stall := none, entering := none, stopped := none,
             tl2 := g.tl2.pend.foldl (fun t n =>
               let moved := ((g.queues.filterMap fun q => q.2.stream).find? fun u => u.num == n).map (·.moved)
               t.complete n stABORTED 0 (moved.getD 0) s.time) g.tl2
             queues := [] }
  s.gracePassed gid

/-- What the record of an aborted command states (R371), where the spec fixes it: the unit progress of a matrix command, what a
multicast, gather or scatter has performed. -/
def State.abortDetails (s : State) (w : Nat) (x : Workgroup) (tl n : Nat) : Option (Nat × Nat) :=
  match tl with
  | 0 =>
    let own := if (s.core x.core).mxe.holder == some w then (s.core x.core).mxe.queue else ((s.mxSaved.look w).map (·.queue)).getD []
    (own.find? fun q => q.num == n).map fun q => (0, q.done)
  | 1 => (x.copies.find? fun q => q.num == n).bind fun q => if q.kind == 0 then none else some q.stopDetails
  | 4 => some (0, 0)
  | _ => none

/-- Complete a command ABORTED. -/
def State.abortCommand (s : State) (w : Nat) (x : Workgroup) (tl n : Nat) : State :=
  match s.abortDetails w x tl n with
  | some (a, b) => s.completeTl w tl n stABORTED a b
  | none => s.completeOpen w tl n stABORTED

/-- Commands of a discarded workgroup complete ABORTED (R164 step 4), a LAUNCH whose packet is still to be taken too. -/
def State.abortCommands (s : State) (w : Nat) : State :=
  match s.wgs.look w with
  | none => s
  | some x =>
    let s := (s.bells.filter fun d => d.wg == w).foldl (fun s d => s.completeTl w 3 d.num stABORTED 0 0) s
    let s := { s with bells := s.bells.filter fun d => d.wg != w }
    let s := [0, 1, 3, 4, 5, 6].foldl (fun s tl =>
      (x.tls.get .fresh tl).pend.foldl (fun s n => s.abortCommand w x tl n) s) s
    let s := s.updWg w fun x => { x with copies := [], nmus := [] }
    if (s.core x.core).mxe.holder == some w && x.saved == .resident then s.mxRelease x.core
    else { s with mxSaved := s.mxSaved.del w }

/-- Discard a workgroup (R164). -/
def State.discardWorkgroup (s : State) (w : Nat) : State :=
  match s.wgs.look w with
  | none => s
  | some x =>
    let s := (s.groupsOf w).foldl (fun s p => s.discardGroup p.1) s
    let s := s.abortCommands w
    let s := s.ownershipHome w
    let s := s.updWg w fun x => { x with exited := true, segMap := [], segDir := [] }
    let s := s.updCore x.core fun k =>
      { k with mxe := { k.mxe with waiters := k.mxe.waiters.erase w }, segMoves := k.segMoves.filter fun m => m.wg != w,
               moves := k.moves.filter fun m => m.group / 32 != w }
    if x.task then s else { s with grids := s.grids.upd x.launch fun g => { g with aborted := true } }

/-- W18 and W19 written through (R159). -/
def State.faultWrite (s : State) (r : Nat) : State :=
  match s.region? r with
  | some x =>
    let w := (if x.dead then 2 ^ 63 else 0) + (if x.posted then 2 ^ 62 else 0) + x.cause.toNat * 2 ^ 48 + x.origin.toNat * 2 ^ 20
    (s.rcbWrite r 18 w).rcbWrite r 19 x.ftime.toNat
  | none => s

/-- A fatal fault of region F (R163, R164); nothing where F is not registered (log entry 89). -/
def State.fatalFault (s : State) (f cause : Nat) : State :=
  if (s.region? f).isNone || s.isDead f then s
  else
    let sub := s.subtree f
    let s := sub.foldl (fun s r => s.updRegion r fun x => { x with dead := true, origin := BitVec.ofNat 20 f, halt := none }) s
    let s := s.updRegion f fun x => { x with cause := BitVec.ofNat 8 cause, ftime := s.gtb }
    -- steps 2 to 4: waiting work dropped, workgroups discarded, commands and collectives aborted
    let mine (w : Workgroup) : Bool := sub.contains w.region && !w.exited
    let s := (s.ranks.filter fun r => sub.contains r.region || r.colls.any fun c => sub.contains c.region).foldl
      (fun s r => s.breakRank r.comm r.rank r.rank 7 true) s
    let s := (s.wgs.filter fun p => mine p.2).foldl (fun s p => s.discardWorkgroup p.1) s
    let s := (s.wgs.filter fun p => sub.contains p.2.region && p.2.exited).foldl (fun s p => s.abortCommands p.1) s
    let gone := (s.grids.filter fun p => sub.contains p.2.region).map (·.1)
    let s := { s with
      basins := s.basins.map fun (p : Nat × Basin) =>
        (p.1, { p.2 with waits := p.2.waits.filter fun w => match w.restore with
          | some v => !((s.wgs.look v).map fun (x : Workgroup) => x.exited).getD true
          | none => !gone.contains w.grid })
      grids := s.grids.map fun (p : Nat × Grid) =>
        if gone.contains p.1 then (p.1, { p.2 with left := 0, aborted := true }) else p }
    let s := gone.reverse.foldl (fun s l => s.gridTest l 64) s
    -- step 5: bank charges move to region 0
    let bank (b : Nat × Bank) : Nat × Bank := (b.1, if sub.contains b.2.region then { b.2 with region := 0 } else b.2)
    let req (q : RoleReq) : RoleReq := if sub.contains q.region then { q with region := 0 } else q
    let s := { s with cores := s.cores.map fun (p : Nat × Core) =>
      (p.1, { p.2 with banks := p.2.banks.map bank, reqs := p.2.reqs.map req }) }
    -- step 6: the handler's record, or RGNFAULT
    let post : Option Nat × State := match s.parentOf f with
      | some p =>
        if s.hcode f == 0#64 then (none, s)
        else s.postRecord
          { home := 0, slot := 0, gen := 0, code := s.hcode f, frame := s.hframe f,
            affinity := BitVec.ofNat 64 (cause % 256 * 2 ^ 20 + f), join := 0#32, region := p, deferred := false,
            isFault := true, runnable := true, saved := none, since := s.time } none
      | none => (none, s)
    let s := match post with
      | (some _, s) => s.updRegion f fun x => { x with posted := true }
      | (none, s) => s.machineEvent 0 6 f (cause % 256 + f * 2 ^ 8)
    (sub.foldl State.faultWrite s).settleHeld

end Sys2Proof.Machine
end

