-- ==== Sys2Proof/Machine/Ops.lean ====
section
/-! DEFINITION. The named operations on a group's registers, and taking and leaving a trap (R398 to R405, R439). -/
namespace Sys2Proof.Machine

/-- A register word with its residue (R73). -/
def regWord (v : Word) : RegWord := { val := v, res := BitVec.ofNat 7 (v.toNat % 127) }

/-- A poisoned register word (R75). -/
def poisonWord : RegWord := { val := 0#32, res := 0x7F#7 }
def RegWord.poisoned (r : RegWord) : Bool := r.res == 0x7F#7
def RegWord.bad (r : RegWord) : Bool := r.res.toNat != r.val.toNat % 127

/-- What a register reads as before anything is written to it (R167). -/
def zeroWord : RegWord := { val := 0#32, res := 0#7 }

/-- Register r of a lane: v88 to v95 are the terrace's in trap mode (R64, R403). -/
def Group.getV (g : Group) (lane r : Nat) : RegWord :=
  if g.trap.isSome && 88 ≤ r then g.terV.get zeroWord (r * 32 + lane) else g.regs.get zeroWord (r * 32 + lane)
def Group.setV (g : Group) (lane r : Nat) (v : RegWord) : Group :=
  if g.trap.isSome && 88 ≤ r then { g with terV := g.terV.set (r * 32 + lane) v }
  else { g with regs := g.regs.set (r * 32 + lane) v }

/-- Uniform register k: s56 to s63 are the terrace's in trap mode (R64, R403). -/
def Group.getS (g : Group) (k : Nat) : RegWord :=
  if g.trap.isSome && 56 ≤ k then g.terS.get zeroWord k else g.sregs.get zeroWord k
def Group.setS (g : Group) (k : Nat) (v : RegWord) : Group :=
  if g.trap.isSome && 56 ≤ k then { g with terS := g.terS.set k v } else { g with sregs := g.sregs.set k v }

/-- Whether v register r may be named (R64). -/
def Group.hasV (g : Group) (r : Nat) : Bool := r < g.count || (g.trap.isSome && 88 ≤ r && r < 96)

def Group.mask (g : Group) (m : Nat) : BitVec 32 := g.masks.get 0#32 m
/-- Write mask register m whole, its parity with it (R66). -/
def Group.setMask (g : Group) (m : Nat) (v : BitVec 32) : Group := { g with masks := g.masks.set m v, maskPar := g.maskPar.del m }

/-- A word read from where parity protects it: a mismatch shows as a residue mismatch does (R66). -/
def parityWord (v : Word) (par : BitVec 4) : RegWord := if par == 0#4 then regWord v else { val := v, res := BitVec.ofNat 7 ((v.toNat + 1) % 127) }

/-- The registers a latch gives: its low 32 bits for one, all 64 for two (R218). -/
def Latch.words (y : Latch) (n : Nat) : List RegWord :=
  (List.range n).map fun i => if i % 2 == 0 then parityWord (loWord y.val) (y.par.extractLsb' 0 4) else parityWord (hiWord y.val) (y.par.extractLsb' 4 4)

/-- Shift a value into y0 (R219). -/
def Thread.shift (t : Thread) (v : DWord) (dep : NMap Nat := []) : Thread :=
  { t with latches := ({ val := v, par := 0#8, dep := dep } :: t.latches).take 4 }

/-- A queue word as a register takes it, and a register word as a queue takes it (R66, R375). -/
def QWord.reg (w : QWord) : RegWord := if w.poison then { val := w.val, res := 0x7F#7 } else parityWord w.val w.par
def RegWord.queued (w : RegWord) : QWord := { val := w.val, par := 0#4, poison := w.poisoned }

/-- Cause codes (R400). -/
def Cause.code : Cause → Nat
  | .illop => 0x01
  | .misalign => 0x02
  | .pagefault => 0x03
  | .nullbuf => 0x04
  | .bufbound => 0x05
  | .bufrights => 0x06
  | .bufowner => 0x07
  | .scrbound => 0x08
  | .xperm => 0x09
  | .xtorn => 0x0A
  | .mmx => 0x0B
  | .poison => 0x0C
  | .linkdown => 0x0D
  | .febtimeout => 0x0E
  | .waittimeout => 0x0F
  | .regerr => 0x10
  | .ctrexh => 0x11
  | .accessdeny => 0x12
  | .engfault => 0x13
  | .fptrap => 0x14
  | .syscall => 0x15
  | .bkpt => 0x16
  | .watch => 0x17
  | .step => 0x18
  | .callovf => 0x19

/-- A trap of a lane with a cause and TVAL alone. -/
def trapOf (c : Cause) (tval : DWord) : LaneTrap :=
  { cause := c, sub := 0, tval := tval, extra := 0#64, name := (0, 0, 0), late := false, hold := false, fatal := false }

/-- Raise a trap of the lane. -/
def raise {α : Type} (c : Cause) (tval : DWord) : M α := err (.lane (trapOf c tval))

/-- The trap an access error is for a thread, TVAL being the address of the access (R400, R403). -/
def AErr.toTrap (e : AErr) (addr : DWord) : Option LaneTrap :=
  match e with
  | .trap c sub extra => some { trapOf c addr with sub := sub, extra := extra }
  | .deny => some (trapOf .accessdeny addr)
  | .down => some (trapOf .linkdown addr)
  | .exh => some (trapOf .ctrexh addr)
  | .poison => some (trapOf .poison addr)
  | .mmx h => some { trapOf .mmx addr with extra := h.pc, name := h.name }
  | .lane t => some t
  | .fault .. | .stall _ | .feb _ _ => none

/-- Run an access of a thread at an address: its errors become traps of the lane. -/
def atAddr {α : Type} (addr : DWord) (m : M α) : M α := fun s =>
  match m s with
  | .ok a t => .ok a t
  | .error e t =>
    match e.toTrap addr with
    | some tr => .error (.lane tr) t
    | none => .error e t

/-- A debug capability entry of a region's effective table (R434): holder and rights, none when not valid. -/
def State.capability (s : State) (r c : Nat) : Option (Nat × Nat) :=
  if c < s.dcCount r then
    match (agentRead (keyOf (s.dcBase r + 8 * c)) 8).outcome s with
    | (.ok (bs, bad), _) =>
      let e := bytesToNat bs
      if bad || !bit e 63 || bits e 52 11 != 0 || bits e 8 24 != 0 then none else some (bits e 32 20, bits e 0 8)
    | (.error _, _) => none
  else none

/-- What is left where the memory of one of the entries `cs` of a region's table makes its check wait; none where all can be read. -/
def State.tableWaits (s : State) (r : Nat) (cs : List Nat) : Option State :=
  (cs.filter fun c => c < s.dcCount r).findSome? fun c =>
    match (agentRead (keyOf (s.dcBase r + 8 * c)) 8).outcome s with
    | (.error (.stall _), t) => some t
    | _ => none

/-- An event that must wait is performed again once time has passed. -/
def State.defer (s : State) (e : Event) : State := { s with later := s.later ++ [e] }

/-- A check of entries of a table comes again with its event while their memory makes it wait. -/
def State.afterTable (s : State) (e : Event) (r : Nat) (cs : List Nat) (act : State) : State :=
  match s.tableWaits r cs with
  | some t => t.defer e
  | none => act

/-- The lowest-numbered valid entry with a right: index and holder (R439). -/
def State.routeOf (s : State) (r right : Nat) : Option (Nat × Nat) :=
  (List.range (s.dcCount r)).findSome? fun c =>
    match s.capability r c with
    | some (h, rights) => if bit rights right then some (c, h) else none
    | none => none

/-- The right that routes a cause (R434, R439). -/
def routeRight : Cause → Option Nat
  | .bkpt => some 2
  | .watch => some 3
  | .step => some 4
  | _ => none

/-- Halt a region under a capability, or by HALT with none (R437); a trigger while halted has no further effect. -/
def State.haltRegion (s : State) (r : Nat) (cap : Option Nat) : State :=
  if (s.chain 17 r).any fun x => ((s.region? x).map (·.halt.isSome)).getD false then s
  else s.updRegion r fun x => { x with halt := some (cap, s.time) }

/-- Trap state as the terrace holds it (R401, R403). -/
def trapState (s : State) (g : Group) (t : LaneTrap) (mask : BitVec 32) (tpc : DWord) (prio : BitVec 8) : Trap :=
  { tpc := tpc, tval := t.tval, tmask := mask,
    tcause := BitVec.ofNat 32 ((if t.late then 2 ^ 16 else 0) + t.sub % 256 * 256 + t.cause.code), prio := prio,
    plevel := BitVec.ofNat 2 (s.levelOf g), hold := t.hold }

/-- Lanes as a mask. -/
def maskOfLanes (ls : List Nat) : BitVec 32 := ls.foldl (fun m l => m ||| BitVec.ofNat 32 (2 ^ l)) 0#32

/-- A trapped thread stands at the handler (R403 step 4). -/
def Thread.toHandler (t : Thread) (pc : DWord) : Thread :=
  { t with pc := pc, prio := 255#8, hint := none, wait := none, park := none, feb := none, failed := none, memwait := false, began := none,
           latches := [] }

/-- A late trap that is taken is pending no more (R404). -/
def Thread.delivered (t : Thread) (l : LaneTrap) : Thread := if l.late then { t with late := t.late.drop 1 } else t

/-- The entry registers of one trapped lane (R403). -/
def entryRegs (lane : Nat) (t : LaneTrap) (v : NMap RegWord) : NMap RegWord :=
  let put (m : NMap RegWord) (r : Nat) (w : Word) : NMap RegWord := m.set (r * 32 + lane) (regWord w)
  put (put (put (put (put (put (put v 88 (loWord t.tval)) 89 (hiWord t.tval)) 90 (loWord t.extra)) 91 (hiWord t.extra))
    92 (BitVec.ofNat 32 t.name.1)) 93 (BitVec.ofNat 32 t.name.2.1)) 94 (BitVec.ofNat 32 t.name.2.2)

/-- Causes a thread holds pending for what others decided: a FAIL response and the timeouts (R35, R70, R185). -/
def Cause.outside : Cause → Bool
  | .pagefault | .febtimeout | .waittimeout => true
  | _ => false

/-- A thread beside the trapped ones: what it faulted with in the same issue otherwise it has not executed (R402). -/
def Thread.beside (t : Thread) (other : Option LaneTrap) : Thread :=
  if (other.map fun o => !o.cause.outside).getD false then { t with failed := none } else t

/-- Trap entry proper (R403): the group enters trap mode, the others are held, trap state and entry registers are written,
the trapped threads go to the handler. -/
def Group.enter (g : Group) (ts : Trap) (traps others : NMap LaneTrap) (handler : DWord) (now : Nat) : Group :=
  let s56 := [(56, ts.tcause), (57, ts.tmask), (58, loWord ts.tpc), (59, hiWord ts.tpc)]
  { g with
    trap := some ts
    window := none
    traps := g.traps + 1
    terV := traps.foldl (fun v p => entryRegs p.1 p.2 v) g.terV
    terS := s56.foldl (fun m p => m.set p.1 (regWord p.2)) g.terS
    threads := g.threads.map fun p =>
      match traps.look p.1 with
      | some t => (p.1, (p.2.delivered t).toHandler handler)
      | none => (p.1, { p.2.beside (others.look p.1) with
          latches := []
          wait := p.2.wait.map fun w => { w with elapsed := w.elapsed + (now - w.since), since := now } }) }

/-- Who makes a group's accesses, for the requests they leave outstanding. -/
def State.viaOf (s : State) (g : Group) (gid lane : Nat) : Via := { gid := gid, lane := lane, core := g.core, region := s.regionOf g }

/-- A routed hit (R439): no handler, the trap state written, the region halted, a debug event recorded. -/
def State.routedHit (s : State) (gid : Nat) (g : Group) (ts : Trap) (lanes : List Nat) (others : NMap LaneTrap) (cause cap holder : Nat) :
    State :=
  let rec_ := s.logicalName g (lanes.headD 0) + ts.tpc.toNat * 2 ^ 128 + ts.tval.toNat * 2 ^ 192 + s.time * 2 ^ 256
    + cause * 2 ^ 320 + cap * 2 ^ 328 + holder * 2 ^ 352
  let s := s.updGroup gid fun g =>
    { g with lastTrap := ts, window := none, threads := g.threads.map fun p =>
        if lanes.contains p.1 then (p.1, { p.2 with hint := none, pc := ts.tpc, failed := none, nowatch := true, latches := [] })
        else (p.1, { p.2.beside (others.look p.1) with latches := [] }) }
  (s.haltRegion (s.regionOf g) (some cap)).ringWrite 0 .dbgqbase .dbgqptr 14 8 64 [rec_]

/-- Take a trap (R398 to R403): `traps` gives each faulting lane's own trap, `tpc` the address ERET resumes at.  The lowest
lane decides cause and subcode; the lanes that share them trap, the others have not executed the instruction.  Where the fetch of the
entry word, or the check of the capabilities, has to wait, the trap stays pending (R399, R434). -/
def State.takeTrap (s : State) (gid : Nat) (traps : NMap LaneTrap) (tpc : DWord) : State :=
  match s.group? gid, (List.range 32).findSome? fun l => (traps.look l).map (l, ·) with
  | some g, some (l0, t0) =>
    let region := s.regionOf g
    let mine : NMap LaneTrap := traps.filter fun p => p.2.cause == t0.cause && p.2.sub == t0.sub && p.2.late == t0.late
    let others : NMap LaneTrap := traps.filter fun p => (mine.look p.1).isNone
    let lanes := (List.range 32).filter fun l => (mine.look l).isSome
    let prio := ((g.thread? l0).map (·.prio)).getD 0#8
    let ts := trapState s g t0 (maskOfLanes lanes) tpc prio
    if t0.fatal then s.fatalFault region t0.cause.code
    else match (routeRight t0.cause).bind fun _ => s.tableWaits region (List.range (s.dcCount region)) with
    | some s => s.updGroup gid fun g => { g with entering := some (traps, tpc), stall := some .trap }
    | none => match (routeRight t0.cause).bind (s.routeOf region) with
    | some (cap, holder) => s.routedHit gid g ts lanes others t0.cause.code cap holder
    | none =>
      match g.trap with
      | some old =>
        (s.machineEvent (basinOf g.core) 9 region (t0.cause.code + old.tcause.toNat % 256 * 256)).fatalFault region t0.cause.code
      | none =>
        let handler := if region == 0 then s.reg 0 .tvecs else s.reg 0 .tvecp
        let who := { Who.thread region g.core true with queued := false }
        if handler == 0 then s.fatalFault region t0.cause.code
        else match (fetchWord who (s.viaOf g gid l0) handler).outcome s with
          | (.ok _, s) => s.updGroup gid fun g => g.enter ts mine others (BitVec.ofNat 64 handler) (s.clockOf region)
          | (.error (.stall _), s) => s.updGroup gid fun g => { g with entering := some (traps, tpc), stall := some .fetch }
          | (.error _, s) => s.fatalFault region t0.cause.code
  | _, _ => s

/-- Trap mode ends: held threads are eligible again at their own PCs, their waits running on; the trapped threads that
`resume` picks go to TPC with their priority (R405). -/
def Group.leave (g : Group) (resume : Bool) (now : Nat) : Group :=
  match g.trap with
  | none => g
  | some ts =>
    { g with
      trap := none
      lastTrap := ts
      threads := g.threads.map fun p =>
        if bit ts.tmask.toNat p.1 then
          (if resume && !p.2.exited then
            (p.1, { p.2 with pc := ts.tpc, prio := ts.prio, hint := none, wait := none, park := none, feb := none, failed := none,
                             memwait := false, began := none, nowatch := true, latches := [] })
           else p)
        else (p.1, { p.2 with latches := [], wait := p.2.wait.map fun w => { w with since := now } }) }

/-- ERET (R405): the kill outcome when TPC is zero, a trap in trap mode when TPC is misaligned, else the return.  Outside trap
mode it is none. -/
def State.returnTrap (s : State) (gid : Nat) : Option State :=
  match s.group? gid with
  | none => none
  | some g =>
    match g.trap with
    | none => none
    | some ts =>
      if ts.tpc == 0#64 then some (s.fatalFault (s.regionOf g) (ts.tcause.toNat % 256))
      else if ts.tpc.toNat % 4 != 0 then
        some (s.takeTrap gid (g.lanesOf.filterMap fun p =>
          if bit ts.tmask.toNat p.1 && !p.2.exited then some (p.1, trapOf .misalign ts.tpc) else none) ts.tpc)
      else some (s.updGroup gid fun g => g.leave true (s.clockOf (s.regionOf g)))

/-- When the last thread of TMASK has exited, trap mode ends for the held threads (R405). -/
def State.trapExits (s : State) (gid : Nat) : State :=
  match s.group? gid with
  | none => s
  | some g =>
    match g.trap with
    | none => s
    | some ts =>
      if g.threads.all fun p => p.2.exited || !bit ts.tmask.toNat p.1 then s.updGroup gid fun g => g.leave false (s.clockOf (s.regionOf g))
      else s

end Sys2Proof.Machine
end

