-- ==== Sys2Proof/Machine/Operands.lean ====
section
/-! DEFINITION. One issue of an instruction, and its operands: the codes of R217 as sources and destinations, the values XW
forms (R226), modifiers (R227), queues (R375), latches (R219), poison and residue checks (R75, R266), and dependencies (R139). -/
namespace Sys2Proof.Machine

/-- An issue: the group, the lanes of the entry, the active ones, the word's PC and the address of its first hint, the XM
payload and the XWs, the position in a hold window (0 outside one) and whether it is the last, the race history and the GTB at
its start (R134), and s0 to s15, which are read once per issue (R166, R217). -/
structure Iss where
  gid   : Nat
  lanes : List Nat
  act   : List Nat
  pc    : DWord
  first : DWord
  xm    : Nat
  hasXm : Bool
  xw    : List (BitVec 23)
  pos   : Nat
  last  : Bool
  hist  : List (Loc × Hist)
  time  : Nat
  us    : List RegWord
  deriving DecidableEq, Repr

/-- The XM payload that stands where no XM does: no predicate, no fourth operand (R227). -/
def xmNone : Nat := 12 * 2 ^ 11 + 127 * 2 ^ 3

def Iss.rm (x : Iss) : Nat := bits x.xm 20 3
def Iss.sat (x : Iss) : Bool := bit x.xm 19
def Iss.na (x : Iss) : Bool := bit x.xm 18
def Iss.aa (x : Iss) : Bool := bit x.xm 17
def Iss.nb (x : Iss) : Bool := bit x.xm 16
def Iss.ab (x : Iss) : Bool := bit x.xm 15
def Iss.pred (x : Iss) : Nat := bits x.xm 11 4
def Iss.pol (x : Iss) : Bool := bit x.xm 10
def Iss.opd (x : Iss) : Nat := bits x.xm 3 7
def Iss.scope (x : Iss) : Nat := bits x.xm 0 3

/-- The value a source code 127 takes (R226). -/
def Iss.xwValue (x : Iss) : Int :=
  match x.xw with
  | [p] => p.toInt
  | p :: q :: _ => sext 46 (p.toNat * 2 ^ 23 + q.toNat)
  | [] => 0

/-- The value of an imm9 with its XWs (R226). -/
def Iss.imm (x : Iss) (i : BitVec 9) : Int :=
  match x.xw with
  | [] => i.toInt
  | [p] => sext 32 (p.toNat * 2 ^ 9 + i.toNat)
  | p :: q :: _ => sext 55 (p.toNat * 2 ^ 32 + q.toNat * 2 ^ 9 + i.toNat)

/-- The fourth operand as an operand of n registers (R228). -/
def Iss.opdOperand (x : Iss) (n : Nat) : Operand := { cls := .src, code := x.opd, n := n, read := true, write := false }

/-- The fourth operand of an instruction: a start time is an even s pair (R369). -/
def Iss.opdFor (x : Iss) (i : Instr) : Operand :=
  let o := x.opdOperand i.opdWidth
  match i with
  | .cpy .. | .cpym .. | .gath .. | .scat .. | .coll .. => { o with cls := .sPair }
  | _ => o

/-- One value given to n registers: the 64-bit value pair by pair, or its low word to each (R218). -/
def spread (n : Nat) (v : Nat) (w64 : Bool) : List Word :=
  (List.range n).map fun i => BitVec.ofNat 32 (if w64 then (if i % 2 == 0 then v else v / 2 ^ 32) else v)

/-- The group of an issue. -/
def groupM (x : Iss) : M Group := do
  let s ← getS
  match s.group? x.gid with
  | some g => pure g
  | none => err (.stall .exec)

def threadM (x : Iss) (lane : Nat) : M Thread := do
  let g ← groupM x
  match g.thread? lane with
  | some t => pure t
  | none => err (.stall .exec)

def updG (x : Iss) (f : Group → Group) : M Unit := modS fun s => s.updGroup x.gid f
def updT (x : Iss) (lane : Nat) (f : Thread → Thread) : M Unit := modS fun s => s.updThread x.gid lane f

/-- The dimensions, direction and space of a stream descriptor (R373). -/
def streamDims (d : List DWord) : Nat := bits (d.getD 1 0#64).toNat 50 2 + 1
def streamSp (d : List DWord) : Bool := bit (d.getD 1 0#64).toNat 49
def streamDir (d : List DWord) : Bool := bit (d.getD 1 0#64).toNat 48

/-- The extent and the stride of a dimension (R373): a count of 0 means 4,096. -/
def streamCount (d : List DWord) (i : Nat) : Nat :=
  let c := bits (d.getD 1 0#64).toNat (12 * i) 12
  if c == 0 then 4096 else c
def streamStride (d : List DWord) (i : Nat) : Int := sext 32 (bits (d.getD (2 + i / 2) 0#64).toNat (32 * (i % 2)) 32)

/-- A bad descriptor (R373). -/
def streamBad (d : List DWord) : Bool :=
  let w1 := (d.getD 1 0#64).toNat
  let base := (d.getD 0 0#64).toNat
  bits w1 52 12 != 0 || base % 4 != 0 || (streamSp d && base / 2 ^ 32 != 0)
    || (List.range 4).any (fun i => streamStride d i % 4 != 0
        || (streamDims d ≤ i && (bits w1 (12 * i) 12 != 0 || streamStride d i != 0)))

/-- The number of words of a stream, and the byte offset of word n (R374). -/
def streamTotal (d : List DWord) : Nat := (List.range (streamDims d)).foldl (fun n i => n * streamCount d i) 1
def streamOffset (d : List DWord) (n : Nat) : Int :=
  ((List.range (streamDims d)).foldl (fun (a : Nat × Int) i =>
    (a.1 / streamCount d i, a.2 + (a.1 % streamCount d i : Nat) * streamStride d i)) (n, 0)).2

/-- An unbound queue, and the number of words a queue holds (R375). -/
def Queue.empty : Queue := { stream := none, words := [], dir := false, status := 0, unit := none, struck := false, ended := none }
def Queue.cap (q : Queue) : Nat := if q.unit.isSome then 2048 else 128

/-- Words of a store stream that may still be pushed. -/
def Queue.room (q : Queue) (t : Stream) : Nat := streamTotal t.desc - t.moved - q.words.length

/-- The queues staged in a bank of a core, in the order of their units. -/
def State.stagedQueues (s : State) (c b : Nat) : List (Nat × Nat) :=
  ((s.groups.filter fun p => p.2.core == c && !p.2.exited).map fun p =>
    (p.2.queues.filter fun q => q.2.unit == some b).map fun q => (p.1, q.1)).flatten

/-- The bank word, numbered over the core's banks, at which a queue's staging unit begins (R72); none for the private buffer. -/
def State.stageBase (s : State) (c gid q : Nat) (k : Queue) : Option Nat :=
  k.unit.map fun b => 32768 * b + 2048 * ((s.stagedQueues c b).findIdx fun p => p == (gid, q))

/-- The word of its unit that holds queued word j: words take the unit in turn. -/
def Queue.place (k : Queue) (j : Nat) : Nat :=
  let first := match k.stream.orElse fun _ => k.ended with
    | some t => if k.dir then t.moved else t.moved - k.words.length
    | none => 0
  (first + j) % 2048

/-- Which of the first n queued words a read finds uncorrectable (R76). -/
def State.queueBad (s : State) (c gid q : Nat) (k : Queue) (n : Nat) : List Nat :=
  match s.stageBase c gid q k with
  | none => []
  | some b => (List.range n).filter fun j => 2 ≤ (s.core c).soft.get 0 (b + k.place j)

/-- The first n queued words are read: single-bit errors are corrected and counted (R76). -/
def State.queueRead (s : State) (c gid q : Nat) (k : Queue) (n : Nat) : State :=
  match s.stageBase c gid q k with
  | none => s
  | some b => (List.range n).foldl (fun s j => s.softRead c (b + k.place j) 1 fun _ s => s) s

/-- n words are written behind those queued: no error of theirs is left. -/
def State.queueWrite (s : State) (c gid q : Nat) (k : Queue) (n : Nat) : State :=
  match s.stageBase c gid q k with
  | none => s
  | some b => (List.range n).foldl (fun s j => s.softClear c (b + k.place (k.words.length + j)) 1) s

/-- Pop n words of queue q (R375): while its stream is bound, an uncorrectable word of the unit waits for the stream to end (R76). -/
def popQueue (x : Iss) (q n : Nat) : M (List RegWord) := do
  let g ← groupM x
  let s ← getS
  let k := g.queues.get .empty q
  let bad := s.queueBad g.core x.gid q k n
  if !k.dir && n ≤ k.words.length && !k.struck && (bad.isEmpty || k.stream.isNone) then do
    modS fun s => s.queueRead g.core x.gid q k n
    updG x fun g => { g with queues := g.queues.set q { k with words := k.words.drop n } }
    pure (((k.words.take n).zipIdx).map fun w => if bad.contains w.2 then poisonWord else w.1.reg)
  else match k.stream with
    | some _ => if k.dir then raise .engfault (BitVec.ofNat 64 q) else wait .stream
    | none => raise .engfault (BitVec.ofNat 64 q)

/-- Push words to queue q (R375): past its last word a store stream has ended. -/
def pushQueue (x : Iss) (q : Nat) (ws : List RegWord) : M Unit := do
  let g ← groupM x
  let k := g.queues.get .empty q
  match k.stream with
  | some t =>
    if !k.dir || k.room t < ws.length then raise .engfault (BitVec.ofNat 64 q)
    else if k.cap < k.words.length + ws.length then wait .stream
    else do
      modS fun s => s.queueWrite g.core x.gid q k ws.length
      updG x fun g => { g with queues := g.queues.set q { k with words := k.words ++ ws.map (·.queued) } }
  | none => raise .engfault (BitVec.ofNat 64 q)

/-- The words an operand gives a lane, unchecked (R217, R218). -/
def readRaw (x : Iss) (lane : Nat) (o : Operand) (w64 : Bool) : M (List RegWord) := do
  let g ← groupM x
  let c := o.code
  let value (v : Nat) : List RegWord := (spread o.n v w64).map regWord
  if c < 96 then pure ((List.range o.n).map fun i => g.getV lane (c + i))
  else if c < 100 then do
    let t ← threadM x lane
    pure ((t.latches.getD (c - 96) { val := 0#64, par := 0#8, dep := [] }).words o.n)
  else if c < 104 then popQueue x (c - 100) o.n
  else if c < 120 then pure ((List.range o.n).map fun i => x.us.getD (c - 104 + i) zeroWord)
  else do
    let s ← getS
    match c with
    | 120 => pure (value 0)
    | 121 => pure (value lane)
    | 122 => pure (value g.gix)
    | 123 => pure (value (((s.wgs.look g.wg).map (·.wix)).getD 0))
    | 124 => pure (value (s.time % 2 ^ 32))
    | _ => pure (value (wrap 64 x.xwValue))

/-- The operand code of register i of an operand, as TVAL names it (R75). -/
def Operand.codeAt (o : Operand) (i : Nat) : Nat := if o.code < 96 || (104 ≤ o.code && o.code < 120) then o.code + i else o.code

/-- The first word of the operands that `bad` picks: its operand code. -/
def firstBad (bad : RegWord → Bool) (os : List (Operand × List RegWord)) : Option Nat :=
  os.findSome? fun p => (p.2.zipIdx.find? fun w => bad w.1).map fun w => p.1.codeAt w.2

/-- POISON on any source, then REGERR (R75, R266). -/
def checkWords (os : List (Operand × List RegWord)) : M Unit := do
  match firstBad RegWord.poisoned os with
  | some c => raise .poison (BitVec.ofNat 64 c)
  | none => pure ()
  match firstBad RegWord.bad os with
  | some c => raise .regerr (BitVec.ofNat 64 c)
  | none => pure ()

/-- Read the operands of a lane, checked: their words. -/
def readOps (x : Iss) (lane : Nat) (os : List (Operand × Bool)) : M (List (List Word)) := do
  let raw ← M.mapEach (fun (o : Operand × Bool) => readRaw x lane o.1 o.2) os
  checkWords ((os.map (·.1)).zip raw)
  pure (raw.map fun ws => ws.map (·.val))

/-- What the value in an operand knows of other threads' regions (R139). -/
def depOf (g : Group) (lane : Nat) (o : Operand) : NMap Nat :=
  if o.code < 96 then (List.range o.n).foldl (fun d i => joinClock d (g.vdeps.get [] ((o.code + i) * 32 + lane))) []
  else if o.code < 100 then (((g.thread? lane).bind fun t => t.latches[o.code - 96]?).map (·.dep)).getD []
  else if 104 ≤ o.code && o.code < 120 then
    (List.range o.n).foldl (fun d i => joinClock d (g.sdeps.get [] ((o.code - 104 + i) * 32 + lane))) []
  else []

/-- What a uniform register's value knows of other regions, by the lane whose load it depends on: another thread gains nothing by it. -/
def sDep (g : Group) (k : Nat) : NMap (NMap Nat) := (g.sdeps.filter fun p => p.1 / 32 == k).map fun p => (p.1 % 32, p.2)

def joinDeps (a b : NMap (NMap Nat)) : NMap (NMap Nat) := b.foldl (fun m p => m.set p.1 (joinClock (m.get [] p.1) p.2)) a

/-- Set what a uniform register's value knows. -/
def setSDep (m : NMap (NMap Nat)) (k : Nat) (d : NMap (NMap Nat)) : NMap (NMap Nat) :=
  (d.filter fun p => !p.2.isEmpty).foldl (fun m p => m.set (k * 32 + p.1) p.2) (m.filter fun p => p.1 / 32 != k)

def setDep (m : NMap (NMap Nat)) (k : Nat) (d : NMap Nat) : NMap (NMap Nat) := if d.isEmpty then m.del k else m.set k d

/-- Write the words of a destination of a lane with what they depend on (R217, R139).  A v register, queue or discard destination
shifts the latches, y0 taking the low 64 bits (R219). -/
def writeDst (x : Iss) (lane : Nat) (o : Operand) (ws : List RegWord) (dep : NMap Nat := []) : M Unit := do
  if o.code < 96 then
    updG x fun g => (ws.zipIdx).foldl (fun g w =>
      let g := g.setV lane (o.code + w.2) w.1
      { g with vdeps := setDep g.vdeps ((o.code + w.2) * 32 + lane) dep }) g
  else if 100 ≤ o.code && o.code < 104 then pushQueue x (o.code - 100) ws
  else if 104 ≤ o.code && o.code < 120 then
    updG x fun g => (ws.zipIdx).foldl (fun g w =>
      let g := g.setS (o.code - 104 + w.2) w.1
      { g with sdeps := setSDep g.sdeps (o.code - 104 + w.2) [(lane, dep)] }) g
  else pure ()
  if o.code < 104 || o.code == 127 then
    updT x lane fun t => t.shift (dword ((ws.getD 0 zeroWord).val) ((ws.getD 1 zeroWord).val)) dep

/-- Write values with regenerated residues. -/
def writeVals (x : Iss) (lane : Nat) (o : Operand) (ws : List Word) (dep : NMap Nat := []) : M Unit :=
  writeDst x lane o (ws.map regWord) dep

/-- How a result's residue is formed (R74): predicted from the operands' and checked, forwarded with an operand's value, regenerated
from the result, regenerated after the check of the significand product, or a quotient by `b`, whose check multiplies it by b. -/
inductive ResClass where
  | predicted | forwarded | regenerated | product
  | quotient (signed : Bool) (b : Int)
  deriving DecidableEq, Repr

/-- The residue coverage of an instruction (R74). -/
def resClass : Instr → ResClass
  | .iadd .. | .isub .. | .iadds .. | .isubs .. | .iaddi .. | .iabs .. | .ineg .. | .notR .. | .lea .. | .leas .. | .sadd .. | .ssub ..
  | .slea .. => .predicted
  | .imul .. | .imulhI32 .. | .imulhN32 .. | .imad .. | .imuli .. | .dp4 .. | .dp2 .. | .smul .. | .idiv .. | .irem .. => .predicted
  | .shl .. | .shr .. | .sar .. | .rotl .. | .shli .. | .shri .. | .sari .. | .rotli .. | .sshl .. | .sshr .. | .ssar .. | .srotl .. => .predicted
  | .lfold _ _ _ o _ => if o == 0#7 then .predicted else .regenerated
  | .imin .. | .imax .. | .imini .. | .imaxi .. | .sel .. | .mov .. | .lxch .. | .smov .. | .smin .. | .smax .. | .sminn .. | .smaxn ..
  | .ssel .. | .vrd .. | .vwr .. => .forwarded
  | .fmul .. | .fmac .. | .hmul2 .. | .hmac2 .. | .bmul2 .. | .bmac2 .. => .product
  | _ => .regenerated

/-- TVAL of a prediction mismatch (R75). -/
def predictionTval : DWord := 0x17F#64

/-- What the arithmetic gives for a result whose bits `flips` a soft error inverts (R73, R74): the first register's. -/
def struckWords (flips : Word) (ws : List Word) : List Word :=
  match ws with
  | [] => []
  | v :: vs => (v ^^^ flips) :: vs

/-- The registers a result makes of the words the arithmetic gives, `ws` being the right ones; none where the check of R74 finds the
error: the residue of the right result, which R73 predicts from the operands' residues, is not that of the actual one.  Of a quotient q
it is q·b + r that has to be the dividend's. -/
def checkedResult (cls : ResClass) (ws got : List Word) : Option (List RegWord) :=
  let caught := (ws.zip got).any fun p => (regWord p.1).res != (regWord p.2).res
  match cls with
  | .predicted | .product => if caught then none else some (got.map regWord)
  | .quotient signed b =>
    let first (l : List Word) : Int := if signed && l.length == 1 then (l.getD 0 0#32).toInt else (l.getD 0 0#32).toNat
    if (first got - first ws) * b % 127 != 0 then none else some (got.map regWord)
  | .forwarded => some ((ws.zip got).map fun p => { val := p.2, res := (regWord p.1).res })
  | .regenerated => some (got.map regWord)

/-- The arithmetic's result for a lane, lane 32 the uniform one (R73 to R75): a soft error strikes one result; of a floating-point
multiply it may strike the significand product, which is checked, or what follows it, which is not (log entry 88). -/
def resultOf (x : Iss) (lane : Nat) (cls : ResClass) (ws : List Word) : M (List RegWord) := do
  let g ← groupM x
  let flips := g.upset.get 0#32 lane
  if flips == 0#32 then pure (ws.map regWord)
  else do
    updG x fun g => { g with upset := g.upset.del lane }
    let cls ← (if cls == .product then do
        let (n, s) := (← getS).takeFree
        modS fun _ => s
        pure (if Config.arrival n % 2 == 0 then .product else .regenerated)
      else pure cls)
    match checkedResult cls ws (struckWords flips ws) with
    | some rs => pure rs
    | none => raise .regerr predictionTval

/-- Write the result of an instruction of a residue class (R74, R75). -/
def writeRes (x : Iss) (lane : Nat) (cls : ResClass) (o : Operand) (ws : List Word) (dep : NMap Nat := []) : M Unit := do
  let rs ← resultOf x lane cls ws
  writeDst x lane o rs dep

/-- The bytes of a register list as a number, and a number as n registers, low word first (R63, R300). -/
def wordsNat (ws : List Word) : Nat := ws.foldr (fun w n => w.toNat + 2 ^ 32 * n) 0
def natWords (n v : Nat) : List Word := (List.range n).map fun i => BitVec.ofNat 32 (v / 2 ^ (32 * i))

end Sys2Proof.Machine
end

