-- ==== Sys2Proof/Machine/Issue.lean ====
section
/-! DEFINITION. Issuing an instruction for a frontier entry: legality (R220, R221, R224 to R231, R64), late traps (R404),
watchpoints (R440), per-thread and once-per-issue execution (R166, R266, R298), and what it leaves (R35, R402, R222). -/
namespace Sys2Proof.Machine

/-- Where a thread stands after an instruction: at the next word, at another PC, still at the instruction (a blocking wait),
or nowhere. -/
inductive LaneEnd where
  | next
  | goto (pc : DWord)
  | stay
  | exit
  deriving DecidableEq, Repr

/-- What an issue made of a lane. -/
inductive LaneOut where
  | ok (e : LaneEnd)
  | err (e : AErr)
  deriving DecidableEq, Repr

/-- Whether a mask may be given by a comparison's combine code without reading it (R273, R284): code 0 sets. -/
def maskReads : Instr → List Nat
  | .icmp _ _ m _ _ o | .fcmp _ _ m _ _ o => if o == 0#2 then [] else [128 + m.toNat]
  | .icmpi o _ m _ _ => if o == 0#2 then [] else [128 + m.toNat]
  | _ => []
def maskWrites : Instr → List Nat
  | .icmp _ _ m .. | .fcmp _ _ m .. | .icmpi _ _ m .. => [128 + m.toNat]
  | _ => []

/-- The operands an instruction reads: of b, LEAS reads the low word alone (R276). -/
def readsOf : Instr → List Operand
  | .leas _ a b _ => [oSrc a 2, oSrc b 1]
  | i => i.operands.filter (·.read)

/-- Registers an instruction reads and writes, by operand code, masks from 128 (R221). -/
def codesOf (os : List Operand) : List Nat := (os.map fun o => rangeFrom o.code (if o.code < 120 then o.n else 1)).flatten
def isReg (c : Nat) : Bool := c < 96 || (104 ≤ c && c < 120) || 128 ≤ c
def regsRead (i : Instr) (x : Iss) : List Nat :=
  (codesOf (readsOf i) ++ (if x.opd == 127 then [] else codesOf [x.opdFor i])
    ++ maskReads i ++ (if x.pred < 12 then [128 + x.pred] else [])).filter isReg
def regsWritten (i : Instr) : List Nat := (codesOf (i.operands.filter (·.write)) ++ maskWrites i).filter isReg

/-- A shifting instruction (R219), with whether it marks y0 wide. -/
def shifting (i : Instr) : Option Bool :=
  (i.operands.find? fun o => o.write && (o.code < 96 || (100 ≤ o.code && o.code < 104) || o.code == 127)).map fun o => decide (4 ≤ o.n)

/-- The source and destination codes of an instruction, its fourth operand among them. -/
def allOperands (i : Instr) (x : Iss) : List Operand :=
  i.operands ++ (if i.mods.opd && x.opd != 127 then [x.opdFor i] else [])

/-- Whether an instruction needs the fourth operand (R274). -/
def needsOpd : Instr → Bool
  | .sel .. => true
  | _ => false

/-- Modifiers set on an instruction that does not accept them (R228, R265, reason 0x09; where the two differ, log entry 82): OPD only where the description names a
fourth operand of its own, or with RM = 6, which needs it, as SEL does. -/
def modsBad (i : Instr) (x : Iss) : Option Nat :=
  let m := i.mods
  if (x.rm != 0 && !m.rm) || (x.sat && !m.sat) || ((x.na || x.aa || x.nb || x.ab) && !m.ab) || (x.opd != 127 && !(m.opd && (m.own || x.rm == 6)))
      || (x.pred != 12 && !m.pred) || (x.scope != 0 && !m.scope) || ((x.rm == 6 || needsOpd i) && x.opd == 127) then some 0x09
  else none

/-- Breaches of the XW rules (R217, R226): an XW with nothing to extend, or a code 127 without one. -/
def xwBad (i : Instr) (x : Iss) : Option Nat :=
  if x.xw.isEmpty then (if i.uses127 then some 0x04 else none)
  else if i.takesXw || i.uses127 then none else some 0x06

/-- Latch reads (R221, reason 0x08) and hold window breaches (R220, R221, reason 0x07). -/
def windowBad (i : Instr) (x : Iss) (w : Option Window) : Option Nat :=
  let codes := (allOperands i x).map (·.code)
  let latches := codes.filter fun c => 96 ≤ c && c < 100
  if x.pos == 0 then (if latches.isEmpty then none else some 0x08)
  else
    let shifts := (w.map (·.shifts)).getD []
    let reads := (w.map (·.reads)).getD []
    let rd := reads ++ regsRead i x
    if !i.windowOk || codes.any (fun c => 100 ≤ c && c < 104) || (!x.last && (regsWritten i).any fun c => rd.contains c) then
      some 0x07
    else if latches.any (fun c => (shifts[c - 96]?).getD true) then some 0x08
    else none

/-- An immediate that is no shift count, with its XWs (R277, R291, reason 0x03). -/
def immBad (i : Instr) (x : Iss) : Option Nat :=
  let count (j : BitVec 9) : Option Nat := if wrap 32 (x.imm j) < 32 then none else some 0x03
  match i with
  | .shli _ _ j | .shri _ _ j | .sari _ _ j | .rotli _ _ j => count j
  | .sshl _ _ k y | .sshr _ _ k y | .ssar _ _ k y | .srotl _ _ k y => if k == 1#1 then count y else none
  | _ => none

/-- The uniform majors, LDU and STU, and the system majors accept no XM at all (R291, R298, R333). -/
def acceptsNoXm : Instr → Bool
  | .sadd .. | .ssub .. | .smul .. | .smin .. | .smax .. | .sminn .. | .smaxn .. | .sand .. | .sor .. | .sxor .. | .sshl ..
  | .sshr .. | .ssar .. | .srotl .. | .smov .. | .smovi .. | .scmp .. | .ssel .. | .vrd .. | .vwr .. | .slea .. => true
  | .ldu .. | .stu .. => true
  | .csrr .. | .csrw .. | .csrs .. | .csrc .. | .role .. | .pstat .. | .sysc _ | .eret | .halt | .btinv .. | .tfence .. | .ctxsv _
  | .ctxld _ => true
  | _ => false
def xmBad (i : Instr) (x : Iss) : Option Nat := if x.hasXm && acceptsNoXm i then some 0x09 else none

/-- A v register at or above the window's count (R64, reason 0x0A). -/
def countBad (i : Instr) (x : Iss) (g : Group) : Option Nat :=
  let extra := match i with
    | .vrd _ _ j | .vwr _ _ j => [j.toNat]
    | _ => []
  let vs := ((codesOf (allOperands i x)).filter fun c => c < 96) ++ extra
  if (allOperands i x).any (fun o => o.code < 96 && 96 < o.code + o.n) || vs.any fun c => !g.hasV c then some 0x0A else none

/-- The ILLOP reason of an instruction as it stands in an issue: the lowest that applies. -/
def issueBad (i : Instr) (x : Iss) (g : Group) : Option Nat :=
  [i.illegal, ((if i.mods.opd && x.opd != 127 then (x.opdFor i).bad else none)), xwBad i x, windowBad i x g.window,
    modsBad i x, countBad i x g, immBad i x, xmBad i x].foldl bothBad none

/-- The mask registers an instruction reads in an issue: its predicate, and the masks it names as sources (R66, R227). -/
def masksRead (i : Instr) (x : Iss) : List Nat :=
  (if x.pred < 12 then [x.pred] else []) ++ (maskReads i).map (· - 128) ++ match i with
    | .bra m _ _ => if m == 12#4 then [] else [m.toNat]
    | .join m | .leave m | .waitm m => [m.toNat]
    | .mand _ a b | .mor _ a b | .mxor _ a b => [a.toNat, b.toNat]
    | .mnot _ a | .mmov _ a => [a.toNat]
    | _ => []

/-- The first of them whose parity does not match (R66). -/
def maskBad (i : Instr) (x : Iss) (g : Group) : Option Nat := (masksRead i x).find? fun m => g.maskPar.get 0#4 m != 0#4

/-- The group that issues and the lanes of its entry. -/
def State.issuer (s : State) : Option (Nat × Group × List Nat) :=
  match s.cur with
  | none => none
  | some gid =>
    match s.group? gid with
    | none => none
    | some g =>
      match s.entry g with
      | [] => none
      | l :: ls => some (gid, g, l :: ls)

/-- The issue of a non-hint word by an entry (R166, R220, R224, R227). -/
def State.issueOf (s : State) (gid : Nat) (g : Group) (lanes : List Nat) : Iss :=
  let t := (g.thread? (lanes.headD 0))
  let pc := (t.map (·.pc)).getD 0#64
  let h := t.bind (·.hint)
  let xm := ((h.bind (·.xm)).map (·.toNat)).getD xmNone
  let pred := bits xm 11 4
  let m := g.mask pred
  -- a thread whose blocking wait has ended passed its predicate when the wait began
  let waits (l : Nat) : Bool := ((g.thread? l).map (·.wait.isSome)).getD false
  let act := if pred < 12 then lanes.filter fun l => bit m.toNat l != bit xm 10 || waits l else lanes
  let opens := h.bind (·.xh)
  let pos := match g.window with
    | some w => w.pos + 1
    | none => if opens.isSome then 1 else 0
  let len := match g.window with
    | some w => w.left + w.pos
    | none => ((opens.map fun c => c.toNat + 1)).getD 0
  { gid := gid, lanes := lanes, act := act, pc := pc, first := (h.map (·.first)).getD pc, xm := xm,
    hasXm := (h.bind (·.xm)).isSome,
    xw := (h.map (·.xw)).getD [], pos := pos, last := pos == len, hist := s.mem.hist, time := s.time,
    us := (List.range 16).map g.getS }

/-- The address of the XH of the window the issue stands in. -/
def Iss.xhOf (x : Iss) (g : Group) : DWord := (g.window.map (·.xh)).getD x.first

/-- ILLOP for every thread of the entry (R230, R231): the word and the reason.  A thread with a late trap due there meets that first
(R404). -/
def State.illop (s : State) (gid : Nat) (g : Group) (lanes : List Nat) (first : DWord) (word reason : Nat) (late : NMap LaneTrap := []) :
    State :=
  let inWin := g.window.isSome
  let t : LaneTrap := { trapOf .illop (BitVec.ofNat 64 (word + reason * 2 ^ 32)) with
    extra := if inWin then first else 0#64, hold := inWin }
  let back (p : Nat × Thread) : Nat × Thread := if lanes.contains p.1 then (p.1, { p.2 with hint := none, pc := first }) else p
  let s := s.updGroup gid fun g => { g with threads := g.threads.map back }
  s.takeTrap gid (lanes.map fun l => (l, (late.look l).getD t)) ((g.window.map (·.xh)).getD first)

/-- The watchpoints in force that a region's accesses can match (R440): address, length and selector bits. -/
def State.watchpoints (s : State) (r : Nat) : List (Nat × Nat × Nat) :=
  (List.range 16).filterMap fun n =>
    let b := s.reg 0 (.dbgwpb n)
    if bit b 63 && bits b 0 32 != 0 && (s.chain 17 r).contains (bits b 40 20) then some (s.reg 0 (.dbgwpa n), bits b 0 32, bits b 60 3) else none

/-- Whether an access of a kind (bit 0 reads, 1 writes, 2 execution) matches a watchpoint: its address A (R440). -/
def State.watchHit (s : State) (r a n kind : Nat) : Option Nat :=
  ((s.watchpoints r).find? fun w => bit w.2.2 kind && a < w.1 + w.2.1 && w.1 < a + n).map (·.1)

/-- A lane's pending late trap, the earliest (R404): it stays pending until it is taken (Thread.delivered). -/
def State.lateOf (s : State) (gid lane : Nat) : Option LaneTrap :=
  match (s.thread? gid lane).map (·.late) with
  | some (l :: _) => some { trapOf l.cause l.tval with late := true }
  | _ => none

/-- The late traps due to lanes that are active at an SFR-ending instruction (R404). -/
def State.lateTraps (s : State) (i : Instr) (gid : Nat) (act : List Nat) : NMap LaneTrap :=
  if i.endsSfr then act.filterMap fun l => (s.lateOf gid l).map (l, ·) else []

/-- Run a lane, its queues put back when it does not complete (R402). -/
def runLane (x : Iss) (lane : Nat) (body : Nat → M LaneEnd) (s : State) : LaneOut × State :=
  match body lane s with
  | .ok e t => (.ok e, t)
  | .error e t => (.err e, t.updGroup x.gid fun g => { g with queues := ((s.group? x.gid).map (·.queues)).getD g.queues })

/-- Run the lanes in ascending order (R134, R166): behind one that has to wait for memory or a resource the others wait too. -/
def runLanes (x : Iss) (body : Nat → M LaneEnd) : List Nat → State → List (Nat × LaneOut) × State
  | [], s => ([], s)
  | l :: ls, s =>
    match runLane x l body s with
    | (.err (.stall r), s) => ((l :: ls).map (·, .err (.stall r)), s)
    | (o, s) =>
      let (os, s) := runLanes x body ls s
      ((l, o) :: os, s)

/-- The trap an error of a lane is, marked with the window it was met in (R222, R403). -/
def outTrap (x : Iss) : LaneOut → Option LaneTrap
  | .err e => (e.toTrap 0#64).map fun t => { t with hold := t.hold || x.pos != 0 }
  | _ => none

/-- A lane that completed. -/
def doneThread (x : Iss) (e : LaneEnd) (ends : Bool) (t : Thread) : Thread :=
  let keep : Bool := x.pos != 0 && !x.last && (t.feb.map (·.hold)).getD false
  let t := { t with feb := if keep then t.feb else none, memwait := false, began := none, nowatch := false,
                    sfr := if ends then t.sfr + 1 else t.sfr }
  match e with
  | .next => { t with pc := x.pc + 4#64, hint := none, wait := none }
  | .goto pc => { t with pc := pc, hint := none, wait := none }
  | .stay => t
  | .exit => { t with exited := true, hint := none, wait := none }

/-- What an outcome leaves of a lane's thread, traps aside. -/
def outThread (x : Iss) (ends : Bool) (now : Nat) (t : Thread) : LaneOut → Thread
  | .ok e => doneThread x e ends t
  | .err (.stall r) => { t with memwait := t.memwait || r == .memdep, began := some (t.execution x.time) }
  | .err (.feb wg addr) =>
    { t with began := some (t.execution x.time)
             feb := some (match t.feb with
               | some f => { f with wg := wg, addr := addr }
               | none => { since := now, wg := wg, addr := addr, hold := false, lines := [] }) }
  | .err (.fault ..) => { t with began := some (t.execution x.time) }
  | .err _ => t

/-- The stall reason an issue leaves its group under. -/
def outStall (os : List (Nat × LaneOut)) : Option Stall :=
  os.findSome? fun p => match p.2 with
    | .err (.stall r) => some r
    | .err (.feb _ _) => some .feb
    | _ => none

/-- Park the lanes that met a page fault (R35), the trap a FAIL gives them kept with the record's number. -/
def parkLanes (x : Iss) (w : Who) (os : List (Nat × LaneOut)) (s : State) : State :=
  os.foldl (fun s p =>
    match p.2 with
    | .err (.fault sub root va bufidx cls h) =>
      let (id, s) := s.park w.basin w.region w.master root va bufidx cls sub
      let t : LaneTrap := { trapOf .pagefault (BitVec.ofNat 64 h) with
        sub := sub, extra := BitVec.ofNat 64 va, hold := x.pos != 0 }
      s.updThread x.gid p.1 fun th => { th with park := some (id, t) }
    | _ => s) s

/-- The window after an instruction at position x.pos: closed with its last, else one further (R220, R221). -/
def stepWindow (i : Instr) (x : Iss) (g : Group) (gone : List Nat) : Option Window :=
  if x.pos == 0 || x.last then none
  else
    let old := g.window.getD { xh := x.first, left := 0, pos := 0, lanes := maskOfLanes x.lanes, reads := [], shifts := [] }
    let total := match g.window with
      | some w => w.left + w.pos
      | none => (((g.thread? (x.lanes.headD 0)).bind (·.hint)).bind (·.xh)).elim 1 (fun c => c.toNat + 1)
    let lanes := old.lanes &&& ~~~(maskOfLanes gone)
    if lanes == 0#32 then none
    else some { xh := old.xh, left := total - x.pos, pos := x.pos, lanes := lanes, reads := old.reads ++ regsRead i x,
                shifts := match shifting i with
                  | some w => w :: old.shifts
                  | none => old.shifts }

/-- The latch shift of a lane the predicate leaves inactive: its destination's unchanged low 64 bits (R219). -/
def shiftInactive (i : Instr) (x : Iss) (g : Group) : Group :=
  match shifting i, (i.operands.find? (·.write)) with
  | some _, some o =>
    { g with threads := g.threads.map fun p =>
        if x.lanes.contains p.1 && !x.act.contains p.1 then
          let y := if o.code < 96 then dword (g.getV p.1 o.code).val (if 2 ≤ o.n then (g.getV p.1 (o.code + 1)).val else 0#32)
            else 0#64
          (p.1, p.2.shift y)
        else p }
  | _, _ => g

/-- Whether a lane still stands at the instruction for want of memory or of a resource. -/
def unfinished (os : List (Nat × LaneOut)) : Bool :=
  os.any fun p => match p.2 with
    | .err (.stall _) => true
    | _ => false

/-- What an issue leaves: threads moved on, parked or waiting, the window and latches, the traps taken (R35, R220, R222, R402).  While
a lane is unfinished the faulting lanes keep their traps, so that one issue's traps are taken together once the others have
completed. -/
def finish (i : Instr) (x : Iss) (os : List (Nat × LaneOut)) (s : State) : State :=
  match s.group? x.gid with
  | none => s
  | some g0 =>
    let traps : NMap LaneTrap := os.filterMap fun p => (outTrap x p.2).map (p.1, ·)
    let all := os ++ (x.lanes.filter fun l => !(os.map (·.1)).contains l).map fun l => (l, .ok .next)
    let s := s.updGroup x.gid fun g =>
      let g := shiftInactive i x g
      { g with
        stall := outStall os
        window := stepWindow i x g0 traps.keys
        threads := g.threads.map fun p =>
          match NMap.look all p.1 with
          | some o => (p.1, outThread x (i.endsSfr && x.act.contains p.1) (s.clockOf (s.regionOf g0)) p.2 o)
          | none => p }
    let s := parkLanes x (s.whoOf g0) os s
    let tpc := if x.pos == 0 then x.first else x.xhOf g0
    let s :=
      if traps.isEmpty then s
      else if unfinished os then
        let keep (p : Nat × Thread) : Nat × Thread :=
          if (traps.look p.1).isSome then (p.1, { p.2 with failed := traps.look p.1 }) else p
        s.updGroup x.gid fun g => { g with threads := g.threads.map keep }
      else
        -- in an open window the faulting lanes wait for the others to complete it (R222)
        let later := ((s.group? x.gid).bind (·.window)).isSome
        let back (p : Nat × Thread) : Nat × Thread :=
          match traps.look p.1 with
          | some t => (p.1, { p.2 with hint := none, pc := tpc, feb := none, memwait := false, began := none,
                                       failed := if later then some t else p.2.failed })
          | none => p
        let s := s.updGroup x.gid fun g => { g with threads := g.threads.map back }
        if later then s else s.takeTrap x.gid traps tpc
    (s.settleMasks x.gid).colIfBlocked x.gid

/-- Lanes with a trap already decided for them: a FAIL response, a timeout, a fault met while others of the issue were unfinished,
or one met in a window that has since closed. -/
def State.failedLanes (s : State) (gid : Nat) (lanes : List Nat) : NMap LaneTrap :=
  lanes.filterMap fun l => ((s.thread? gid l).bind (·.failed)).map (l, ·)

/-- Take those traps: TPC names the first hint of the instruction. -/
def State.takeFailed (s : State) (x : Iss) (ts : NMap LaneTrap) : State :=
  let back (p : Nat × Thread) : Nat × Thread :=
    match ts.look p.1 with
    | some _ => (p.1, { p.2 with hint := none, pc := x.first })
    | none => p
  let s := s.updGroup x.gid fun g => { g with threads := g.threads.map back }
  s.takeTrap x.gid ts x.first

/-- The start of an issue: a state in which the issue has ended in a trap, or the issue with the lanes that run and the
outcomes already decided (traps kept from before, late traps). -/
def State.begin (s : State) (i : Instr) (gid : Nat) (g : Group) (lanes : List Nat) :
    Except State (Iss × List Nat × List (Nat × LaneOut) × State) :=
  let x := s.issueOf gid g lanes
  let failed := s.failedLanes gid lanes
  let free := lanes.filter fun l => (failed.look l).isNone
  let kept : List (Nat × LaneOut) := failed.map fun p => (p.1, .err (.lane p.2))
  let act := x.act.filter fun l => (failed.look l).isNone
  let late := s.lateTraps i gid act
  if free.isEmpty then .error (s.takeFailed x failed)
  else match issueBad i x g with
  | some reason =>
    .error (if failed.isEmpty then s.illop gid g lanes x.first ((encodeNat i).getD 0) reason late else s.takeFailed x failed)
  | none =>
    let watch := match s.watchHit (s.regionOf g) x.pc.toNat 4 2 with
      | some a => (free.filter fun l => !((g.thread? l).map (·.nowatch)).getD true).map fun l =>
          (l, (late.look l).getD { trapOf .watch (BitVec.ofNat 64 a) with hold := g.window.isSome })
      | none => []
    if !watch.isEmpty then .error (s.takeFailed { x with first := if g.window.isSome then x.xhOf g else x.first } watch)
    else if let some m := maskBad i x g then
      -- a parity mismatch of a mask is every thread's of the entry (R66, log entry 65)
      .error (s.takeFailed { x with first := if g.window.isSome then x.xhOf g else x.first } (free.map fun l =>
        (l, (late.look l).getD { trapOf .regerr (BitVec.ofNat 64 (Config.maskTval m)) with hold := g.window.isSome })))
    else .ok (x, act.filter fun l => (late.look l).isNone, kept ++ late.map fun p => (p.1, .err (.lane p.2)), s)

/-- Run an instruction by a body that gives the outcome of each lane that runs (R263), unless `pre` ends the issue first. -/
def jointlyOr (i : Instr) (pre : Iss → List Nat → State → Option State)
    (body : Iss → List Nat → State → List (Nat × LaneOut) × State) (s : State) : Host.Outcome State Fault Refusal :=
  match s.issuer with
  | none => .fault .noIssuer
  | some (gid, g, lanes) =>
    match s.begin i gid g lanes with
    | .error t => .next t
    | .ok (x, run, outs, t) =>
      match pre x run t with
      | some t => .next t
      | none =>
        let (os, t) := body x run t
        .next (finish i x (outs ++ os) t)

def jointly (i : Instr) (body : Iss → List Nat → State → List (Nat × LaneOut) × State) (s : State) :
    Host.Outcome State Fault Refusal := jointlyOr i (fun _ _ _ => none) body s

/-- Run an instruction per thread (R166, R266, R298). -/
def perThread (i : Instr) (body : Iss → Nat → M LaneEnd) (s : State) : Host.Outcome State Fault Refusal :=
  jointly i (fun x run => runLanes x (body x) run) s

/-- Act once for the lanes `run` (R298): one outcome for them all, a trap, park or stall being every thread's of the entry that
`others` does not answer for. -/
def onceFor (x : Iss) (others : List Nat) (body : List Nat → M LaneEnd) (run : List Nat) (s : State) :
    List (Nat × LaneOut) × State :=
  match run with
  | [] => ([], s)
  | l :: ls =>
    let (o, t) := runLane x l (fun _ => body (l :: ls)) s
    match o with
    | .ok e => ((l :: ls).map (·, .ok e), t)
    | .err e => ((x.lanes.filter fun k => !others.contains k).map (·, .err e), t)

/-- Run an instruction once per issue for its active threads (R298). -/
def oncePer (i : Instr) (body : Iss → List Nat → M LaneEnd) (s : State) : Host.Outcome State Fault Refusal :=
  jointly i (fun x run => onceFor x (x.act.filter fun l => !run.contains l) (body x) run) s

/-- Run a uniform instruction: once, for every thread of the entry (R291, R295). -/
def uniform (i : Instr) (body : Iss → M LaneEnd) (s : State) : Host.Outcome State Fault Refusal :=
  oncePer i (fun x _ => body x) s

end Sys2Proof.Machine
end

