-- ==== Sys2Proof/Machine/Integer.lean ====
section
/-! DEFINITION. The integer instructions, register and immediate form (R263 to R277). -/
namespace Sys2Proof.Machine

/-- The elements of e bits held by the words of an operand, and the words of elements (R218, R264). -/
def elemsOf (e : Nat) (ws : List Word) : List Nat :=
  if e == 64 then (List.range (ws.length / 2)).map fun k => (dword (ws.getD (2 * k) 0#32) (ws.getD (2 * k + 1) 0#32)).toNat
  else ws.map (·.toNat)
def wordsOf (e : Nat) (vs : List Nat) : List Word :=
  if e == 64 then (vs.map fun v => [BitVec.ofNat 32 v, BitVec.ofNat 32 (v / 2 ^ 32)]).flatten
  else vs.map (BitVec.ofNat 32)

/-- The element width of classes W and E (R264). -/
def elemBits (w : BitVec 2) : Nat := if w.toNat % 2 == 1 then 64 else 32

/-- Element k of each operand. -/
def column (e : Nat) (vs : List (List Word)) (k : Nat) : List Nat := vs.map fun ws => (elemsOf e ws).getD k 0

/-- The operands an instruction reads and its destination. -/
def sources (i : Instr) : List Operand := i.operands.filter (·.read)
def destOf (i : Instr) : Option Operand := i.operands.find? (·.write)

/-- What the sources of an instruction know of other regions (R139). -/
def sourceDeps (g : Group) (lane : Nat) (os : List Operand) : NMap Nat := os.foldl (fun d o => joinClock d (depOf g lane o)) []

/-- The residue class of a result (R74): a quotient by zero is its defined result, forwarded. -/
def classOf (i : Instr) (e : Nat) (vs : List (List Word)) : ResClass :=
  let b := (column e vs 0).getD 1 0
  match i with
  | .idiv _ _ _ _ k => if b == 0 then .forwarded else .quotient (k == 0#1) (if k == 0#1 then sext e b else b)
  | .irem .. => if b == 0 then .forwarded else .predicted
  | _ => resClass i

/-- One lane of IntOp (R268): `f` maps the source elements, in the order of the instruction's operands, to the result's. -/
def aluLane (i : Instr) (e : Nat) (f : Iss → List Nat → Nat) (x : Iss) (lane : Nat) : M LaneEnd := do
  let g ← groupM x
  let vs ← readOps x lane ((sources i).map fun o => (o, e == 64))
  match destOf i with
  | some o =>
    writeRes x lane (classOf i e vs) o (wordsOf e ((List.range (o.n * 32 / e)).map fun k => f x (column e vs k)))
      (sourceDeps g lane (sources i))
  | none => pure ()
  pure .next

/-- IntOp (R268). -/
def alu (i : Instr) (e : Nat) (f : Iss → List Nat → Nat) (s : State) : Host.Outcome State Fault Refusal :=
  perThread i (aluLane i e f) s

/-- Clamp to the signed and unsigned range of e bits (R268). -/
def clampS (e : Nat) (v : Int) : Nat := wrap e (max (-(2 ^ (e - 1) : Nat) : Int) (min ((2 ^ (e - 1) : Nat) - 1 : Int) v))
def clampN (e : Nat) (v : Int) : Nat := (max 0 (min ((2 ^ e : Nat) - 1 : Int) v)).toNat

/-- Wrapped, or clamped to the signed range under SAT. -/
def satWrap (x : Iss) (e : Nat) (v : Int) : Nat := if x.sat then clampS e v else wrap e v

/-- The n-th source element. -/
def arg (l : List Nat) (n : Nat) : Nat := l.getD n 0

def intAdd (e : Nat) (x : Iss) (l : List Nat) : Nat := satWrap x e (sext e (arg l 0) + sext e (arg l 1))
def intSub (e : Nat) (x : Iss) (l : List Nat) : Nat := satWrap x e (sext e (arg l 0) - sext e (arg l 1))
def intAddS (e : Nat) (_ : Iss) (l : List Nat) : Nat := clampN e (arg l 0 + arg l 1)
def intSubS (e : Nat) (_ : Iss) (l : List Nat) : Nat := clampN e ((arg l 0 : Int) - arg l 1)
def intMul (e : Nat) (x : Iss) (l : List Nat) : Nat := satWrap x e (sext e (arg l 0) * sext e (arg l 1))
def intMulhS (_ : Iss) (l : List Nat) : Nat := wrap 32 ((sext 32 (arg l 0) * sext 32 (arg l 1)) / 2 ^ 32)
def intMulhN (_ : Iss) (l : List Nat) : Nat := arg l 0 * arg l 1 / 2 ^ 32

/-- IMAD (R268): d, a, b. -/
def intMad (e : Nat) (x : Iss) (l : List Nat) : Nat :=
  satWrap x e (sext e (arg l 1) * sext e (arg l 2) + sext e (arg l 0))

/-- IDIV and IREM (R269). -/
def intDiv (e : Nat) (unsigned : Bool) (l : List Nat) : Nat :=
  let a := arg l 0
  let b := arg l 1
  if b == 0 then 2 ^ e - 1
  else if unsigned then a / b
  else wrap e (Int.tdiv (sext e a) (sext e b))
def intRem (e : Nat) (unsigned : Bool) (l : List Nat) : Nat :=
  let a := arg l 0
  let b := arg l 1
  if b == 0 then a
  else if unsigned then a % b
  else wrap e (Int.tmod (sext e a) (sext e b))

def intMin (e : Nat) (unsigned : Bool) (l : List Nat) : Nat :=
  if (if unsigned then arg l 1 < arg l 0 else sext e (arg l 1) < sext e (arg l 0)) then arg l 1 else arg l 0
def intMax (e : Nat) (unsigned : Bool) (l : List Nat) : Nat :=
  if (if unsigned then arg l 0 < arg l 1 else sext e (arg l 0) < sext e (arg l 1)) then arg l 1 else arg l 0

/-- Shifts of a by the count in b (R270). -/
def countOf (e b : Nat) : Nat := b % (if e == 64 then 64 else 32)
def shiftL (e a k : Nat) : Nat := a * 2 ^ k % 2 ^ e
def shiftR (a k : Nat) : Nat := a / 2 ^ k
def shiftA (e a k : Nat) : Nat := wrap e (sext e a / (2 ^ k : Nat))
def rotateL (e a k : Nat) : Nat := (a * 2 ^ k % 2 ^ e) ||| (a / 2 ^ (e - k))

/-- Counts and reversal (R271). -/
def popCount (e a : Nat) : Nat := ((List.range e).filter fun i => bit a i).length
def leadZeros (e a : Nat) : Nat := if a == 0 then e else e - 1 - Nat.log2 a
def trailZeros (e a : Nat) : Nat := ((List.range e).find? fun i => bit a i).getD e
def bitReverse (e a : Nat) : Nat := (List.range e).foldl (fun n i => n + (if bit a i then 2 ^ (e - 1 - i) else 0)) 0

/-- BFX (R272): `l` is a, b. -/
def bitField (signed : Bool) (l : List Nat) : Nat :=
  let p := bits (arg l 1) 0 5
  let n := min (bits (arg l 1) 8 6) (32 - p)
  if n == 0 then 0
  else
    let v := bits (arg l 0) p n
    if signed then wrap 32 (sext n v) else v

/-- BFI (R272): `l` is d, a, b. -/
def bitInsert (l : List Nat) : Nat :=
  let p := bits (arg l 2) 0 5
  let n := min (bits (arg l 2) 8 6) (32 - p)
  setBits (arg l 0) p n (arg l 1)

/-- BYTSEL (R272): `l` is d, a, b. -/
def byteSelect (l : List Nat) : Nat :=
  let pool := arg l 1 + arg l 2 * 2 ^ 32
  (List.range 4).foldl (fun r j =>
    let c := bits (arg l 0) (5 * j) 5
    let p := bits pool (8 * (c % 8)) 8
    let v := match c / 8 with
      | 0 => p
      | 1 => bitReverse 8 p
      | 2 => if bit p 7 then 0xFF else 0
      | _ => 0
    r + v * 2 ^ (8 * j)) 0

/-- The conditions of R273. -/
def intCond (e : Nat) (c : BitVec 3) (a b : Nat) : Bool :=
  match c.toNat with
  | 0 => a == b
  | 1 => a != b
  | 2 => sext e a < sext e b
  | 3 => sext e a ≤ sext e b
  | 4 => a < b
  | 5 => a ≤ b
  | 6 => a &&& b != 0
  | _ => a &&& b == 0

/-- How a comparison combines with the mask bit (R273). -/
def combine (o : BitVec 2) (m c : Bool) : Bool :=
  match o.toNat with
  | 0 => c
  | 1 => m && c
  | 2 => m || c
  | _ => m != c

/-- Bit l of mask m. -/
def setMaskBit (m : BitVec 32) (l : Nat) (b : Bool) : BitVec 32 :=
  if b then m ||| BitVec.ofNat 32 (2 ^ l) else m &&& ~~~(BitVec.ofNat 32 (2 ^ l))
def writeMaskBit (x : Iss) (lane m : Nat) (o : BitVec 2) (c : Bool) : M Unit :=
  updG x fun g => { g with masks := g.masks.set m (setMaskBit (g.mask m) lane (combine o (bit (g.mask m).toNat lane) c)) }

/-- ICMP for a lane. -/
def icmpLane (i : Instr) (e : Nat) (c : BitVec 3) (m : BitVec 4) (o : BitVec 2) (x : Iss) (lane : Nat) : M LaneEnd := do
  let vs ← readOps x lane ((sources i).map fun p => (p, e == 64))
  let l := column e vs 0
  writeMaskBit x lane m.toNat o (intCond e c (arg l 0) (arg l 1))
  pure .next

/-- SEL for a lane (R274). -/
def selLane (i : Instr) (w : BitVec 2) (t : BitVec 2) (x : Iss) (lane : Nat) : M LaneEnd := do
  let g ← groupM x
  let os := sources i ++ [x.opdOperand (widthN w)]
  let vs ← readOps x lane (os.map fun p => (p, false))
  let pick (l : List Nat) : Nat :=
    let c := arg l 2
    let yes : Bool := match t.toNat with
      | 0 => c != 0
      | 1 => c == 0
      | 2 => bit c 31
      | _ => !bit c 31
    if yes then arg l 0 else arg l 1
  match destOf i with
  | some o =>
    writeRes x lane .forwarded o (wordsOf 32 ((List.range o.n).map fun k => pick (column 32 vs k))) (sourceDeps g lane os)
  | none => pure ()
  pure .next

/-- DP4 and DP2 (R275): k parts of b bits; `l` is d, a, b. -/
def dotProduct (k b : Nat) (unsigned : Bool) (x : Iss) (l : List Nat) : Nat :=
  let part (v i : Nat) : Int := if unsigned then ↑(bits v (b * i) b) else sext b (bits v (b * i) b)
  let sum := (List.range k).foldl (fun (n : Int) i => n + part (arg l 1) i * part (arg l 2) i)
    (if unsigned then ((arg l 0 : Nat) : Int) else sext 32 (arg l 0))
  if x.sat then (if unsigned then clampN 32 sum else clampS 32 sum) else wrap 32 sum

/-- LEA and LEAS for a lane (R276): the offset from the words of b, a register pair of which LEAS uses the low word. -/
def leaLane (i : Instr) (b : Operand) (off : List Word → Int) (x : Iss) (lane : Nat) : M LaneEnd := do
  let g ← groupM x
  let os := (sources i).take 1 ++ [b]
  let raw ← M.mapEach (fun o => readRaw x lane o true) os
  checkWords ((readsOf i).zip (raw.zipWith (fun ws (o : Operand) => ws.take o.n) (readsOf i)))
  let vs := raw.map fun ws => ws.map (·.val)
  let h := (elemsOf 64 (vs.getD 0 [])).getD 0 0
  let r := wrap 64 (h + off (vs.getD 1 []))
  if r / 2 ^ 48 != h / 2 ^ 48 then raise .bufbound (BitVec.ofNat 64 h)
  match destOf i with
  | some o => writeRes x lane .predicted o (wordsOf 64 [r]) (sourceDeps g lane os)
  | none => pure ()
  pure .next

def execIadd (w : BitVec 2) (d a b : BitVec 7) (s : State) : Host.Outcome State Fault Refusal :=
  alu (.iadd w d a b) (elemBits w) (intAdd (elemBits w)) s
def execIsub (w : BitVec 2) (d a b : BitVec 7) (s : State) : Host.Outcome State Fault Refusal :=
  alu (.isub w d a b) (elemBits w) (intSub (elemBits w)) s
def execIadds (w : BitVec 2) (d a b : BitVec 7) (s : State) : Host.Outcome State Fault Refusal :=
  alu (.iadds w d a b) (elemBits w) (intAddS (elemBits w)) s
def execIsubs (w : BitVec 2) (d a b : BitVec 7) (s : State) : Host.Outcome State Fault Refusal :=
  alu (.isubs w d a b) (elemBits w) (intSubS (elemBits w)) s
def execImul (w : BitVec 2) (d a b : BitVec 7) (s : State) : Host.Outcome State Fault Refusal :=
  alu (.imul w d a b) (elemBits w) (intMul (elemBits w)) s
def execImulhI32 (w : BitVec 2) (d a b : BitVec 7) (s : State) : Host.Outcome State Fault Refusal :=
  alu (.imulhI32 w d a b) 32 intMulhS s
def execImulhN32 (w : BitVec 2) (d a b : BitVec 7) (s : State) : Host.Outcome State Fault Refusal :=
  alu (.imulhN32 w d a b) 32 intMulhN s
def execImad (w : BitVec 2) (d a b : BitVec 7) (s : State) : Host.Outcome State Fault Refusal :=
  alu (.imad w d a b) (elemBits w) (intMad (elemBits w)) s
def execIdiv (w : BitVec 2) (d a b : BitVec 7) (k : BitVec 1) (s : State) : Host.Outcome State Fault Refusal :=
  alu (.idiv w d a b k) (elemBits w) (fun _ => intDiv (elemBits w) (k == 1#1)) s
def execIrem (w : BitVec 2) (d a b : BitVec 7) (k : BitVec 1) (s : State) : Host.Outcome State Fault Refusal :=
  alu (.irem w d a b k) (elemBits w) (fun _ => intRem (elemBits w) (k == 1#1)) s
def execImin (w : BitVec 2) (d a b : BitVec 7) (k : BitVec 1) (s : State) : Host.Outcome State Fault Refusal :=
  alu (.imin w d a b k) (elemBits w) (fun _ => intMin (elemBits w) (k == 1#1)) s
def execImax (w : BitVec 2) (d a b : BitVec 7) (k : BitVec 1) (s : State) : Host.Outcome State Fault Refusal :=
  alu (.imax w d a b k) (elemBits w) (fun _ => intMax (elemBits w) (k == 1#1)) s
def execAndR (w : BitVec 2) (d a b : BitVec 7) (s : State) : Host.Outcome State Fault Refusal :=
  alu (.andR w d a b) 32 (fun _ l => arg l 0 &&& arg l 1) s
def execOrR (w : BitVec 2) (d a b : BitVec 7) (s : State) : Host.Outcome State Fault Refusal :=
  alu (.orR w d a b) 32 (fun _ l => arg l 0 ||| arg l 1) s
def execXorR (w : BitVec 2) (d a b : BitVec 7) (s : State) : Host.Outcome State Fault Refusal :=
  alu (.xorR w d a b) 32 (fun _ l => arg l 0 ^^^ arg l 1) s
def execAndn (w : BitVec 2) (d a b : BitVec 7) (s : State) : Host.Outcome State Fault Refusal :=
  alu (.andn w d a b) 32 (fun _ l => arg l 0 &&& (2 ^ 32 - 1 - arg l 1)) s
def execShl (w : BitVec 2) (d a b : BitVec 7) (s : State) : Host.Outcome State Fault Refusal :=
  alu (.shl w d a b) (elemBits w) (fun _ l => shiftL (elemBits w) (arg l 0) (countOf (elemBits w) (arg l 1))) s
def execShr (w : BitVec 2) (d a b : BitVec 7) (s : State) : Host.Outcome State Fault Refusal :=
  alu (.shr w d a b) (elemBits w) (fun _ l => shiftR (arg l 0) (countOf (elemBits w) (arg l 1))) s
def execSar (w : BitVec 2) (d a b : BitVec 7) (s : State) : Host.Outcome State Fault Refusal :=
  alu (.sar w d a b) (elemBits w) (fun _ l => shiftA (elemBits w) (arg l 0) (countOf (elemBits w) (arg l 1))) s
def execRotl (w : BitVec 2) (d a b : BitVec 7) (s : State) : Host.Outcome State Fault Refusal :=
  alu (.rotl w d a b) (elemBits w) (fun _ l => rotateL (elemBits w) (arg l 0) (countOf (elemBits w) (arg l 1))) s
def execPopc (w : BitVec 2) (d a : BitVec 7) (s : State) : Host.Outcome State Fault Refusal :=
  alu (.popc w d a) (elemBits w) (fun _ l => popCount (elemBits w) (arg l 0)) s
def execClz (w : BitVec 2) (d a : BitVec 7) (s : State) : Host.Outcome State Fault Refusal :=
  alu (.clz w d a) (elemBits w) (fun _ l => leadZeros (elemBits w) (arg l 0)) s
def execCtz (w : BitVec 2) (d a : BitVec 7) (s : State) : Host.Outcome State Fault Refusal :=
  alu (.ctz w d a) (elemBits w) (fun _ l => trailZeros (elemBits w) (arg l 0)) s
def execBrev (w : BitVec 2) (d a : BitVec 7) (s : State) : Host.Outcome State Fault Refusal :=
  alu (.brev w d a) (elemBits w) (fun _ l => bitReverse (elemBits w) (arg l 0)) s
def execBfx (w : BitVec 2) (d a b : BitVec 7) (k : BitVec 1) (s : State) : Host.Outcome State Fault Refusal :=
  alu (.bfx w d a b k) 32 (fun _ => bitField (k == 1#1)) s
def execBfi (w : BitVec 2) (d a b : BitVec 7) (s : State) : Host.Outcome State Fault Refusal :=
  alu (.bfi w d a b) 32 (fun _ => bitInsert) s
def execBytsel (w : BitVec 2) (d a b : BitVec 7) (s : State) : Host.Outcome State Fault Refusal :=
  alu (.bytsel w d a b) 32 (fun _ => byteSelect) s
def execIcmp (w : BitVec 2) (c : BitVec 3) (m : BitVec 4) (a b : BitVec 7) (o : BitVec 2) (s : State) :
    Host.Outcome State Fault Refusal :=
  perThread (.icmp w c m a b o) (icmpLane (.icmp w c m a b o) (elemBits w) c m o) s
def execSel (w : BitVec 2) (d a b : BitVec 7) (t : BitVec 2) (s : State) : Host.Outcome State Fault Refusal :=
  perThread (.sel w d a b t) (selLane (.sel w d a b t) w t) s
def execIabs (w : BitVec 2) (d a : BitVec 7) (s : State) : Host.Outcome State Fault Refusal :=
  alu (.iabs w d a) (elemBits w) (fun x l => satWrap x (elemBits w) ((sext (elemBits w) (arg l 0)).natAbs : Nat)) s
def execIneg (w : BitVec 2) (d a : BitVec 7) (s : State) : Host.Outcome State Fault Refusal :=
  alu (.ineg w d a) (elemBits w) (fun x l => satWrap x (elemBits w) (-(sext (elemBits w) (arg l 0)))) s
def execMov (w : BitVec 2) (d a : BitVec 7) (s : State) : Host.Outcome State Fault Refusal :=
  alu (.mov w d a) 32 (fun _ l => arg l 0) s
def execNotR (w : BitVec 2) (d a : BitVec 7) (s : State) : Host.Outcome State Fault Refusal :=
  alu (.notR w d a) 32 (fun _ l => 2 ^ 32 - 1 - arg l 0) s
def execDp4 (w : BitVec 2) (d a b : BitVec 7) (k : BitVec 1) (s : State) : Host.Outcome State Fault Refusal :=
  alu (.dp4 w d a b k) 32 (dotProduct 4 8 (k == 1#1)) s
def execDp2 (w : BitVec 2) (d a b : BitVec 7) (k : BitVec 1) (s : State) : Host.Outcome State Fault Refusal :=
  alu (.dp2 w d a b k) 32 (dotProduct 2 16 (k == 1#1)) s
def execLea (d a b : BitVec 7) (s : State) : Host.Outcome State Fault Refusal :=
  perThread (.lea d a b) (leaLane (.lea d a b) (oSrc b 2) fun ws => sext 64 ((elemsOf 64 ws).getD 0 0)) s
def execLeas (d a b : BitVec 7) (k : BitVec 2) (s : State) : Host.Outcome State Fault Refusal :=
  perThread (.leas d a b k) (leaLane (.leas d a b k) (oSrc b 2) fun ws =>
    sext 32 (ws.getD 0 0#32).toNat * (2 ^ (k.toNat + 1) : Nat)) s

/-- The immediate of a format-I instruction as a 32-bit value (R277). -/
def immWord (x : Iss) (i : BitVec 9) : Nat := wrap 32 (x.imm i)

def execIaddi (d a : BitVec 7) (i : BitVec 9) (s : State) : Host.Outcome State Fault Refusal :=
  alu (.iaddi d a i) 32 (fun x l => intAdd 32 x [arg l 0, immWord x i]) s
def execAndi (d a : BitVec 7) (i : BitVec 9) (s : State) : Host.Outcome State Fault Refusal :=
  alu (.andi d a i) 32 (fun x l => arg l 0 &&& immWord x i) s
def execOri (d a : BitVec 7) (i : BitVec 9) (s : State) : Host.Outcome State Fault Refusal :=
  alu (.ori d a i) 32 (fun x l => arg l 0 ||| immWord x i) s
def execXori (d a : BitVec 7) (i : BitVec 9) (s : State) : Host.Outcome State Fault Refusal :=
  alu (.xori d a i) 32 (fun x l => arg l 0 ^^^ immWord x i) s
def execShli (d a : BitVec 7) (i : BitVec 9) (s : State) : Host.Outcome State Fault Refusal :=
  alu (.shli d a i) 32 (fun x l => shiftL 32 (arg l 0) (immWord x i % 32)) s
def execShri (d a : BitVec 7) (i : BitVec 9) (s : State) : Host.Outcome State Fault Refusal :=
  alu (.shri d a i) 32 (fun x l => shiftR (arg l 0) (immWord x i % 32)) s
def execSari (d a : BitVec 7) (i : BitVec 9) (s : State) : Host.Outcome State Fault Refusal :=
  alu (.sari d a i) 32 (fun x l => shiftA 32 (arg l 0) (immWord x i % 32)) s
def execRotli (d a : BitVec 7) (i : BitVec 9) (s : State) : Host.Outcome State Fault Refusal :=
  alu (.rotli d a i) 32 (fun x l => rotateL 32 (arg l 0) (immWord x i % 32)) s
def execMovi (d : BitVec 7) (i : BitVec 9) (s : State) : Host.Outcome State Fault Refusal :=
  alu (.movi d i) 32 (fun x _ => immWord x i) s
def execImuli (d a : BitVec 7) (i : BitVec 9) (s : State) : Host.Outcome State Fault Refusal :=
  alu (.imuli d a i) 32 (fun x l => intMul 32 x [arg l 0, immWord x i]) s
def execImini (k : BitVec 1) (d a : BitVec 7) (i : BitVec 9) (s : State) : Host.Outcome State Fault Refusal :=
  alu (.imini k d a i) 32 (fun x l => intMin 32 (k == 1#1) [arg l 0, immWord x i]) s
def execImaxi (k : BitVec 1) (d a : BitVec 7) (i : BitVec 9) (s : State) : Host.Outcome State Fault Refusal :=
  alu (.imaxi k d a i) 32 (fun x l => intMax 32 (k == 1#1) [arg l 0, immWord x i]) s

/-- ICMPI for a lane. -/
def icmpiLane (i : Instr) (c : BitVec 3) (m : BitVec 4) (o : BitVec 2) (j : BitVec 9) (x : Iss) (lane : Nat) : M LaneEnd := do
  let vs ← readOps x lane ((sources i).map fun p => (p, false))
  writeMaskBit x lane m.toNat o (intCond 32 c (arg (column 32 vs 0) 0) (immWord x j))
  pure .next
def execIcmpi (o : BitVec 2) (c : BitVec 3) (m : BitVec 4) (a : BitVec 7) (i : BitVec 9) (s : State) :
    Host.Outcome State Fault Refusal :=
  perThread (.icmpi o c m a i) (icmpiLane (.icmpi o c m a i) c m o i) s

end Sys2Proof.Machine
end

