-- ==== Sys2Proof/Machine/Float.lean ====
section
/-! DEFINITION. The floating-point instructions whose results the spec gives exactly (R282 to R286, R290), on 32-bit, 64-bit and
packed 16-bit elements. -/
namespace Sys2Proof.Machine

/-- The rounding mode of an issue (R228, R282): XM RM, else FPCTL's. -/
def modeOf (x : Iss) (g : Group) : Nat := if x.rm == 0 then bits g.fpctl.toNat 0 3 else x.rm
def ftzOf (g : Group) : Bool := bit g.fpctl.toNat 4

/-- OR flags into FPSTAT and trap the lane when an enabled one is among them (R250, R251). -/
def raiseFlags (x : Iss) (fl : Nat) : M Unit := do
  let g ← groupM x
  updG x fun g => { g with fpstat := g.fpstat ||| BitVec.ofNat 32 fl }
  if fl &&& bits g.fpctl.toNat 8 5 != 0 then raise .fptrap (BitVec.ofNat 64 fl)

/-- OR of flags. -/
def orFlags (rs : List (Nat × Nat)) : Nat := rs.foldl (fun f r => f ||| r.2) 0

/-- How a register holds elements: bits per element and elements per unit; 16-bit elements lie two in a register (R243). -/
def packElems (b : Nat) (ws : List Word) : List Nat :=
  if b == 16 then (ws.map fun w => [bits w.toNat 0 16, bits w.toNat 16 16]).flatten else elemsOf b ws
def packWords (b : Nat) (vs : List Nat) : List Word :=
  if b == 16 then (List.range (vs.length / 2)).map fun k => BitVec.ofNat 32 (vs.getD (2 * k) 0 + vs.getD (2 * k + 1) 0 * 2 ^ 16)
  else wordsOf b vs

/-- The random integer of element k and its width (R248), from the words of the fourth operand. -/
def randOf (b : Nat) (ws : List Word) (k : Nat) : Nat × Nat :=
  if b == 16 then (bits (ws.getD (k / 2) 0#32).toNat (16 * (k % 2)) 16, 16)
  else if b == 64 then ((ws.getD (2 * k) 0#32).toNat, 32)
  else ((ws.getD k 0#32).toNat, 32)

/-- NA, AA and NB, AB on a code (R228): absolute value first. -/
def modCode (f : Fmt) (neg abs_ : Bool) (v : Nat) : Nat :=
  let v := if abs_ then v % 2 ^ (f.bits - 1) else v
  if neg then v ^^^ 2 ^ (f.bits - 1) else v

/-- One lane of FpOp (R282): `op` maps the rounding and the source codes (in operand order, flushed and modified) to the result
code and its flags. -/
def fpLane (i : Instr) (f : Fmt) (op : Rnd → List Nat → Nat × Nat) (x : Iss) (lane : Nat) : M LaneEnd := do
  let g ← groupM x
  let rs := modeOf x g == 6
  let os := sources i ++ (if rs then [x.opdOperand i.opdWidth] else [])
  let vs ← readOps x lane (os.map fun o => (o, f.bits == 64))
  let srcs := (sources i).zip vs
  let rw := (destOf i).map (·.cls) == some .rw
  let dressed (k : Nat) : List Nat := (srcs.zipIdx).map fun p =>
    let v := ftzIn (ftzOf g) f ((packElems f.bits p.1.2).getD k 0)
    match (if rw then p.2 else p.2 + 1) with
    | 0 => v
    | 1 => modCode f x.na x.aa v
    | _ => modCode f x.nb x.ab v
  let rnd (k : Nat) : Rnd :=
    let r := if rs then randOf f.bits (vs.getD (sources i).length []) k else (0, 0)
    { mode := modeOf x g, r := r.1, w := r.2, sat := x.sat, ftz := ftzOf g }
  let n := ((destOf i).map (·.n)).getD 0
  let rs := (List.range (n * 32 / f.bits)).map fun k =>
    let l := dressed k
    let r := op (rnd k) l
    (r.1, r.2 ||| (if l.any (isSNaN f) then flagNV else 0))
  raiseFlags x (orFlags rs)
  match destOf i with
  | some o => writeRes x lane (resClass i) o (packWords f.bits (rs.map (·.1)))
  | none => pure ()
  pure .next

def fpOp (i : Instr) (f : Fmt) (op : Rnd → List Nat → Nat × Nat) (s : State) : Host.Outcome State Fault Refusal :=
  perThread i (fpLane i f op) s

/-- f32 or f64 by class W and E (R264). -/
def fmtW (w : BitVec 2) : Fmt := if w.toNat % 2 == 1 then fmtF64 else fmtF32

/-- Round an exact result, its own flags joined (R246). -/
def rounded (f : Fmt) (rd : Rnd) (r : FX × Nat) : Nat × Nat :=
  let c := roundTo f r.1 rd
  (c.1, c.2 ||| r.2)

def opAdd (f : Fmt) (rd : Rnd) (l : List Nat) : Nat × Nat :=
  rounded f rd (fxAdd (rd.mode == 3) (decodeF f (arg l 0)) (decodeF f (arg l 1)))
def opSub (f : Fmt) (rd : Rnd) (l : List Nat) : Nat × Nat :=
  rounded f rd (fxAdd (rd.mode == 3) (decodeF f (arg l 0)) (decodeF f (arg l 1)).neg)
def opMul (f : Fmt) (rd : Rnd) (l : List Nat) : Nat × Nat :=
  rounded f rd (fxMul (decodeF f (arg l 0)) (decodeF f (arg l 1)))
/-- a × b + d; `l` is d, a, b. -/
def opMac (f : Fmt) (rd : Rnd) (l : List Nat) : Nat × Nat :=
  rounded f rd (fxFma (rd.mode == 3) (decodeF f (arg l 1)) (decodeF f (arg l 2)) (decodeF f (arg l 0)))
def opDiv (f : Fmt) (rd : Rnd) (l : List Nat) : Nat × Nat :=
  rounded f rd (fxDiv (decodeF f (arg l 0)) (decodeF f (arg l 1)))
def opSqrt (f : Fmt) (rd : Rnd) (l : List Nat) : Nat × Nat := rounded f rd (fxSqrt (decodeF f (arg l 0)))
def opMin (f : Fmt) (big prop : Bool) (_ : Rnd) (l : List Nat) : Nat × Nat := fminmax f big prop (arg l 0) (arg l 1)

/-- a × 2^k (R290); k beyond ±8192 gives what ±8192 gives, for every format over- or underflows there. -/
def scaleBy (x : FX) (k : Int) : FX :=
  match x with
  | .num s m e st => .num s m (e + max (-8192) (min 8192 k)) st
  | v => v

/-- FCPYSGN for a lane (R283): bit operations, no flush, no flag. -/
def cpysgnLane (i : Instr) (f : Fmt) (x : Iss) (lane : Nat) : M LaneEnd := do
  let vs ← readOps x lane ((sources i).map fun o => (o, f.bits == 64))
  match destOf i with
  | some o =>
    writeRes x lane .regenerated o (wordsOf f.bits ((List.range (o.n * 32 / f.bits)).map fun k =>
      let l := column f.bits vs k
      let a := modCode f x.na x.aa (arg l 0)
      let b := modCode f x.nb x.ab (arg l 1)
      a % 2 ^ (f.bits - 1) + b / 2 ^ (f.bits - 1) * 2 ^ (f.bits - 1)))
  | none => pure ()
  pure .next

/-- The conditions of R284 on flushed and modified codes: the bit, and the flags. -/
def floatCond (f : Fmt) (c : BitVec 3) (a b : Nat) : Bool × Nat :=
  let un := isNaNCode f a || isNaNCode f b
  let x := decodeF f a
  let y := decodeF f b
  let eq := !un && fxEq x y
  let lt := !un && !fxEq x y && fxLess x y
  let gt := !un && !fxEq x y && fxLess y x
  let r : Bool := match c.toNat with
    | 0 => eq
    | 1 => un || !eq
    | 2 => lt
    | 3 => lt || eq
    | 4 => gt
    | 5 => gt || eq
    | 6 => un
    | _ => !un
  let nv : Bool := if 2 ≤ c.toNat && c.toNat ≤ 5 then un else isSNaN f a || isSNaN f b
  (r, if nv then flagNV else 0)

/-- FCMP for a lane (R284). -/
def fcmpLane (i : Instr) (f : Fmt) (c : BitVec 3) (m : BitVec 4) (o : BitVec 2) (x : Iss) (lane : Nat) : M LaneEnd := do
  let g ← groupM x
  let vs ← readOps x lane ((sources i).map fun p => (p, f.bits == 64))
  let l := (column f.bits vs 0).map (ftzIn (ftzOf g) f)
  let r := floatCond f c (modCode f x.na x.aa (arg l 0)) (modCode f x.nb x.ab (arg l 1))
  raiseFlags x r.2
  writeMaskBit x lane m.toNat o r.1
  pure .next

/-- FCLASS for a lane (R285). -/
def fclassLane (i : Instr) (f : Fmt) (x : Iss) (lane : Nat) : M LaneEnd := do
  let vs ← readOps x lane ((sources i).map fun p => (p, f.bits == 64))
  match destOf i with
  | some o => writeRes x lane .regenerated o (wordsOf f.bits ((List.range (o.n * 32 / f.bits)).map fun k => fclassOf f (arg (column f.bits vs k) 0)))
  | none => pure ()
  pure .next

def execFadd (w : BitVec 2) (d a b : BitVec 7) (s : State) : Host.Outcome State Fault Refusal :=
  fpOp (.fadd w d a b) (fmtW w) (opAdd (fmtW w)) s
def execFsub (w : BitVec 2) (d a b : BitVec 7) (s : State) : Host.Outcome State Fault Refusal :=
  fpOp (.fsub w d a b) (fmtW w) (opSub (fmtW w)) s
def execFmul (w : BitVec 2) (d a b : BitVec 7) (s : State) : Host.Outcome State Fault Refusal :=
  fpOp (.fmul w d a b) (fmtW w) (opMul (fmtW w)) s
def execFmac (w : BitVec 2) (d a b : BitVec 7) (s : State) : Host.Outcome State Fault Refusal :=
  fpOp (.fmac w d a b) (fmtW w) (opMac (fmtW w)) s
def execFmin (w : BitVec 2) (d a b : BitVec 7) (s : State) : Host.Outcome State Fault Refusal :=
  fpOp (.fmin w d a b) (fmtW w) (opMin (fmtW w) false false) s
def execFmax (w : BitVec 2) (d a b : BitVec 7) (s : State) : Host.Outcome State Fault Refusal :=
  fpOp (.fmax w d a b) (fmtW w) (opMin (fmtW w) true false) s
def execFminm (w : BitVec 2) (d a b : BitVec 7) (s : State) : Host.Outcome State Fault Refusal :=
  fpOp (.fminm w d a b) (fmtW w) (opMin (fmtW w) false true) s
def execFcpysgn (w : BitVec 2) (d a b : BitVec 7) (s : State) : Host.Outcome State Fault Refusal :=
  perThread (.fcpysgn w d a b) (cpysgnLane (.fcpysgn w d a b) (fmtW w)) s
def execFcmp (w : BitVec 2) (c : BitVec 3) (m : BitVec 4) (a b : BitVec 7) (o : BitVec 2) (s : State) :
    Host.Outcome State Fault Refusal :=
  perThread (.fcmp w c m a b o) (fcmpLane (.fcmp w c m a b o) (fmtW w) c m o) s
def execFdiv (w : BitVec 2) (d a b : BitVec 7) (s : State) : Host.Outcome State Fault Refusal :=
  fpOp (.fdiv w d a b) (fmtW w) (opDiv (fmtW w)) s
def execFsqrt (w : BitVec 2) (d a : BitVec 7) (s : State) : Host.Outcome State Fault Refusal :=
  fpOp (.fsqrt w d a) (fmtW w) (opSqrt (fmtW w)) s
def execFclass (w : BitVec 2) (d a : BitVec 7) (s : State) : Host.Outcome State Fault Refusal :=
  perThread (.fclass w d a) (fclassLane (.fclass w d a) (fmtW w)) s
def execHadd2 (w : BitVec 2) (d a b : BitVec 7) (s : State) : Host.Outcome State Fault Refusal :=
  fpOp (.hadd2 w d a b) fmtF16 (opAdd fmtF16) s
def execHsub2 (w : BitVec 2) (d a b : BitVec 7) (s : State) : Host.Outcome State Fault Refusal :=
  fpOp (.hsub2 w d a b) fmtF16 (opSub fmtF16) s
def execHmul2 (w : BitVec 2) (d a b : BitVec 7) (s : State) : Host.Outcome State Fault Refusal :=
  fpOp (.hmul2 w d a b) fmtF16 (opMul fmtF16) s
def execHmac2 (w : BitVec 2) (d a b : BitVec 7) (s : State) : Host.Outcome State Fault Refusal :=
  fpOp (.hmac2 w d a b) fmtF16 (opMac fmtF16) s
def execBadd2 (w : BitVec 2) (d a b : BitVec 7) (s : State) : Host.Outcome State Fault Refusal :=
  fpOp (.badd2 w d a b) fmtBF16 (opAdd fmtBF16) s
def execBsub2 (w : BitVec 2) (d a b : BitVec 7) (s : State) : Host.Outcome State Fault Refusal :=
  fpOp (.bsub2 w d a b) fmtBF16 (opSub fmtBF16) s
def execBmul2 (w : BitVec 2) (d a b : BitVec 7) (s : State) : Host.Outcome State Fault Refusal :=
  fpOp (.bmul2 w d a b) fmtBF16 (opMul fmtBF16) s
def execBmac2 (w : BitVec 2) (d a b : BitVec 7) (s : State) : Host.Outcome State Fault Refusal :=
  fpOp (.bmac2 w d a b) fmtBF16 (opMac fmtBF16) s
def execHmin2 (w : BitVec 2) (d a b : BitVec 7) (s : State) : Host.Outcome State Fault Refusal :=
  fpOp (.hmin2 w d a b) fmtF16 (opMin fmtF16 false false) s
def execHmax2 (w : BitVec 2) (d a b : BitVec 7) (s : State) : Host.Outcome State Fault Refusal :=
  fpOp (.hmax2 w d a b) fmtF16 (opMin fmtF16 true false) s
def execBmin2 (w : BitVec 2) (d a b : BitVec 7) (s : State) : Host.Outcome State Fault Refusal :=
  fpOp (.bmin2 w d a b) fmtBF16 (opMin fmtBF16 false false) s
def execBmax2 (w : BitVec 2) (d a b : BitVec 7) (s : State) : Host.Outcome State Fault Refusal :=
  fpOp (.bmax2 w d a b) fmtBF16 (opMin fmtBF16 true false) s
def execFrnd (w : BitVec 2) (d a : BitVec 7) (s : State) : Host.Outcome State Fault Refusal :=
  fpOp (.frnd w d a) (fmtW w) (fun rd l => frnd (fmtW w) false (arg l 0) rd) s
def execFrndNx (w : BitVec 2) (d a : BitVec 7) (s : State) : Host.Outcome State Fault Refusal :=
  fpOp (.frndNx w d a) (fmtW w) (fun rd l => frnd (fmtW w) true (arg l 0) rd) s

end Sys2Proof.Machine
end

