-- ==== Sys2Proof/Machine/Lane.lean ====
section
/-! DEFINITION. Lane exchange (R278 to R281, R469). -/
namespace Sys2Proof.Machine

/-- What each lane of an issue read and took from queues, or why it has nothing. -/
abbrev LaneReads (α : Type) := List (Nat × Except AErr (α × NMap (List QWord)))

/-- The words of a group's queues that s still has and t has not. -/
def takenWords (gid : Nat) (s t : State) : NMap (List QWord) :=
  let words (u : State) (q : Nat) : List QWord := ((u.group? gid).map fun g => (g.queues.get .empty q).words).getD []
  (List.range 4).filterMap fun q =>
    let a := words s q
    let b := words t q
    if b.length < a.length then some (q, a.take (a.length - b.length)) else none

/-- Read for every lane, the queues of a lane that fails put back. -/
def gather {α : Type} (x : Iss) (read : Nat → M α) : List Nat → State → LaneReads α × State
  | [], s => ([], s)
  | l :: ls, s =>
    match read l s with
    | .ok a t =>
      let took := takenWords x.gid s t
      let (rs, t) := gather x read ls t
      ((l, .ok (a, took)) :: rs, t)
    | .error e t =>
      let t := t.updGroup x.gid fun g => { g with queues := ((s.group? x.gid).map (·.queues)).getD g.queues }
      let (rs, t) := gather x read ls t
      ((l, .error e) :: rs, t)

/-- The stall that keeps an issue back as a whole: every lane's operands are read before any result is written (R263). -/
def gatherStall {α : Type} (rs : LaneReads α) : Option Stall :=
  rs.findSome? fun p => match p.2 with
    | .error (.stall r) => some r
    | _ => none

/-- The lanes that read, in ascending order, and the outcomes of the others. -/
def gatherOk {α : Type} (rs : LaneReads α) : List (Nat × α) :=
  rs.filterMap fun p => match p.2 with
    | .ok a => some (p.1, a.1)
    | .error _ => none
def gatherBad {α : Type} (rs : LaneReads α) : List (Nat × LaneOut) :=
  rs.filterMap fun p => match p.2 with
    | .ok _ => none
    | .error e => some (p.1, .err e)

/-- Give back what the lanes that failed had taken from queues (R402). -/
def giveBack {α : Type} (x : Iss) (rs : LaneReads α) (os : List (Nat × LaneOut)) (s : State) : State :=
  let failed (l : Nat) : Bool := match os.find? fun o => o.1 == l with
    | some (_, .err _) => true
    | _ => false
  rs.reverse.foldl (fun (s : State) p => match failed p.1, p.2 with
    | true, .ok (_, took) => took.foldl (fun (s : State) q => s.updGroup x.gid fun g =>
        { g with queues := g.queues.upd q.1 fun k => { k with words := q.2 ++ k.words } }) s
    | _, _ => s) s

/-- What the act of a joint instruction comes to (R263): where a lane has to wait for room in a queue, all wait and nothing is done. -/
def jointEnd {α : Type} (x : Iss) (rs : LaneReads α) (run : List Nat) (old : State) (r : List (Nat × LaneOut) × State) :
    List (Nat × LaneOut) × State :=
  match r.1.findSome? fun p => match p.2 with
      | .err (.stall c) => some c
      | _ => none with
  | some c => (run.map (·, .err (.stall c)), old)
  | none => (r.1, giveBack x rs r.1 r.2)

/-- A joint instruction: read for all lanes, then `act` gives the outcomes of those that read (R263, R469). -/
def joint {α : Type} (x : Iss) (read : Nat → M α) (act : List (Nat × α) → State → List (Nat × LaneOut) × State)
    (run : List Nat) (s : State) : List (Nat × LaneOut) × State :=
  let (rs, t) := gather x read run s
  match gatherStall rs with
  | some r => (run.map (·, .err (.stall r)), s)
  | none =>
    let (os, t) := jointEnd x rs run s (act (gatherOk rs) t)
    (if unfinished os then os else os ++ gatherBad rs, t)

/-- Write each lane's result. -/
def writeEach (x : Iss) (write : Nat → M Unit) (lanes : List Nat) (s : State) : List (Nat × LaneOut) × State :=
  runLanes x (fun l => do
    write l
    pure .next) lanes s

/-- Write results given per lane, or the first lane's once to a uniform destination (R278, R281). -/
def writeJoint (x : Iss) (cls : ResClass) (o : Operand) (value : Nat → List Word) (lanes : List Nat) (s : State) :
    List (Nat × LaneOut) × State :=
  if 104 ≤ o.code && o.code < 120 then
    match lanes with
    | [] => ([], s)
    | l :: ls =>
      let (r, t) := runLane x l (fun _ => do
        writeRes x l cls o (value l)
        pure .next) s
      ((l :: ls).map (·, r), t)
  else writeEach x (fun l => writeRes x l cls o (value l)) lanes s

/-- The value of a for a lane, checked. -/
def readA (i : Instr) (e : Nat) (x : Iss) (lane : Nat) : M (List Word) := do
  let vs ← readOps x lane ((sources i).map fun o => (o, e == 64))
  pure (vs.getD 0 [])

/-- A vote over the lanes that read (R278, R469): `f` gives a lane's result from all the votes. -/
def vote (i : Instr) (e : Nat) (f : List (Nat × Nat) → Nat → Nat) (s : State) : Host.Outcome State Fault Refusal :=
  jointly i (fun x => joint x (readA i e x) fun oks t =>
    match destOf i with
    | none => ([], t)
    | some o =>
      let vs := oks.map fun p => (p.1, (elemsOf e p.2).getD 0 0)
      writeJoint x .regenerated o (fun l => [BitVec.ofNat 32 (f vs l)]) (oks.map (·.1)) t) s

/-- The mask of the lanes that a test picks. -/
def lanesWhere (vs : List (Nat × Nat)) (p : Nat → Bool) : Nat := vs.foldl (fun n q => if p q.2 then n + 2 ^ q.1 else n) 0

def execBallot (w : BitVec 2) (d a : BitVec 7) (s : State) : Host.Outcome State Fault Refusal :=
  vote (.ballot w d a) (elemBits w) (fun vs _ => lanesWhere vs (· != 0)) s
def execLanesAll (w : BitVec 2) (d a : BitVec 7) (s : State) : Host.Outcome State Fault Refusal :=
  vote (.lanesAll w d a) (elemBits w) (fun vs _ => if vs.all fun p => p.2 != 0 then 1 else 0) s
def execLanesAny (w : BitVec 2) (d a : BitVec 7) (s : State) : Host.Outcome State Fault Refusal :=
  vote (.lanesAny w d a) (elemBits w) (fun vs _ => if vs.any fun p => p.2 != 0 then 1 else 0) s
def execPeers (w : BitVec 2) (d a : BitVec 7) (s : State) : Host.Outcome State Fault Refusal :=
  vote (.peers w d a) (elemBits w) (fun vs l => lanesWhere vs fun v => some v == NMap.look vs l) s

/-- RANK (R280) and MPOPC (R278). -/
def execRank (d a : BitVec 7) (s : State) : Host.Outcome State Fault Refusal :=
  vote (.rank d a) 32 (fun vs l => popCount 32 (((NMap.look vs l).getD 0) % 2 ^ l)) s
def execMpopc (d a : BitVec 7) (s : State) : Host.Outcome State Fault Refusal :=
  vote (.mpopc d a) 32 (fun vs l => popCount 32 ((NMap.look vs l).getD 0)) s

/-- The source lane of LXCH (R279), when it lies in the group. -/
def lxchFrom (v : BitVec 2) (t l : Nat) : Option Nat :=
  match v.toNat with
  | 0 => some l
  | 1 => if l ≤ t then some (t - l) else none
  | 2 => if t + l < 32 then some (t + l) else none
  | _ => some (t ^^^ l)

/-- An operand's words, or the trap its read meets, which is kept for later; a wait is the issue's. -/
def attempt {α : Type} (m : M α) : M (Except AErr α) := fun s =>
  match m s with
  | .ok a t => .ok (.ok a) t
  | .error (.stall r) t => .error (.stall r) t
  | .error e _ => .ok (.error e) s

/-- LXCH (R279): every lane's a and b are read unchecked; the receiving thread meets the poison, then a read error, of the registers
of a it receives and of its own b (R266).  A lane whose own a or b cannot be read traps for itself. -/
def execLxch (w : BitVec 2) (d a b : BitVec 7) (v : BitVec 2) (s : State) : Host.Outcome State Fault Refusal :=
  jointly (.lxch w d a b v) (fun x run t =>
    let (rs, t1) := gather x (fun l => do
      let p ← attempt (readRaw x l (oSrc a (widthN w)) false)
      let q ← attempt (readRaw x l (oSrc b (widthN w)) false)
      pure (p, q)) run t
    match gatherStall rs with
    | some r => (run.map (·, .err (.stall r)), t)
    | none =>
      let reads : NMap (Except AErr (List RegWord) × Except AErr (List RegWord)) := gatherOk rs
      jointEnd x rs run t (runLanes x (fun lane => do
        match NMap.look reads lane with
        | some (.ok _, .ok ws) => do
          let l := bits ((ws.map (·.val)).getD 0 0#32).toNat 0 5
          let from_ := match lxchFrom v lane l with
            | some u => if run.contains u then u else lane
            | none => lane
          match NMap.look reads from_ with
          | some (.ok vs, _) => do
            checkWords [(oSrc a (widthN w), vs), (oSrc b (widthN w), ws)]
            writeRes x lane .forwarded (oDst d (widthN w)) (vs.map (·.val))
          | some (.error e, _) => err e
          | none => pure ()
        | some (.error e, _) | some (_, .error e) => err e
        | none => pure ()
        pure .next) run t1)) s

/-- One step of an integer LFOLD (R281). -/
def foldInt (e o : Nat) (a b : Nat) : Nat :=
  match o with
  | 0 => (a + b) % 2 ^ e
  | 1 => intMin e false [a, b]
  | 2 => intMin e true [a, b]
  | 3 => intMax e false [a, b]
  | 4 => intMax e true [a, b]
  | 5 => a &&& b
  | 6 => a ||| b
  | _ => a ^^^ b

/-- One step of a floating LFOLD (R281): code and flags. -/
def foldFloat (f : Fmt) (o : Nat) (rd : Rnd) (a b : Nat) : Nat × Nat :=
  let r := match o with
    | 0 => opAdd f rd [a, b]
    | 1 => fminmax f false false a b
    | _ => fminmax f true false a b
  (r.1, r.2 ||| (if isSNaN f a || isSNaN f b then flagNV else 0))

/-- LFOLD (R281, R469): one result for the active threads that read, the flags of its steps the fold's own. -/
def execLfold (w : BitVec 2) (d a o : BitVec 7) (k : BitVec 1) (s : State) : Host.Outcome State Fault Refusal :=
  let i : Instr := .lfold w d a o k
  let e := elemBits w
  jointly i (fun x run t =>
    let g := (t.group? x.gid)
    let mode := (g.map (modeOf x)).getD 1
    let rs := k == 1#1 && mode == 6
    let os := sources i ++ (if rs then [x.opdOperand i.opdWidth] else [])
    joint x (fun l => readOps x l (os.map fun p => (p, e == 64))) (fun oks t =>
      match destOf i, oks with
      | some dst, p :: ps =>
        let val (q : Nat × List (List Word)) : Nat := (elemsOf e (q.2.getD 0 [])).getD 0 0
        let step (acc : Nat × Nat) (q : Nat × List (List Word)) : Nat × Nat :=
          if k == 0#1 then (foldInt e o.toNat acc.1 (val q), 0)
          else
            let r := if rs then randOf (if e == 64 then 64 else 32) (q.2.getD 1 []) 0 else (0, 0)
            let c := foldFloat (fmtW w) o.toNat { mode := mode, r := r.1, w := r.2, sat := false, ftz := false } acc.1 (val q)
            (c.1, acc.2 ||| c.2)
        let (v, fl) := ps.foldl step (val p, 0)
        let lanes := oks.map (·.1)
        let (r, t) := (raiseFlags x fl).outcome t
        match r with
        | .error e => (lanes.map (·, .err e), t)
        | .ok _ => writeJoint x (resClass i) dst (fun _ => wordsOf e [v]) lanes t
      | _, _ => ([], t)) run t) s

end Sys2Proof.Machine
end

