-- ==== Sys2Proof/Machine/LoadStore.lean ====
section
/-! DEFINITION. Plain loads and stores, uniform loads and stores, and the register window (R296 to R302). -/
namespace Sys2Proof.Machine

/-- The displacement of format M (R296): units of the access size, or with XW the unscaled offset. -/
def dispOf (x : Iss) (i : BitVec 9) (size : Nat) : Int := if x.xw.isEmpty then i.toInt * size else x.imm i

/-- A global address from a pair (R296). -/
def handleOf (pair : Nat) (disp : Int) : M Nat := do
  let h := wrap 64 (pair + disp)
  if h / 2 ^ 48 != pair / 2 ^ 48 then raise .bufbound (BitVec.ofNat 64 pair)
  pure h

/-- MISALIGN: emulated for plain per-thread accesses only, fatal elsewhere (R141, R299). -/
def alignCheck (a size : Nat) (emulated : Bool) : M Unit := do
  if a % size != 0 then err (.lane { trapOf .misalign (BitVec.ofNat 64 a) with fatal := !emulated })

/-- Translate for a thread, a watchpoint being met after the checks of R17 and before the target's (R440). -/
def reach (x : Iss) (lane h size : Nat) (kind : Kind) (watch : List Nat) : M Xlat := do
  let s ← getS
  let g ← groupM x
  let t ← threadM x lane
  let hit : Option Nat := if t.nowatch then none else watch.findSome? fun k => s.watchHit (s.regionOf g) h size k
  match (translate (s.whoOf g) h size kind).outcome s with
  | (.ok a, s) => do
    modS fun _ => s
    match hit with
    | some w => raise .watch (BitVec.ofNat 64 w)
    | none => pure a
  | (.error e, s) => do
    modS fun _ => s
    match e, hit with
    | .deny, some w => raise .watch (BitVec.ofNat 64 w)
    | e, _ => err e

/-- Who makes the accesses of a lane. -/
def viaM (x : Iss) (lane : Nat) : M Via := do
  let s ← getS
  let g ← groupM x
  pure (s.viaOf g x.gid lane)

/-- An access whose address depends on a load knows what that load's value does, and with it all that follows in its thread (R132,
R139). -/
def depends (x : Iss) (lane : Nat) (dep : NMap Nat) : M Unit :=
  M.whenB (!dep.isEmpty) (updT x lane fun t => { t with clock := joinClock t.clock dep })

/-- Perform an access under the race check (R134 to R136): checked first, recorded once performed. -/
def raced {α : Type} (x : Iss) (lane : Nat) (checked : Bool) (dep : NMap Nat) (loc : Loc) (n kind : Nat) (write : Bool)
    (m : M α) : M α := do
  M.whenB checked (raceTest x.hist x.gid lane dep loc n kind write x.pc)
  let a ← m
  depends x lane dep
  let g ← groupM x
  M.whenB checked (modS fun s => s.raceNote x.gid lane loc n kind write x.pc (s.nameOf g lane))
  pure a

/-- A plain store or RED: denials, LINKDOWN and CTREXH are delivered late (R299), to the lanes that `whom` names. -/
def lateOf (x : Iss) (whom : List Nat) (h : DWord) (m : M Unit) : M Unit := fun s =>
  let late (c : Cause) (t : State) : EStateM.Result AErr State Unit := .ok () (t.lateTrap x.gid whom c h t.nextReq)
  match m s with
  | .error .deny t => late .accessdeny t
  | .error .down t => late .linkdown t
  | .error .exh t => late .ctrexh t
  | r => r

/-- Registers of n bytes: words, or one word zero- or sign-extended (R215). -/
def loadWords (bs : List Byte) (n : Nat) (signed : Bool) : List Word :=
  let v := bytesToNat bs
  if bs.length < 4 then [BitVec.ofNat 32 (if signed then wrap 32 (sext (8 * bs.length) v) else v)]
  else natWords n v

/-- What a load leaves in its destination: the words, or poison (R75, R120). -/
def loadResult (n : Nat) (signed : Bool) (r : List Byte × Bool) : List RegWord :=
  if r.2 then List.replicate n poisonWord else (loadWords r.1 n signed).map regWord

/-- An access that returns a value (R120): nothing where it completes LINKDOWN, which a thread that has been waiting for it takes as a
trap, its destinations poisoned. -/
def downOr {α : Type} (x : Iss) (lane : Nat) (h : DWord) (poison : M Unit) (m : M α) : M (Option α) := fun s =>
  match m s with
  | .ok a t => .ok (some a) t
  | .error .down t =>
    let waited : Bool := ((t.thread? x.gid lane).map (·.memwait)).getD false
    if waited then (do
      poison
      raise .linkdown h) t
    else .ok none t
  | .error e t => .error e t

/-- A global load for a lane into an operand (R300). -/
def globalLoad (x : Iss) (lane : Nat) (pair : Nat) (disp : Int) (size : Nat) (signed : Bool) (dst : Operand) (dep : NMap Nat)
    (emulated : Bool) : M Unit := do
  let h ← handleOf pair disp
  alignCheck h size emulated
  let hd := BitVec.ofNat 64 h
  let poison := writeDst x lane dst (List.replicate dst.n poisonWord)
  atAddr hd (do
    match ← downOr x lane hd poison (reach x lane h size .load [0]) with
    | none => poison
    | some a => do
      let v ← viaM x lane
      let g ← groupM x
      let r ← raced x lane (raceChecked a true) dep (globalLoc a.pa) size 0 false (downOr x lane hd poison (loadAt v a size))
      let s ← getS
      writeDst x lane dst (loadResult dst.n signed (r.getD ([], true))) (if a.g then s.knownAt g (globalLoc a.pa) size else []))

/-- A global store for a lane, its late trap going to the lanes `whom`. -/
def globalStore (x : Iss) (lane : Nat) (whom : List Nat) (pair : Nat) (disp : Int) (size : Nat) (value : Nat) (dep : NMap Nat)
    (emulated : Bool) : M Unit := do
  let h ← handleOf pair disp
  alignCheck h size emulated
  let hd := BitVec.ofNat 64 h
  atAddr hd (lateOf x whom hd (do
    let a ← reach x lane h size .store [1]
    let v ← viaM x lane
    M.whenB a.enc (exhaustGate a.pa)
    raced x lane (raceChecked a false) dep (globalLoc a.pa) size 0 true (storeAt { v with late := whom } a (natToBytes size value))
    modS fun s => s.breakChain false 0 (keyOf a.pa) size))

/-- Bytes of an access (R215). -/
def sizeOf_ (w : BitVec 2) (n : BitVec 1) : Nat := if n == 1#1 then (if w.toNat < 2 then 1 else 2) else 4 * widthN w
def signedOf (w : BitVec 2) (n : BitVec 1) : Bool := n == 1#1 && w.toNat % 2 == 1

/-- What the address of a lane depends on. -/
def addrDep (x : Iss) (lane : Nat) (p : BitVec 6) (sp : Bool := false) : M (NMap Nat) := do
  let g ← groupM x
  pure (depOf g lane (oAddr p sp))

def execLd (w : BitVec 2) (d : BitVec 7) (p : BitVec 6) (n : BitVec 1) (i : BitVec 9) (s : State) :
    Host.Outcome State Fault Refusal :=
  perThread (.ld w d p n i) (fun x lane => do
    let vs ← readOps x lane [(oAddr p false, true)]
    let dep ← addrDep x lane p
    let size := sizeOf_ w n
    globalLoad x lane (wordsNat (vs.getD 0 [])) (dispOf x i size) size (signedOf w n) (oOut .load d (memN w n)) dep true
    pure .next) s

def execSt (w : BitVec 2) (d : BitVec 7) (p : BitVec 6) (n : BitVec 1) (i : BitVec 9) (s : State) :
    Host.Outcome State Fault Refusal :=
  perThread (.st w d p n i) (fun x lane => do
    let vs ← readOps x lane [(oIn .store d (memN w n), false), (oAddr p false, true)]
    let dep ← addrDep x lane p
    let size := sizeOf_ w n
    globalStore x lane [lane] (wordsNat (vs.getD 1 [])) (dispOf x i size) size (wordsNat (vs.getD 0 []) % 2 ^ (8 * size)) dep true
    pure .next) s

/-- A scratchpad address (R296). -/
def scrAddr (low : Nat) (disp : Int) : Nat := wrap 32 (low + disp)

/-- The location of a scratchpad byte. -/
def scrLoc (a : ScrAt) : Loc := { sp := true, wg := a.wg, addr := a.addr }

/-- A thread that waited on a line while it was empty acquires what filled it (R132). -/
def fillAcquire (x : Iss) (lane : Nat) (a : ScrAt) : M Unit := do
  let t ← threadM x lane
  let waited : Bool := (t.feb.map fun f => f.wg == a.wg && f.addr / 128 == a.addr / 128).getD false
  M.whenB waited (modS fun s => s.acquireAt x.gid lane (fun l => l == fillLoc a.wg (a.addr / 128)) 3)
  updT x lane fun t => { t with feb := t.feb.filter (·.hold) }

/-- A scratchpad load for a lane (R69, R89, R300). -/
def scrLoadLane (w : BitVec 2) (d : BitVec 7) (p : BitVec 6) (n : BitVec 1) (i : BitVec 9) (x : Iss) (lane : Nat) :
    M LaneEnd := do
  let vs ← readOps x lane [(oAddr p true, false)]
  let dep ← addrDep x lane p true
  let size := sizeOf_ w n
  let a := scrAddr (wordsNat (vs.getD 0 [])) (dispOf x i size)
  alignCheck a size true
  let dst := oOut .load d (memN w n)
  atAddr (BitVec.ofNat 64 a) (do
    let g ← groupM x
    let at_ ← scrResolve g.wg a size
    let s ← getS
    if s.lineEmpty at_ then err (.feb at_.wg at_.addr)
    let r ← raced x lane true dep (scrLoc at_) size 0 false (scrLoad g.wg at_ size)
    fillAcquire x lane at_
    writeDst x lane dst (loadResult dst.n (signedOf w n) r))
  pure .next

/-- What keeps an LDS of a lane from being served in a hold window (R223): a line to wait for, a segment in T, a copy to be taken, or a
line to be read at its owner, for which the window has not yet aborted; a lane that will trap keeps nothing back. -/
inductive Unserved where
  | empty (a : ScrAt)
  | moving (a : ScrAt)
  | take (a : ScrAt)
  | remote (a : ScrAt)
  deriving DecidableEq, Repr

def Unserved.place : Unserved → ScrAt
  | .empty a | .moving a | .take a | .remote a => a

/-- Whether a lane's window has aborted for a line already. -/
def Thread.abortedFor (t : Thread) (a : ScrAt) : Bool :=
  (t.feb.map fun f => f.hold && f.lines.contains (a.wg, a.addr / 128)).getD false

def ldsUnserved (w : BitVec 2) (p : BitVec 6) (n : BitVec 1) (i : BitVec 9) (x : Iss) (lane : Nat) (s : State) : Option Unserved :=
  let read : M (Option Unserved) := do
    let vs ← readOps x lane [(oAddr p true, false)]
    let size := sizeOf_ w n
    let a := scrAddr (wordsNat (vs.getD 0 [])) (dispOf x i size)
    alignCheck a size true
    let g ← groupM x
    let t ← threadM x lane
    let s ← getS
    match (scrResolve g.wg a size).outcome s with
    | (.error (.stall _), _) => pure ((s.scrTarget g.wg a).map fun w => .moving { wg := w, addr := a % 2 ^ 24 })
    | (.error e, _) => err e
    | (.ok at_, _) =>
      if s.lineEmpty at_ then pure (some (.empty at_))
      else if s.holdsSeg g.wg at_ then pure none
      else if s.copySlot g.wg then pure (some (.take at_))
      else if t.abortedFor at_ then pure none
      else pure (some (.remote at_))
  match read.outcome s with
  | (.ok u, _) => u
  | (.error _, _) => none

/-- The wait of a lane on its own line that an abort begins or goes on with (R223): it counts from the first abort. -/
def Unserved.febWait (u : Unserved) (now : Nat) (t : Thread) : FebWait :=
  let a := u.place
  { since := (t.feb.map (·.since)).getD now, wg := a.wg, addr := a.addr, hold := true,
    lines := (a.wg, a.addr / 128) :: (t.feb.map (·.lines)).getD [] }

/-- Abort a hold window (R223): every thread of the entry resumes at the XH, the accesses outside it begun. -/
def abortWindow (x : Iss) (us : NMap Unserved) (s : State) : State :=
  match s.group? x.gid with
  | none => s
  | some g =>
    let s := us.vals.foldl (fun s u => match u with
      | .take a => s.takeCopy g.wg a
      | _ => s) s
    let empty := us.vals.any fun u => match u with
      | .empty .. => true
      | _ => false
    let now := s.clockOf (s.regionOf g)
    let back (p : Nat × Thread) : Nat × Thread :=
      if x.lanes.contains p.1 then
        (p.1, { p.2 with
          pc := x.xhOf g
          hint := none
          latches := []
          feb := match us.look p.1 with
            | some u => some (u.febWait now p.2)
            | none => p.2.feb })
      else p
    s.updGroup x.gid fun g => { g with
      window := none
      stall := some (if empty then .feb else .memdep)
      threads := g.threads.map back }

def execLds (w : BitVec 2) (d : BitVec 7) (p : BitVec 6) (n : BitVec 1) (i : BitVec 9) (s : State) :
    Host.Outcome State Fault Refusal :=
  jointlyOr (.lds w d p n i)
    (fun x run t =>
      let us : NMap Unserved := run.filterMap fun l => (ldsUnserved w p n i x l t).map (l, ·)
      if x.pos == 0 || us.isEmpty then none else some (abortWindow x us t))
    (fun x run => runLanes x (scrLoadLane w d p n i x) run) s

def execSts (w : BitVec 2) (d : BitVec 7) (p : BitVec 6) (n : BitVec 1) (i : BitVec 9) (s : State) :
    Host.Outcome State Fault Refusal :=
  perThread (.sts w d p n i) (fun x lane => do
    let vs ← readOps x lane [(oIn .store d (memN w n), false), (oAddr p true, false)]
    let dep ← addrDep x lane p true
    let size := sizeOf_ w n
    let a := scrAddr (wordsNat (vs.getD 1 [])) (dispOf x i size)
    alignCheck a size true
    let bs := natToBytes size (wordsNat (vs.getD 0 []))
    atAddr (BitVec.ofNat 64 a) (do
      let g ← groupM x
      let at_ ← scrResolve g.wg a size
      let s ← getS
      if s.lineEmpty at_ && !s.ownsSeg g.wg at_ then err (.feb at_.wg at_.addr)
      raced x lane true dep (scrLoc at_) size 0 true (scrStore g.wg at_ bs)
      modS fun s => s.breakChain true at_.wg at_.addr size)
    pure .next) s

/-- The accessing thread of LDU and STU: the lowest of the entry (R298). -/
def leader (x : Iss) : Nat := x.lanes.headD 0

def execLdu (w : BitVec 2) (d : BitVec 7) (p : BitVec 6) (i : BitVec 9) (s : State) : Host.Outcome State Fault Refusal :=
  uniform (.ldu w d p i) (fun x => do
    let lane := leader x
    let vs ← readOps x lane [(oAddrU p, true)]
    let dep ← addrDep x lane p
    let size := 4 * widthN w
    globalLoad x lane (wordsNat (vs.getD 0 [])) (dispOf x i size) size false (oOut .sOne d (widthN w)) dep false
    pure .next) s

def execStu (w : BitVec 2) (d : BitVec 7) (p : BitVec 6) (i : BitVec 9) (s : State) : Host.Outcome State Fault Refusal :=
  uniform (.stu w d p i) (fun x => do
    let lane := leader x
    let vs ← readOps x lane [(oIn .sOne d (widthN w), false), (oAddrU p, true)]
    let dep ← addrDep x lane p
    let size := 4 * widthN w
    globalStore x lane x.lanes (wordsNat (vs.getD 1 [])) (dispOf x i size) size (wordsNat (vs.getD 0 [])) dep false
    pure .next) s

/-- The word a window address names (R31, R302): register and lane. -/
def windowAt (x : Iss) (low : Nat) (i : BitVec 9) : M (Nat × Nat) := do
  let a := wrap 14 ((low % 2 ^ 14 : Nat) + 4 * i.toInt)
  alignCheck a 4 false
  let g ← groupM x
  if g.count ≤ a / 128 then raise .scrbound (BitVec.ofNat 64 a)
  pure (a / 128, a / 4 % 32)

/-- LDX (R302): the words are read as they stand before any lane writes. -/
def execLdx (d : BitVec 7) (p : BitVec 6) (i : BitVec 9) (s : State) : Host.Outcome State Fault Refusal :=
  jointly (.ldx d p i) (fun x run t =>
    let regs : NMap RegWord := ((t.group? x.gid).map (·.regs)).getD []
    jointEnd x ([] : LaneReads Unit) run t (runLanes x (fun lane => do
      let vs ← readOps x lane [(oAddr p true, false)]
      let (r, l) ← windowAt x (wordsNat (vs.getD 0 [])) i
      let v := regs.get zeroWord (r * 32 + l)
      if v.bad && !v.poisoned then raise .regerr (BitVec.ofNat 64 r)
      writeDst x lane (oOut .load d 1) [v]
      pure .next) run t)) s

/-- STX (R302). -/
def execStx (d : BitVec 7) (p : BitVec 6) (i : BitVec 9) (s : State) : Host.Outcome State Fault Refusal :=
  let i0 : Instr := .stx d p i
  jointly i0 (fun x run t =>
    let read (lane : Nat) : M (Nat × Word) := do
      let vs ← readOps x lane [(oIn .store d 1, false), (oAddr p true, false)]
      let (r, l) ← windowAt x (wordsNat (vs.getD 1 [])) i
      pure (r * 32 + l, (vs.getD 0 []).getD 0 0#32)
    joint x read (fun oks t =>
      (oks.map fun p => (p.1, .ok .next), oks.foldl (fun t p => t.updGroup x.gid fun g =>
        { g with regs := g.regs.set p.2.1 (regWord p.2.2), vdeps := g.vdeps.del p.2.1 }) t)) run t) s

end Sys2Proof.Machine
end

