-- ==== Sys2Proof/Machine/Atomic.lean ====
section
/-! DEFINITION. Acquiring loads, releasing stores, atomics, reductions and fences (R142 to R145, R303, R307 to R311, R467). -/
namespace Sys2Proof.Machine

/-- An acquire of the releases on the bytes of a location (R132, R133). -/
def acquireRange (x : Iss) (lane : Nat) (loc : Loc) (n scope : Nat) : M Unit :=
  modS fun s => s.acquireAt x.gid lane
    (fun l => l.sp == loc.sp && l.wg == loc.wg && loc.addr ≤ l.addr && l.addr < loc.addr + n) scope

/-- Read n bytes where synchronising accesses are performed: the home, or the RDC acting as home (R142). -/
def syncRead (v : Via) (a : Xlat) (n : Nat) : M (List Byte × Bool) := do
  if isMain a.pa && !a.dev && !a.por && !a.badKey then do
    let b := basinOf v.core
    let l := lineOf (keyOf a.pa)
    lapseGate b l v.region
    atHome b l false v.region
    homeCharge b l v.region n
    backBytes b l (keyOf a.pa % 128) n
  else loadAt v a n

/-- Write there. -/
def syncWrite (v : Via) (a : Xlat) (bs : List Byte) : M Unit := do
  if isMain a.pa && !a.dev then do
    let b := basinOf v.core
    let l := lineOf (keyOf a.pa)
    lapseGate b l v.region
    atHome b l true v.region
    homeCharge b l v.region bs.length
    backWrite b l (keyOf a.pa % 128) bs false
  else storeAt v a bs

/-- The 6-bit displacement of LDACQ and STREL (R303). -/
def syncDisp (d : BitVec 6) (size : Nat) : Int := d.toInt * size

def execLdacq (w : BitVec 2) (d : BitVec 7) (p : BitVec 6) (c : BitVec 2) (sp : BitVec 1) (i : BitVec 6) (s : State) :
    Host.Outcome State Fault Refusal :=
  perThread (.ldacq w d p c sp i) (fun x lane => do
    let n := widthN w
    let size := 4 * n
    let dst := oOut .load d n
    if sp == 1#1 then do
      let vs ← readOps x lane [(oAddr p true, false)]
      let a := scrAddr (wordsNat (vs.getD 0 [])) (syncDisp i size)
      alignCheck a size false
      atAddr (BitVec.ofNat 64 a) (do
        let g ← groupM x
        let at_ ← scrResolve g.wg a size
        let r ← scrLoad g.wg at_ size
        fillAcquire x lane at_
        depends x lane (depOf g lane (oAddr p true))
        acquireRange x lane (scrLoc at_) size c.toNat
        writeDst x lane dst (loadResult n false r))
      pure .next
    else do
      let vs ← readOps x lane [(oAddr p false, true)]
      let h ← handleOf (wordsNat (vs.getD 0 [])) (syncDisp i size)
      alignCheck h size false
      let hd := BitVec.ofNat 64 h
      let poison := writeDst x lane dst (List.replicate n poisonWord)
      atAddr hd (do
        match ← downOr x lane hd poison (reach x lane h size .load [0]) with
        | none => poison
        | some a => do
          let v ← viaM x lane
          match ← downOr x lane hd poison (syncRead v a size) with
          | none => poison
          | some r => do
            depends x lane (← addrDep x lane p)
            acquireRange x lane (globalLoc a.pa) size c.toNat
            writeDst x lane dst (loadResult n false r))
      pure .next) s

def execStrel (w : BitVec 2) (d : BitVec 7) (p : BitVec 6) (c : BitVec 2) (sp : BitVec 1) (i : BitVec 6) (s : State) :
    Host.Outcome State Fault Refusal :=
  perThread (.strel w d p c sp i) (fun x lane => do
    let n := widthN w
    let size := 4 * n
    let src := (oIn .store d n, false)
    if sp == 1#1 then do
      let vs ← readOps x lane [src, (oAddr p true, false)]
      let a := scrAddr (wordsNat (vs.getD 1 [])) (syncDisp i size)
      alignCheck a size false
      atAddr (BitVec.ofNat 64 a) (do
        let g ← groupM x
        let at_ ← scrResolve g.wg a size
        waitRelease x.gid c.toNat
        scrStore g.wg at_ (natToBytes size (wordsNat (vs.getD 0 [])))
        depends x lane (depOf g lane (oAddr p true))
        modS fun s => (s.breakChain true at_.wg at_.addr size).releaseRange x.gid lane (scrLoc at_) size c.toNat false)
      pure .next
    else do
      let vs ← readOps x lane [src, (oAddr p false, true)]
      let h ← handleOf (wordsNat (vs.getD 1 [])) (syncDisp i size)
      alignCheck h size false
      atAddr (BitVec.ofNat 64 h) (do
        let a ← reach x lane h size .store [1]
        let v ← viaM x lane
        waitRelease x.gid c.toNat
        syncWrite v a (natToBytes size (wordsNat (vs.getD 0 [])))
        depends x lane (← addrDep x lane p)
        modS fun s => (s.breakChain false 0 (keyOf a.pa) size).releaseRange x.gid lane (globalLoc a.pa) size c.toNat false)
      pure .next) s

/-- What an atomic leaves: the old value, or poison; without a return value poison traps the lane (R467). -/
def atomicResult (x : Iss) (lane : Nat) (dst : Operand) (returns : Bool) (addr : DWord) (r : Option Nat) : M Unit :=
  match r with
  | some o => M.whenB returns (writeVals x lane dst (natWords dst.n o))
  | none =>
    if returns then writeDst x lane dst (List.replicate dst.n poisonWord)
    else raise .poison addr

/-- LINKDOWN of an atomic: as of a load where it returns a value, else the lane's trap (R120). -/
def atomicDown {α : Type} (x : Iss) (lane : Nat) (dst : Operand) (returns : Bool) (addr : DWord) (m : M α) : M (Option α) :=
  if returns then downOr x lane addr (writeDst x lane dst (List.replicate dst.n poisonWord)) m
  else do
    let a ← m
    pure (some a)

/-- Atomic(op) for a lane (R308, R309): released and acquired at its scope where it was performed. -/
def atomicLane (op : Nat) (d : BitVec 7) (p : BitVec 6) (sp f : BitVec 1) (c : BitVec 2) (t : BitVec 3) (x : Iss) (lane : Nat) :
    M LaneEnd := do
  let n := typN t
  let z := typSize t.toNat
  let data : Operand := { cls := .atom, code := d.toNat, n := if op == 7 then 2 * n else n, read := true, write := f == 1#1 }
  let dst : Operand := { data with n := n }
  let returns := f == 1#1
  let vs ← readOps x lane [(data, z == 8), (oAddr p (sp == 1#1), sp == 0#1)]
  let ws := vs.getD 0 []
  let (cmp, val) := if op == 7 then (wordsNat (ws.take n), wordsNat (ws.drop n)) else (0, wordsNat ws)
  let low := wordsNat (vs.getD 1 [])
  let dep ← addrDep x lane p (sp == 1#1)
  if sp == 1#1 then do
    alignCheck low z false
    let addr := BitVec.ofNat 64 low
    atAddr addr (do
      let g ← groupM x
      let a ← scrResolve g.wg low z
      waitRelease x.gid c.toNat
      let s ← getS
      if s.lineEmpty a then err (.feb a.wg a.addr)
      let r ← raced x lane true dep (scrLoc a) z 1 true (scrAtomic a op t.toNat val cmp)
      M.whenB r.isSome (do
        acquireRange x lane (scrLoc a) z c.toNat
        modS fun s => s.releaseRange x.gid lane (scrLoc a) z c.toNat true)
      atomicResult x lane dst returns addr r)
    pure .next
  else do
    alignCheck low z false
    let addr := BitVec.ofNat 64 low
    atAddr addr (do
      match ← atomicDown x lane dst returns addr (reach x lane low z .atomic [0, 1]) with
      | none => atomicResult x lane dst returns addr none
      | some a => do
        let v ← viaM x lane
        waitRelease x.gid c.toNat
        M.whenB a.enc (exhaustGate a.pa)
        let o ← raced x lane (raceChecked a false) dep (globalLoc a.pa) z 1 true
          (atomicDown x lane dst returns addr (atomicAt v a op t.toNat val cmp))
        let r := o.getD none
        M.whenB r.isSome (do
          acquireRange x lane (globalLoc a.pa) z c.toNat
          modS fun s => s.releaseRange x.gid lane (globalLoc a.pa) z c.toNat true)
        atomicResult x lane dst returns addr r)
    pure .next

def execAadd (w : BitVec 2) (d : BitVec 7) (p : BitVec 6) (sp f : BitVec 1) (c : BitVec 2) (t : BitVec 3) (s : State) :
    Host.Outcome State Fault Refusal := perThread (.aadd w d p sp f c t) (atomicLane 0 d p sp f c t) s
def execAmin (w : BitVec 2) (d : BitVec 7) (p : BitVec 6) (sp f : BitVec 1) (c : BitVec 2) (t : BitVec 3) (s : State) :
    Host.Outcome State Fault Refusal := perThread (.amin w d p sp f c t) (atomicLane 1 d p sp f c t) s
def execAmax (w : BitVec 2) (d : BitVec 7) (p : BitVec 6) (sp f : BitVec 1) (c : BitVec 2) (t : BitVec 3) (s : State) :
    Host.Outcome State Fault Refusal := perThread (.amax w d p sp f c t) (atomicLane 2 d p sp f c t) s
def execAand (w : BitVec 2) (d : BitVec 7) (p : BitVec 6) (sp f : BitVec 1) (c : BitVec 2) (t : BitVec 3) (s : State) :
    Host.Outcome State Fault Refusal := perThread (.aand w d p sp f c t) (atomicLane 3 d p sp f c t) s
def execAor (w : BitVec 2) (d : BitVec 7) (p : BitVec 6) (sp f : BitVec 1) (c : BitVec 2) (t : BitVec 3) (s : State) :
    Host.Outcome State Fault Refusal := perThread (.aor w d p sp f c t) (atomicLane 4 d p sp f c t) s
def execAxor (w : BitVec 2) (d : BitVec 7) (p : BitVec 6) (sp f : BitVec 1) (c : BitVec 2) (t : BitVec 3) (s : State) :
    Host.Outcome State Fault Refusal := perThread (.axor w d p sp f c t) (atomicLane 5 d p sp f c t) s
def execAxchg (w : BitVec 2) (d : BitVec 7) (p : BitVec 6) (sp f : BitVec 1) (c : BitVec 2) (t : BitVec 3) (s : State) :
    Host.Outcome State Fault Refusal := perThread (.axchg w d p sp f c t) (atomicLane 6 d p sp f c t) s
def execAcas (w : BitVec 2) (d : BitVec 7) (p : BitVec 6) (sp f : BitVec 1) (c : BitVec 2) (t : BitVec 3) (s : State) :
    Host.Outcome State Fault Refusal := perThread (.acas w d p sp f c t) (atomicLane 7 d p sp f c t) s

/-- RED (R308, R310): no order, nothing returned, a poisoned unit left alone (R467). -/
def execRed (w : BitVec 2) (d : BitVec 7) (p : BitVec 6) (sp f : BitVec 1) (t : BitVec 3) (o : BitVec 2) (s : State) :
    Host.Outcome State Fault Refusal :=
  perThread (.red w d p sp f t o) (fun x lane => do
    let op := 4 * f.toNat + o.toNat
    let z := typSize t.toNat
    let kind := 2 + 8 * op + t.toNat
    let vs ← readOps x lane [(oIn .atom d (typN t), z == 8), (oAddr p (sp == 1#1), sp == 0#1)]
    let val := wordsNat (vs.getD 0 [])
    let low := wordsNat (vs.getD 1 [])
    alignCheck low z false
    let addr := BitVec.ofNat 64 low
    let dep ← addrDep x lane p (sp == 1#1)
    if sp == 1#1 then do
      atAddr addr (do
        let g ← groupM x
        let a ← scrResolve g.wg low z
        let s ← getS
        if s.lineEmpty a then err (.feb a.wg a.addr)
        let _ ← raced x lane true dep (scrLoc a) z kind true (scrAtomic a op t.toNat val 0)
        modS fun s => s.breakChain true a.wg a.addr z)
      pure .next
    else do
      atAddr addr (lateOf x [lane] addr (do
        let a ← reach x lane low z .atomic [1]
        let v ← viaM x lane
        M.whenB a.enc (exhaustGate a.pa)
        raced x lane (raceChecked a false) dep (globalLoc a.pa) z kind true (redAt v a op t.toNat val)
        modS fun s => s.breakChain false 0 (keyOf a.pa) z))
      pure .next) s

/-- FENCE (R143). -/
def execFence (c : BitVec 2) (s : State) : Host.Outcome State Fault Refusal :=
  perThread (.fence c) (fun x _ => do
    atAddr 0#64 (waitRelease x.gid c.toNat)
    pure .next) s

end Sys2Proof.Machine
end

