-- ==== Sys2Proof/Machine/Sync.lean ====
section
/-! DEFINITION. Barriers (R150, R312 to R315), waiting on a location (R316, R317), timelines (R148, R318), read sections, cols
and grace (R181, R319, R320), and time (R321). -/
namespace Sys2Proof.Machine

/-- ILLOP found while an instruction runs (R231, reason 0x10): its word and the reason. -/
def illopNow {α : Type} (i : Instr) : M α := raise .illop (BitVec.ofNat 64 ((encodeNat i).getD 0 + 0x10 * 2 ^ 32))

/-- A result written to every thread of `lanes`, or once to an s destination (R298). -/
def writeAll (x : Iss) (lanes : List Nat) (o : Operand) (ws : List RegWord) : M Unit :=
  if 104 ≤ o.code && o.code < 120 then writeDst x (lanes.headD 0) o ws
  else M.forEach (fun l => writeDst x l o ws) lanes

/-- A target of memory as a synchronising access sees it: none of a lapsed holder's (R96), and whether its line is another key's (R122). -/
def keyedAt (v : Via) (a : Xlat) : M Bool := do
  M.whenB (isMain a.pa) (lapseGate (basinOf v.core) (lineOf (keyOf a.pa)) v.region)
  M.whenB a.badKey (modS fun s => s.machineEvent (homeOf a.pa) 5 0 (a.pa / 128 * 128))
  pure a.badKey

/-- The object of a barrier operation (R312): in scratchpad, waiting for its line, or in a buffer with AT whose target holds
memory (R15); and whether its key makes it poison. -/
def barrierAt (x : Iss) (lane low : Nat) (sp : Bool) : M (Loc × Bool) := do
  if sp then do
    let g ← groupM x
    let a ← scrResolve g.wg low 16
    let s ← getS
    if s.lineEmpty a then err (.feb a.wg a.addr)
    fillAcquire x lane a
    pure (scrLoc a, false)
  else do
    let a ← reach x lane low 16 .atomic [0, 1]
    let bad ← keyedAt (← viaM x lane) a
    match targetOf a.pa with
    | .hbm _ => pure (globalLoc a.pa, bad)
    | .cxl _ | .sysmem => if a.dev then trapM .bufrights else pure (globalLoc a.pa, bad)
    | _ => trapM .bufrights

/-- A barrier operation (R313): once per issue, at its object, by the lowest active thread; its result goes to every thread of
`run`, poison where the object held poison. -/
def barrierBody (d : BitVec 7) (p : BitVec 6) (sp : BitVec 1) (reads : Bool) (x : Iss) (run : List Nat)
    (f : Nat → Loc → Nat → M (Option Nat × LaneEnd)) : M LaneEnd := do
  let lane := run.headD 0
  let dst := oOut .atom d 1
  let data := if reads then [(oIn .atom d 1, false)] else []
  let vs ← readOps x lane ((oAddr p (sp == 1#1), sp == 0#1) :: data)
  let low := wordsNat (vs.getD 0 [])
  let v := wordsNat (vs.getD 1 [])
  alignCheck low 16 false
  atAddr (BitVec.ofNat 64 low) (do
    let (l, keyed) ← barrierAt x lane low (sp == 1#1)
    if keyed || (← barPoisoned l) then do
      writeAll x run dst [poisonWord]
      pure .next
    else do
      let (r, e) ← f low l v
      match r with
      | some n => writeAll x run dst [regWord (BitVec.ofNat 32 n)]
      | none => pure ()
      pure e)

/-- A release of every thread of `run` at a barrier's four words and at its generations from `gen` on (R132, R150). -/
def barRelease (x : Iss) (run : List Nat) (l : Loc) (gen count scope : Nat) : M Unit :=
  modS fun s => run.foldl (fun s lane =>
    (rangeFrom gen count).foldl (fun s g => s.releaseAt x.gid lane (barLoc l (g % 2 ^ 32)) scope true)
      (s.releaseRange x.gid lane l 16 scope true)) s

/-- The acquire of a BARWAIT: the arrivals of its generation, or of all of them when it is ABORTED (R150). -/
def barAcquire (x : Iss) (lane : Nat) (l : Loc) (gen : Option Nat) (scope : Nat) : M Unit :=
  modS fun s => s.acquireAt x.gid lane
    (fun q => q.sp == l.sp && q.wg == l.wg && q.addr % 2 ^ 70 == l.addr && 2 ^ 70 ≤ q.addr
      && (match gen with
          | some g => q.addr / 2 ^ 70 == 1 + g
          | none => true)) scope

def execBarinit (d : BitVec 7) (p : BitVec 6) (sp : BitVec 1) (c : BitVec 2) (s : State) : Host.Outcome State Fault Refusal :=
  oncePer (.barinit d p sp c) (fun x run => barrierBody d p sp true x run fun _ l v => do
    waitRelease x.gid c.toNat
    let b ← barRead l
    if b.bad then pure (some 3, .next)
    else if b.state == 2 then pure (some 1, .next)
    else if v == 0 then pure (some 2, .next)
    else do
      let gen := (b.gen + 1) % 2 ^ 32
      barWrite l { b with expect := v, count := 0, gen := gen, state := 1, scope := c.toNat }
      barRelease x run l gen 1 c.toNat
      pure (some 0, .next)) s

def execBararr (d : BitVec 7) (p : BitVec 6) (sp : BitVec 1) (c : BitVec 2) (s : State) : Host.Outcome State Fault Refusal :=
  oncePer (.bararr d p sp c) (fun x run => barrierBody d p sp true x run fun _ l v => do
    let b ← barRead l
    let scope := max c.toNat b.scope
    waitRelease x.gid scope
    if b.bad then pure (some 3, .next)
    else do
      let n := v % 2 ^ 16
      let counts := b.state == 1 || b.state == 2
      let after := b.count + n
      M.whenB counts (barRelease x run l b.gen (after / b.expect + (if after % b.expect == 0 then 0 else 1)) scope)
      let r ← barArrive l n
      pure (some (r.getD 3), .next)) s

/-- BARWAIT for the threads that meet it now (R313, R314). -/
def barwaitFresh (d : BitVec 7) (p : BitVec 6) (sp : BitVec 1) (c : BitVec 2) (x : Iss) (run : List Nat) : M LaneEnd :=
  barrierBody d p sp true x run fun low l v => do
    let b ← barRead l
    let scope := max c.toNat b.scope
    let acquire (gen : Option Nat) : M Unit := M.forEach (fun lane => barAcquire x lane l gen scope) run
    if b.bad then pure (some 3, .next)
    else if b.state == 0 then pure (some 2, .next)
    else if b.state == 3 then do
      acquire none
      pure (some 1, .next)
    else if completedGen b.gen v then do
      acquire (some v)
      pure (some 0, .next)
    else do
      M.whenB (b.state != 2) (barWrite l { b with state := 2 })
      modS fun s =>
        let ws : List BarWaiter := run.map fun lane =>
          { loc := l, group := x.gid, lane := lane, gen := BitVec.ofNat 32 v, scope := scope }
        s.setMem { s.mem with barw := s.mem.barw ++ ws }
      M.forEach (fun lane => updT x lane fun t =>
        { t with wait := some { what := .barrier l (BitVec.ofNat 32 v), since := 0, elapsed := 0, tval := BitVec.ofNat 64 low,
                                outcome := none } }) run
      stampWaits x run
      pure (none, .stay)
where
  /-- The waits begin now. -/
  stampWaits (x : Iss) (run : List Nat) : M Unit := modS fun s =>
    let now := s.clockOf (((s.group? x.gid).map s.regionOf).getD 0)
    run.foldl (fun s lane => s.updThread x.gid lane fun t => { t with wait := t.wait.map fun w => { w with since := now } }) s

/-- The end of a BARWAIT that has been released: its result, acquired at the scope it was registered with (R313, R150). -/
def barwaitDone (d : BitVec 7) (x : Iss) (lane : Nat) (l : Loc) (gen : Word) (result scope : Nat) : M LaneEnd := do
  barAcquire x lane l (if result == 0 then some gen.toNat else none) scope
  writeVals x lane (oOut .atom d 1) [BitVec.ofNat 32 result]
  pure .next

/-- The barrier wait of a lane that has been released. -/
def State.releasedWait (s : State) (gid lane : Nat) : Option (Loc × Word × Nat × Nat) :=
  match (s.thread? gid lane).bind (·.wait) with
  | some w => match w.what, w.outcome with
    | .barrier l g, some (r, c) => some (l, g, r, c.toNat)
    | _, _ => none
  | none => none

def execBarwait (d : BitVec 7) (p : BitVec 6) (sp : BitVec 1) (c : BitVec 2) (s : State) : Host.Outcome State Fault Refusal :=
  jointly (.barwait d p sp c) (fun x run t =>
    let done := run.filter fun l => (t.releasedWait x.gid l).isSome
    let fresh := run.filter fun l => (t.releasedWait x.gid l).isNone
    let (os, t) := runLanes x (fun lane => do
      let s ← getS
      match s.releasedWait x.gid lane with
      | some (l, g, r, scope) => barwaitDone d x lane l g r scope
      | none => pure .next) done t
    let (qs, t) := onceFor x (x.act.filter fun l => !fresh.contains l) (barwaitFresh d p sp c x) fresh t
    (os ++ qs, t)) s

def execBarkill (d : BitVec 7) (p : BitVec 6) (sp : BitVec 1) (c : BitVec 2) (s : State) : Host.Outcome State Fault Refusal :=
  oncePer (.barkill d p sp c) (fun x run => barrierBody d p sp false x run fun _ l _ => do
    let b ← barRead l
    let scope := max c.toNat b.scope
    waitRelease x.gid scope
    if b.bad then pure (some 3, .next)
    else if b.state == 3 then pure (some 1, .next)
    else do
      barRelease x run l b.gen 1 scope
      barWrite l { b with state := 3 }
      modS fun s => s.releaseWaiters l (fun _ => true) 1
      pure (some 0, .next)) s

/-- A thread enters a blocking wait (R183). -/
def enterWait (x : Iss) (lane : Nat) (what : WaitFor) (tval : DWord) : M LaneEnd := do
  let s ← getS
  let now := s.clockOf (((s.group? x.gid).map s.regionOf).getD 0)
  updT x lane fun t => { t with wait := some { what := what, since := now, elapsed := 0, tval := tval, outcome := none } }
  pure .stay

/-- The wait a lane stands at, if any. -/
def waitOf (x : Iss) (lane : Nat) : M (Option Wait) := do
  let t ← threadM x lane
  pure t.wait

/-- The unit of a WAITADDR as its home holds it: its value, or none for poison (R317).  Copies that could change it are
recalled; a target that is no memory of the module is read once. -/
def waitRead (x : Iss) (lane low size : Nat) (sp : Bool) : M (Loc × Option Nat) := do
  let value (r : List Byte × Bool) : Option Nat := if r.2 then none else some (bytesToNat r.1)
  if sp then do
    let g ← groupM x
    let a ← scrResolve g.wg low size
    let s ← getS
    if s.lineEmpty a then err (.feb a.wg a.addr)
    fillAcquire x lane a
    modS fun s => s.scrRead a size
    let s ← getS
    pure (scrLoc a, value (scrBytes s a size, s.scrPoisoned a size))
  else do
    let a ← reach x lane low size .load [0]
    let v ← viaM x lane
    let keyed ← keyedAt v a
    if keyed then pure (globalLoc a.pa, none)
    else if isMain a.pa && !a.por then do
      let r ← agentRead (keyOf a.pa) size
      modS fun s => s.recallAll (homeOf (keyOf a.pa)) (lineOf (keyOf a.pa)) false
      pure (globalLoc a.pa, value r)
    else do
      let r ← loadAt v a size
      pure (globalLoc a.pa, value r)

def execWaitaddr (w : BitVec 2) (d : BitVec 7) (p : BitVec 6) (k : BitVec 3) (sp : BitVec 1) (c : BitVec 2) (s : State) :
    Host.Outcome State Fault Refusal :=
  perThread (.waitaddr w d p k sp c) (fun x lane => do
    let n := widthN w
    let size := 4 * n
    let dst := oOut .atom d n
    let ends (l : Loc) (m : Nat) : M LaneEnd := do
      acquireRange x lane l size c.toNat
      writeVals x lane dst (natWords n m)
      pure .next
    match ← waitOf x lane with
    | some q => match q.what, q.outcome with
      | .addr l _ _ _, some (0, m) => ends l m.toNat
      -- a restored wait is evaluated again (R180)
      | .addr _ _ _ v, some (2, _) => atAddr q.tval (do
          let (l, m) ← waitRead x lane q.tval.toNat size (sp == 1#1)
          match m with
          | none => raise .poison q.tval
          | some m =>
            if waitCond k.toNat size m v.toNat then ends l m
            else do
              updT x lane fun t => { t with wait := some { q with outcome := none } }
              pure .stay)
      | _, some _ => raise .poison q.tval
      | _, none => pure .stay
    | none => do
      let vs ← readOps x lane [(oIn .atom d n, false), (oAddr p (sp == 1#1), sp == 0#1)]
      let v := wordsNat (vs.getD 0 [])
      let low := wordsNat (vs.getD 1 [])
      alignCheck low size false
      let addr := BitVec.ofNat 64 low
      atAddr addr (do
        let (l, m) ← waitRead x lane low size (sp == 1#1)
        match m with
        | none => raise .poison addr
        | some m =>
          if waitCond k.toNat size m v then ends l m
          else enterWait x lane (.addr l size k.toNat (BitVec.ofNat 64 v)) addr)) s

/-- The scope of an acquire that an XM scope sets (R318). -/
def acquireScope (x : Iss) (dflt : Nat) : Nat := if x.scope == 0 then dflt else x.scope - 1

/-- Whose timeline a handle names: the group's stream timeline, the core's pool timeline, or the workgroup's (R368). -/
def tlOwner (x : Iss) (g : Group) (tl : Nat) : Nat := if tl == 2 then x.gid else if tl == 8 then g.core else g.wg

/-- Acquire the commands numbered up to n of a timeline (R148). -/
def tlAcquire (x : Iss) (lane : Nat) (g : Group) (tl n : Nat) : M Unit :=
  modS fun s => s.acquireAt x.gid lane
    (fun q => q.sp && q.wg == tlOwner x g tl && (tlLoc 0 tl 0).addr ≤ q.addr && q.addr ≤ (tlLoc 0 tl n).addr)
    (acquireScope x (if tl == 8 then 0 else 2))

def execTlwait (t : BitVec 7) (n : BitVec 7) (d : BitVec 7) (s : State) : Host.Outcome State Fault Refusal :=
  perThread (.tlwait t n d) (fun x lane => do
    let dst := oOut .status d 1
    let g ← groupM x
    let s ← getS
    let target : Option Nat ← (do
      match ← waitOf x lane with
      | some q => match q.what with
        | .timeline _ m => pure (some m)
        | _ => pure none
      | none => do
        let vs ← readOps x lane [(oIn .pairX n 2, true)]
        pure (some (wordsNat (vs.getD 0 []))))
    match s.timeline g t.toNat with
    | none => do
      writeVals x lane dst [2#32]
      pure .next
    | some q =>
      let m := target.getD 0
      if m ≤ q.counter then do
        tlAcquire x lane g t.toNat q.counter
        writeVals x lane dst [if q.err then 1#32 else 0#32]
        pure .next
      else enterOnce x lane (.timeline t.toNat m) (BitVec.ofNat 64 m)) s
where
  /-- Stand at a wait, keeping the time of one already begun. -/
  enterOnce (x : Iss) (lane : Nat) (what : WaitFor) (tval : DWord) : M LaneEnd := do
    match ← waitOf x lane with
    | some _ => pure .stay
    | none => enterWait x lane what tval

def execTlread (t : BitVec 7) (d : BitVec 7) (s : State) : Host.Outcome State Fault Refusal :=
  perThread (.tlread t d) (fun x lane => do
    let g ← groupM x
    let s ← getS
    let n := ((s.timeline g t.toNat).map (·.counter)).getD 0
    tlAcquire x lane g t.toNat n
    writeVals x lane (oOut .pair d 2) (natWords 2 n)
    pure .next) s

def execRsect (s : State) : Host.Outcome State Fault Refusal :=
  uniform .rsect (fun x => do
    let g ← groupM x
    if 255 ≤ g.depth then illopNow .rsect
    -- a col that is owed comes before the section
    M.whenB g.colDue (do
      waitRelease x.gid 2
      modS fun s => s.col x.gid)
    updG x fun g => { g with depth := g.depth + 1 }
    pure .next) s

def execRsecx (s : State) : Host.Outcome State Fault Refusal :=
  uniform .rsecx (fun x => do
    let g ← groupM x
    if g.depth == 0 then illopNow .rsecx
    updG x fun g => { g with depth := g.depth - 1 }
    pure .next) s

/-- QPASS (R154, R182, R319). -/
def execQpass (s : State) : Host.Outcome State Fault Refusal :=
  uniform .qpass (fun x => do
    let g ← groupM x
    if g.depth != 0 then illopNow .qpass
    atAddr 0#64 (waitRelease x.gid 2)
    modS fun s => s.col x.gid
    pure .next) s

/-- The grace wait a lane stands at: region and target. -/
def State.graceWait (s : State) (gid lane : Nat) : Option (Nat × Nat) :=
  match (s.thread? gid lane).bind (·.wait) with
  | some w => match w.what with
    | .grace r n => some (r, n)
    | _ => none
  | none => none

/-- GPWAIT (R320): threads whose period has ended take status 0, the others of the entry act once. -/
def execGpwait (t : BitVec 7) (d : BitVec 7) (s : State) : Host.Outcome State Fault Refusal :=
  jointly (.gpwait t d) (fun x run u =>
    let done := run.filter fun l => (u.graceWait x.gid l).isSome
    let fresh := run.filter fun l => (u.graceWait x.gid l).isNone
    let (os, u) := runLanes x (fun lane => do
      let s ← getS
      match s.graceWait x.gid lane with
      | some (r, n) => modS fun s => s.acquireAt x.gid lane (fun l => l == colLoc r n) 2
      | none => pure ()
      writeVals x lane (oOut .status d 1) [0#32]
      pure .next) done u
    let (qs, u) := onceFor x done (fun lanes => do
      let g ← groupM x
      if g.depth != 0 then do
        writeAll x lanes (oOut .comp t 2) [regWord 0#32, regWord 0#32]
        writeAll x lanes (oOut .status d 1) [regWord 1#32]
        pure .next
      else do
        let s ← getS
        let r := s.regionOf g
        let (n, s) := s.graceRequest r
        modS fun _ => s
        writeAll x lanes (oOut .comp t 2) ((natWords 2 n).map regWord)
        M.forEach (fun lane => do
          let _ ← enterWait x lane (.grace r n) 0#64) lanes
        pure .stay) fresh u
    (os ++ qs, u)) s

/-- TIMEAT (R321). -/
def execTimeat (t : BitVec 7) (s : State) : Host.Outcome State Fault Refusal :=
  perThread (.timeat t) (fun x lane => do
    match ← waitOf x lane with
    | some _ => pure .next
    | none => do
      let vs ← readOps x lane [(oIn .pairX t 2, true)]
      let n := wordsNat (vs.getD 0 [])
      let s ← getS
      if n ≤ s.time then pure .next else enterWait x lane (.time n) 0#64) s

/-- TIMERD (R321): read once, written to every thread of the entry or once to an s destination. -/
def execTimerd (d : BitVec 7) (s : State) : Host.Outcome State Fault Refusal :=
  uniform (.timerd d) (fun x => do
    let s ← getS
    writeAll x x.lanes (oOut .pair d 2) ((natWords 2 s.time).map regWord)
    pure .next) s

end Sys2Proof.Machine
end

