-- ==== Sys2Proof/Machine/Uniform.lean ====
section
/-! DEFINITION. The uniform instructions (R291 to R295). -/
namespace Sys2Proof.Machine

/-- The operand code TVAL names for uniform register k (R217, R400). -/
def uniformCode (k : Nat) : Nat := if k < 16 then 104 + k else Config.uniformTval k

/-- Uniform registers, checked: POISON on any of them, then REGERR (R75, R266). -/
def readSs (x : Iss) (ks : List Nat) : M (List Word) := do
  let g ← groupM x
  match ks.find? fun k => (g.getS k).poisoned with
  | some k => raise .poison (BitVec.ofNat 64 (uniformCode k))
  | none => pure ()
  match ks.find? fun k => (g.getS k).bad with
  | some k => raise .regerr (BitVec.ofNat 64 (uniformCode k))
  | none => pure ()
  pure (ks.map fun k => (g.getS k).val)

/-- Uniform register k, checked. -/
def readS (x : Iss) (k : Nat) : M Word := do
  let vs ← readSs x [k]
  pure (vs.getD 0 0#32)

/-- Write uniform register k with what its value depends on (R139). -/
def writeS (x : Iss) (k : Nat) (v : Word) (dep : NMap (NMap Nat) := []) : M Unit :=
  updG x fun g => let g := g.setS k (regWord v); { g with sdeps := setSDep g.sdeps k dep }

/-- Write the uniform result of a residue class (R74, R75): lane 32 of `resultOf`. -/
def writeSRes (x : Iss) (k : Nat) (cls : ResClass) (ws : List Word) (dep : NMap (NMap Nat) := []) : M Unit := do
  let rs ← resultOf x 32 cls ws
  updG x fun g => (rs.zipIdx).foldl (fun g r => let g := g.setS (k + r.2) r.1; { g with sdeps := setSDep g.sdeps (k + r.2) dep }) g

/-- The source y (R291): the register it names, if it names one, and its value given what that register holds. -/
def yRegs (k : BitVec 1) (y : BitVec 9) : List Nat := if k == 0#1 then [y.toNat % 64] else []
def yValue (x : Iss) (y : BitVec 9) (vs : List Word) : Int :=
  match vs with
  | [] => x.imm y
  | v :: _ => sext 32 v.toNat

/-- What the source y knows of other regions. -/
def yDep (g : Group) (k : BitVec 1) (y : BitVec 9) : NMap (NMap Nat) := if k == 0#1 then sDep g (y.toNat % 64) else []

/-- s[sd] := f s[sa] y (R291). -/
def uniformBody (i : Instr) (d a : BitVec 6) (k : BitVec 1) (y : BitVec 9) (f : Nat → Nat → Nat) (x : Iss) : M LaneEnd := do
  let g ← groupM x
  let vs ← readSs x (a.toNat :: yRegs k y)
  writeSRes x d.toNat (resClass i) [BitVec.ofNat 32 (f (vs.getD 0 0#32).toNat (wrap 32 (yValue x y (vs.drop 1))))]
    (joinDeps (sDep g a.toNat) (yDep g k y))
  pure .next

def uniformOp (i : Instr) (d a : BitVec 6) (k : BitVec 1) (y : BitVec 9) (f : Nat → Nat → Nat) (s : State) :
    Host.Outcome State Fault Refusal :=
  uniform i (uniformBody i d a k y f) s

/-- R292. -/
def scmpOf (a b : Nat) : Nat :=
  (if a == b then 1 else 0) + (if sext 32 a < sext 32 b then 2 else 0) + (if a < b then 4 else 0)

def execSadd (d a : BitVec 6) (k : BitVec 1) (y : BitVec 9) (s : State) : Host.Outcome State Fault Refusal :=
  uniformOp (.sadd d a k y) d a k y (fun p q => p + q) s
def execSsub (d a : BitVec 6) (k : BitVec 1) (y : BitVec 9) (s : State) : Host.Outcome State Fault Refusal :=
  uniformOp (.ssub d a k y) d a k y (fun p q => p + 2 ^ 32 - q) s
def execSmul (d a : BitVec 6) (k : BitVec 1) (y : BitVec 9) (s : State) : Host.Outcome State Fault Refusal :=
  uniformOp (.smul d a k y) d a k y (fun p q => p * q) s
def execSmin (d a : BitVec 6) (k : BitVec 1) (y : BitVec 9) (s : State) : Host.Outcome State Fault Refusal :=
  uniformOp (.smin d a k y) d a k y (fun p q => intMin 32 false [p, q]) s
def execSmax (d a : BitVec 6) (k : BitVec 1) (y : BitVec 9) (s : State) : Host.Outcome State Fault Refusal :=
  uniformOp (.smax d a k y) d a k y (fun p q => intMax 32 false [p, q]) s
def execSminn (d a : BitVec 6) (k : BitVec 1) (y : BitVec 9) (s : State) : Host.Outcome State Fault Refusal :=
  uniformOp (.sminn d a k y) d a k y (fun p q => intMin 32 true [p, q]) s
def execSmaxn (d a : BitVec 6) (k : BitVec 1) (y : BitVec 9) (s : State) : Host.Outcome State Fault Refusal :=
  uniformOp (.smaxn d a k y) d a k y (fun p q => intMax 32 true [p, q]) s
def execSand (d a : BitVec 6) (k : BitVec 1) (y : BitVec 9) (s : State) : Host.Outcome State Fault Refusal :=
  uniformOp (.sand d a k y) d a k y (fun p q => p &&& q) s
def execSor (d a : BitVec 6) (k : BitVec 1) (y : BitVec 9) (s : State) : Host.Outcome State Fault Refusal :=
  uniformOp (.sor d a k y) d a k y (fun p q => p ||| q) s
def execSxor (d a : BitVec 6) (k : BitVec 1) (y : BitVec 9) (s : State) : Host.Outcome State Fault Refusal :=
  uniformOp (.sxor d a k y) d a k y (fun p q => p ^^^ q) s
def execSshl (d a : BitVec 6) (k : BitVec 1) (y : BitVec 9) (s : State) : Host.Outcome State Fault Refusal :=
  uniformOp (.sshl d a k y) d a k y (fun p q => shiftL 32 p (q % 32)) s
def execSshr (d a : BitVec 6) (k : BitVec 1) (y : BitVec 9) (s : State) : Host.Outcome State Fault Refusal :=
  uniformOp (.sshr d a k y) d a k y (fun p q => shiftR p (q % 32)) s
def execSsar (d a : BitVec 6) (k : BitVec 1) (y : BitVec 9) (s : State) : Host.Outcome State Fault Refusal :=
  uniformOp (.ssar d a k y) d a k y (fun p q => shiftA 32 p (q % 32)) s
def execSrotl (d a : BitVec 6) (k : BitVec 1) (y : BitVec 9) (s : State) : Host.Outcome State Fault Refusal :=
  uniformOp (.srotl d a k y) d a k y (fun p q => rotateL 32 p (q % 32)) s
def execScmp (d a : BitVec 6) (k : BitVec 1) (y : BitVec 9) (s : State) : Host.Outcome State Fault Refusal :=
  uniformOp (.scmp d a k y) d a k y scmpOf s

def execSmov (d b : BitVec 6) (s : State) : Host.Outcome State Fault Refusal :=
  uniform (.smov d b) (fun x => do
    let g ← groupM x
    let v ← readS x b.toNat
    writeSRes x d.toNat .forwarded [v] (sDep g b.toNat)
    pure .next) s
def execSmovi (d : BitVec 6) (i : BitVec 9) (s : State) : Host.Outcome State Fault Refusal :=
  uniform (.smovi d i) (fun x => do
    writeSRes x d.toNat .regenerated [BitVec.ofNat 32 (immWord x i)]
    pure .next) s
def execSsel (d a b : BitVec 6) (s : State) : Host.Outcome State Fault Refusal :=
  uniform (.ssel d a b) (fun x => do
    let g ← groupM x
    let vs ← readSs x [d.toNat, a.toNat, b.toNat]
    writeSRes x d.toNat .forwarded [if vs.getD 0 0#32 != 0#32 then vs.getD 1 0#32 else vs.getD 2 0#32]
      (joinDeps (sDep g d.toNat) (joinDeps (sDep g a.toNat) (sDep g b.toNat)))
    pure .next) s

/-- VRD (R293): register j of lane s[sa]. -/
def execVrd (d a : BitVec 6) (j : BitVec 7) (s : State) : Host.Outcome State Fault Refusal :=
  uniform (.vrd d a j) (fun x => do
    let g ← groupM x
    let c := g.getS a.toNat
    let lane := c.val.toNat % 32
    let r := g.getV lane j.toNat
    -- POISON on either source, then REGERR (R266)
    if c.poisoned then raise .poison (BitVec.ofNat 64 (uniformCode a.toNat))
    if r.poisoned then raise .poison (BitVec.ofNat 64 j.toNat)
    if c.bad then raise .regerr (BitVec.ofNat 64 (uniformCode a.toNat))
    if r.bad then raise .regerr (BitVec.ofNat 64 j.toNat)
    writeSRes x d.toNat .forwarded [r.val] (joinDeps (sDep g a.toNat) [(lane, g.vdeps.get [] (j.toNat * 32 + lane))])
    pure .next) s

/-- VWR (R293). -/
def execVwr (d a : BitVec 6) (j : BitVec 7) (s : State) : Host.Outcome State Fault Refusal :=
  uniform (.vwr d a j) (fun x => do
    let vs ← readSs x [d.toNat, a.toNat]
    let lane := (vs.getD 1 0#32).toNat % 32
    let rs ← resultOf x 32 .forwarded [vs.getD 0 0#32]
    updG x fun g =>
      let dep := (joinDeps (sDep g d.toNat) (sDep g a.toNat)).get [] lane
      let g := g.setV lane j.toNat (rs.getD 0 zeroWord)
      { g with vdeps := setDep g.vdeps (j.toNat * 32 + lane) dep }
    pure .next) s

/-- SLEA (R294): y scaled by 1, 4, 8 or 16. -/
def execSlea (c : BitVec 2) (d a : BitVec 6) (k : BitVec 1) (y : BitVec 9) (s : State) : Host.Outcome State Fault Refusal :=
  uniform (.slea c d a k y) (fun x => do
    let g ← groupM x
    let vs ← readSs x (a.toNat :: (a.toNat + 1) :: yRegs k y)
    let q := yValue x y (vs.drop 2)
    let h := (dword (vs.getD 0 0#32) (vs.getD 1 0#32)).toNat
    let scale : Nat := if c == 0#2 then 1 else 2 ^ (c.toNat + 1)
    let r := wrap 64 (h + q * scale)
    if r / 2 ^ 48 != h / 2 ^ 48 then raise .bufbound (BitVec.ofNat 64 h)
    let dep := joinDeps (sDep g a.toNat) (joinDeps (sDep g (a.toNat + 1)) (yDep g k y))
    writeSRes x d.toNat .predicted [BitVec.ofNat 32 r, BitVec.ofNat 32 (r / 2 ^ 32)] dep
    pure .next) s

end Sys2Proof.Machine
end

