-- ==== Sys2Proof/Machine/Control.lean ====
section
/-! DEFINITION. Control transfers and the return stack (R172, R173, R323 to R326), masks (R327 to R329), priority (R330), NOP, EXIT,
TRAP and BKPT (R331, R332), and hints (R220, R224 to R229). -/
namespace Sys2Proof.Machine

/-- Thread t's spill area in a grid (R173): its handle address before the carry out of the offset is checked, and its size. -/
def spillOf (x : Iss) (lane : Nat) : M (Nat × Nat × Nat) := do
  let s ← getS
  let g ← groupM x
  match s.wgs.look g.wg with
  | none => pure (0, 0, 0)
  | some w =>
    let size := if w.task then 0 else w.spillSize
    pure (w.spill.toNat, size * (w.wix * 32 * w.groups + g.gix * 32 + lane), size)

/-- The address of the spilled entry k of a lane, as a handle address (R172, R173, R326). -/
def spillAddr (base area k : Nat) : Nat := wrap 64 (base + area + 16 * k)

/-- Checks and translation of a spill access (R17, R326): each of its faults is taken at the instruction, MISALIGN too. -/
def spillReach (x : Iss) (lane base area k : Nat) (kind : Kind) (watch : Nat) : M (Nat × Xlat) := do
  let h ← handleOf base (area + 16 * k)
  alignCheck h 16 true
  let a ← atAddr (BitVec.ofNat 64 h) (reach x lane h 16 kind [watch])
  pure (h, a)

/-- Push a return entry (R172): with four on chip, the oldest is stored to the spill area first. -/
def pushReturn (x : Iss) (lane : Nat) (e : StackEntry) : M Unit := do
  let t ← threadM x lane
  if t.stack.length < 4 then updT x lane fun t => { t with stack := e :: t.stack }
  else do
    let (base, area, size) ← spillOf x lane
    if size < 16 * t.spilled + 16 then raise .callovf (BitVec.ofNat 64 (spillAddr base area t.spilled))
    let (h, a) ← spillReach x lane base area t.spilled .store 1
    let old := t.stack.getD 3 { pc := 0#64, prio := 0#8 }
    atAddr (BitVec.ofNat 64 h) (do
      let v ← viaM x lane
      let dep : NMap Nat := []
      M.whenB a.enc (exhaustGate a.pa)
      raced x lane (raceChecked a false) dep (globalLoc a.pa) 16 0 true
        (storeAt v a (natToBytes 16 (old.pc.toNat + old.prio.toNat * 2 ^ 64)))
      modS fun s => s.breakChain false 0 (keyOf a.pa) 16)
    updT x lane fun t => { t with stack := e :: t.stack.take 3, spilled := t.spilled + 1 }

/-- The newest return entry (R172, R325): on chip, or loaded from the spill area. -/
def peekReturn (i : Instr) (x : Iss) (lane : Nat) : M StackEntry := do
  let t ← threadM x lane
  match t.stack with
  | e :: _ => pure e
  | [] =>
    if t.spilled == 0 then illopNow i
    else do
      let (base, area, _) ← spillOf x lane
      let (h, a) ← spillReach x lane base area (t.spilled - 1) .load 0
      atAddr (BitVec.ofNat 64 h) (do
        let v ← viaM x lane
        let dep : NMap Nat := []
        let (bs, bad) ← raced x lane (raceChecked a true) dep (globalLoc a.pa) 16 0 false (loadAt v a 16)
        if bad then err .poison
        let n := bytesToNat bs
        pure { pc := BitVec.ofNat 64 n, prio := BitVec.ofNat 8 (n / 2 ^ 64) })

/-- Remove it. -/
def popReturn (x : Iss) (lane : Nat) (e : StackEntry) : M Unit :=
  updT x lane fun t =>
    match t.stack with
    | _ :: rest => { t with stack := rest, prio := e.prio }
    | [] => { t with spilled := t.spilled - 1, prio := e.prio }

/-- A control target must be a word address (R213); the trap is precise and goes to the handler (R325). -/
def targetCheck (nt : DWord) : M Unit := if nt.toNat % 4 != 0 then raise .misalign nt else pure ()

/-- Call a target: the return entry names the next word with the thread's priority. -/
def callTo (x : Iss) (lane : Nat) (nt : DWord) : M LaneEnd := do
  targetCheck nt
  let t ← threadM x lane
  pushReturn x lane { pc := x.pc + 4#64, prio := t.prio }
  pure (.goto nt)

/-- BRA (R323). -/
def execBra (m : BitVec 4) (p : BitVec 1) (o : BitVec 20) (s : State) : Host.Outcome State Fault Refusal :=
  perThread (.bra m p o) (fun x lane => do
    let g ← groupM x
    let passes : Bool := m == 12#4 || bit (g.mask m.toNat).toNat lane != (p == 1#1)
    if passes then do
      let nt := x.pc + (o.signExtend 64) * 4#64
      if nt.toNat / 2 ^ 48 != x.pc.toNat / 2 ^ 48 then raise .bufbound nt
      pure (.goto nt)
    else pure .next) s

/-- BRX (R324, R325). -/
def execBrx (a : BitVec 7) (s : State) : Host.Outcome State Fault Refusal :=
  perThread (.brx a) (fun x lane => do
    let vs ← readOps x lane [(oIn .pair a 2, true)]
    let nt := BitVec.ofNat 64 (wordsNat (vs.getD 0 []))
    targetCheck nt
    pure (.goto nt)) s

/-- CALL (R324, R325): relative to the CALL word itself. -/
def execCall (s : State) : Host.Outcome State Fault Refusal :=
  perThread .call (fun x lane => do
    let nt := BitVec.ofNat 64 (wrap 64 (x.pc.toNat + 4 * x.xwValue))
    if nt.toNat / 2 ^ 48 != x.pc.toNat / 2 ^ 48 then raise .bufbound nt
    callTo x lane nt) s

/-- CALLX (R324, R325). -/
def execCallx (a : BitVec 7) (s : State) : Host.Outcome State Fault Refusal :=
  perThread (.callx a) (fun x lane => do
    let vs ← readOps x lane [(oIn .pair a 2, true)]
    callTo x lane (BitVec.ofNat 64 (wordsNat (vs.getD 0 [])))) s

/-- RET (R172, R325). -/
def execRet (s : State) : Host.Outcome State Fault Refusal :=
  perThread .ret (fun x lane => do
    let e ← peekReturn .ret x lane
    targetCheck e.pc
    popReturn x lane e
    pure (.goto e.pc)) s

/-- Set or clear a lane's bit of a mask. -/
def maskBit (x : Iss) (lane m : Nat) (on : Bool) : M Unit :=
  updG x fun g =>
    let b := BitVec.ofNat 32 (2 ^ lane)
    { g with masks := g.masks.set m (if on then g.mask m ||| b else g.mask m &&& ~~~b) }

def execJoin (m : BitVec 7) (s : State) : Host.Outcome State Fault Refusal :=
  perThread (.join m) (fun x lane => do
    maskBit x lane m.toNat true
    pure .next) s

def execLeave (m : BitVec 7) (s : State) : Host.Outcome State Fault Refusal :=
  perThread (.leave m) (fun x lane => do
    maskBit x lane m.toNat false
    pure .next) s

/-- WAITM (R327): each active thread stands at it; `finish` ends the waits that hold no longer. -/
def execWaitm (m : BitVec 7) (s : State) : Host.Outcome State Fault Refusal :=
  perThread (.waitm m) (fun x lane => enterWait x lane (.mask m.toNat) 0#64) s

/-- Write a mask whole (R329). -/
def setMask (x : Iss) (d : Nat) (v : Group → BitVec 32) : M LaneEnd := do
  updG x fun g => g.setMask d (v g)
  pure .next

def execMset (d : BitVec 7) (a : BitVec 7) (s : State) : Host.Outcome State Fault Refusal :=
  uniform (.mset d a) (fun x => do
    let vs ← readOps x (leader x) [(oIn .mset a 1, false)]
    let v := (vs.getD 0 []).getD 0 0#32
    setMask x d.toNat fun _ => v) s
def execMand (d a b : BitVec 7) (s : State) : Host.Outcome State Fault Refusal :=
  uniform (.mand d a b) (fun x => setMask x d.toNat fun g => g.mask a.toNat &&& g.mask b.toNat) s
def execMor (d a b : BitVec 7) (s : State) : Host.Outcome State Fault Refusal :=
  uniform (.mor d a b) (fun x => setMask x d.toNat fun g => g.mask a.toNat ||| g.mask b.toNat) s
def execMxor (d a b : BitVec 7) (s : State) : Host.Outcome State Fault Refusal :=
  uniform (.mxor d a b) (fun x => setMask x d.toNat fun g => g.mask a.toNat ^^^ g.mask b.toNat) s
def execMnot (d a : BitVec 7) (s : State) : Host.Outcome State Fault Refusal :=
  uniform (.mnot d a) (fun x => setMask x d.toNat fun g => ~~~(g.mask a.toNat)) s
def execMmov (d a : BitVec 7) (s : State) : Host.Outcome State Fault Refusal :=
  uniform (.mmov d a) (fun x => do
    if d.toNat < 104 then setMask x d.toNat fun g => g.mask a.toNat
    else do
      let g ← groupM x
      writeS x (d.toNat - 104) (g.mask a.toNat)
      pure .next) s

def execPrio (n : BitVec 8) (s : State) : Host.Outcome State Fault Refusal :=
  perThread (.prio n) (fun x lane => do
    updT x lane fun t => { t with prio := n }
    pure .next) s

def execNop (s : State) : Host.Outcome State Fault Refusal := uniform .nop (fun _ => pure .next) s

/-- What follows the exit of threads (R332, R405): trap mode ends with its last trapped thread, the group with its last. -/
def State.afterExit (s : State) (gid : Nat) : State :=
  let s := (s.trapExits gid).settleMasks gid
  match s.group? gid with
  | none => s
  | some g => if g.threads.all fun p => p.2.exited then s.groupExit gid else s.colIfBlocked gid

/-- EXIT (R332). -/
def execExitI (s : State) : Host.Outcome State Fault Refusal :=
  match perThread .exitI (fun x lane => do
      atAddr 0#64 (waitRelease x.gid 2)
      let g ← groupM x
      modS fun s => s.releaseAt x.gid lane (gridEnd (((s.wgs.look g.wg).map (·.launch)).getD 0)) 2 true
      pure .exit) s with
  | .next t => .next (match s.issuer with
      | some (gid, _, _) => t.afterExit gid
      | none => t)
  | r => r

/-- A system call of some lanes of an issue (R331, R338): every thread of the entry moves on, then those lanes trap with TPC naming
the next word. -/
def sysTrap (i : Instr) (whole : Bool) (tval : Nat) (s : State) : Host.Outcome State Fault Refusal :=
  jointlyOr i (fun x run t =>
    let lanes := if whole then x.lanes else run
    let u := finish i x (run.map (·, .ok .next)) t
    some (u.takeTrap x.gid (lanes.map (·, trapOf .syscall (BitVec.ofNat 64 tval))) (x.pc + 4#64)))
    (fun _ _ t => ([], t)) s

def execTrap (k : BitVec 16) (s : State) : Host.Outcome State Fault Refusal := sysTrap (.trap k) false (k.toNat + 2 ^ 16) s

/-- BKPT (R331): TPC names the BKPT, from its first hint on. -/
def execBkpt (k : BitVec 16) (s : State) : Host.Outcome State Fault Refusal :=
  perThread (.bkpt k) (fun _ _ => raise .bkpt (BitVec.ofNat 64 k.toNat)) s

/-- A hint that may not follow those a thread holds (R224, reason 0x06), an XH in an open window (R221, reason 0x07), or a hint
with an illegal field. -/
def hintBad (i : Instr) (h : Hint) (w : Option Window) : Option Nat :=
  bothBad i.illegal (match i with
    | .xh _ => bothBad (failIf (h.xh.isSome || h.xm.isSome || !h.xw.isEmpty) 0x06) (failIf w.isSome 0x07)
    | .xm .. => failIf (h.xm.isSome || !h.xw.isEmpty) 0x06
    | _ => failIf (2 ≤ h.xw.length) 0x06)

/-- A hint issues (R224): every thread of the entry keeps it for its next instruction. -/
def takeHint (i : Instr) (f : Hint → Hint) (s : State) : Host.Outcome State Fault Refusal :=
  match s.issuer with
  | none => .fault .noIssuer
  | some (gid, g, lanes) =>
    let x := s.issueOf gid g lanes
    let t0 := g.thread? (lanes.headD 0)
    let h := (t0.bind (·.hint)).getD { first := x.pc, xh := none, xm := none, xw := [] }
    let failed := s.failedLanes gid lanes
    if !failed.isEmpty then .next (s.takeFailed x failed)
    else match hintBad i h g.window with
    | some reason => .next (s.illop gid g lanes x.first ((encodeNat i).getD 0) reason)
    | none =>
      let watch := match s.watchHit (s.regionOf g) x.pc.toNat 4 2 with
        | some a => (lanes.filter fun l => !((g.thread? l).map (·.nowatch)).getD true).map fun l =>
            (l, { trapOf .watch (BitVec.ofNat 64 a) with hold := g.window.isSome })
        | none => []
      if !watch.isEmpty then .next (s.takeFailed { x with first := if g.window.isSome then x.xhOf g else x.first } watch)
      else
        let h' := f h
        let take (p : Nat × Thread) : Nat × Thread :=
          if lanes.contains p.1 then (p.1, { p.2 with hint := some h', pc := x.pc + 4#64 }) else p
        .next (s.updGroup gid fun g => { g with stall := none, threads := g.threads.map take })

def execXw (p : BitVec 23) (s : State) : Host.Outcome State Fault Refusal :=
  takeHint (.xw p) (fun h => { h with xw := h.xw ++ [p] }) s
def execXh (c : BitVec 3) (s : State) : Host.Outcome State Fault Refusal := takeHint (.xh c) (fun h => { h with xh := some c }) s
def execXm (r : BitVec 3) (sa n a m b : BitVec 1) (p : BitVec 4) (l : BitVec 1) (o : BitVec 7) (c : BitVec 3) (s : State) :
    Host.Outcome State Fault Refusal :=
  let i : Instr := .xm r sa n a m b p l o c
  takeHint i (fun h => { h with xm := (encodeNat i).map (BitVec.ofNat 23) }) s

end Sys2Proof.Machine
end

