-- ==== Sys2Proof/Machine/Command.lean ====
section
/-! DEFINITION. What every engine command shares: its issue and number (R147, R346, R369), staging units (R72, R364, R375), and
addresses an engine forms. -/
namespace Sys2Proof.Machine

/-- The issue scope of a command (R147): the default, widened by an XM scope. -/
def issueScope (x : Iss) (dflt : Nat) : Nat := max dflt (x.scope - 1)

/-- What happens before a command's issue is passed to whoever sees it complete (R132, R148). -/
def commandRelease (x : Iss) (lanes : List Nat) (loc : Loc) : M Unit :=
  modS fun s => lanes.foldl (fun s lane => s.releaseAt x.gid lane loc 2 true) s

/-- Number a command on a workgroup timeline (R368, R369). -/
def numberCommand (x : Iss) (lanes : List Nat) (tl : Nat) : M Nat := do
  let g ← groupM x
  let s ← getS
  let (n, s) := s.issueTl g.wg tl
  modS fun _ => s
  commandRelease x lanes (tlLoc g.wg tl n)
  pure n

/-- Write a command number to its completion operand (R346): 0 names no command (R369). -/
def writeNumber (x : Iss) (lanes : List Nat) (c : BitVec 7) (n : Nat) : M Unit :=
  writeAll x lanes (oOut .comp c 2) ((natWords 2 n).map regWord)

/-- The wait for the release counter of a command's issue scope (R147), as a wait under FENCE. -/
def commandFence (x : Iss) (scope : Nat) : M Unit := atAddr 0#64 (waitRelease x.gid scope)

/-- A command that acts once per issue on uniform operands: read and checked once, its traps every thread's (R369, R372). -/
def command (i : Instr) (body : Iss → List Nat → M Unit) (s : State) : Host.Outcome State Fault Refusal :=
  oncePer i (fun x lanes => do
    body x lanes
    pure .next) s

/-- Staging units of a bank of a core in use: streams' queues and started matrix commands. -/
def State.unitsUsed (s : State) (c b : Nat) : Nat :=
  let streams := (s.groups.filter fun p => p.2.core == c && !p.2.exited).foldl (fun n p =>
    n + (p.2.queues.filter fun q => q.2.unit == some b && (q.2.stream.isSome || !q.2.words.isEmpty)).length) 0
  streams + ((s.core c).mxe.queue.filter fun q => q.started && q.unit == some b).length

/-- A free staging unit: the lowest MXS bank with room among its 16 (R72). -/
def State.freeUnit (s : State) (c : Nat) : Option Nat :=
  (List.range 96).find? fun b => ((s.core c).banks.get .reset b).role == .mxs && s.unitsUsed c b < 16

/-- Whether the core has an MXS bank at all. -/
def State.hasMxs (s : State) (c : Nat) : Bool := (s.core c).banks.any fun p => p.2.role == .mxs

/-- An address an engine forms: a sum that leaves the handle's offset is a translation fault (R9, R370). -/
def engineAddr (h : Nat) (off : Int) : M Nat :=
  let a := wrap 64 (h + off)
  if a / 2 ^ 48 != h / 2 ^ 48 then trapM .bufbound else pure a

/-- What a part that fails leaves all the same: the fabric's and the targets' logs of a denial (R27, R44), and the requests it has made
outside, less those it has had answered. -/
def State.keepLogs (s t : State) : State :=
  let s := { s with barReqs := t.barReqs.filter fun q => !q.used, nextReq := t.nextReq, cxlReqs := t.cxlReqs }
  let denials (l : List (BReg × DWord)) : List (BReg × DWord) := l.filter fun p => match p.1 with
    | .denycount _ | .matctl _ => true
    | _ => false
  (List.range 4).foldl (fun s b =>
    let x := s.basin b
    let y := t.basin b
    if x.fablog == y.fablog && x.denial == y.denial && denials x.regs == denials y.regs then s
    else s.setBasin b { x with fablog := y.fablog, denial := y.denial,
                               regs := (denials y.regs).foldl (fun l p => assignReg l p.1 p.2) x.regs }) s

/-- The answers to requests outside that a unit of work has taken are gone with it, and are taken anew when it is tried again. -/
def State.answersGone (s : State) : State := { s with barReqs := s.barReqs.filter fun q => !q.used }
def State.answersKept (s : State) : State :=
  if s.barReqs.any (·.used) then { s with barReqs := s.barReqs.map fun (q : BarReq) => { q with used := false } } else s

/-- Perform a unit whole or not at all: a failed part leaves nothing but logs, a wait keeps what it has asked for; one that meets poison
has written nothing. -/
def wholeUnit {α : Type} (m : M α) : M α := fun s =>
  match m s.answersKept with
  | .ok a t => .ok a t.answersGone
  | .error (.stall r) t => .error (.stall r) t
  | .error .poison t => .error .poison t.answersGone
  | .error e t => .error e (s.keepLogs t)

end Sys2Proof.Machine
end

