-- ==== Sys2Proof/Machine/Collective.lean ====
section
/-! DEFINITION. Collectives and communicators (R392 to R397, R422 to R424): COLL, CABORT and CSTAT, the steps of a collective,
abort notices, and creating, re-forming and destroying a communicator. -/
namespace Sys2Proof.Machine

/-- A step's message (R393, R395, R423): the sender's epoch and collective, its descriptor word 0 and COUNT, why the sender sends
no data (a cause, or 0), and the block for the receiver. -/
structure StepMsg where
  epoch : Nat
  k     : Nat
  word0 : Nat
  count : Nat
  fail  : Nat
  data  : List Nat
  deriving DecidableEq, Repr

def StepMsg.toList (m : StepMsg) : List Nat := m.epoch :: m.k :: m.word0 :: m.count :: m.fail :: m.data
def StepMsg.ofList : List Nat → Option StepMsg
  | e :: k :: w :: c :: f :: d => some { epoch := e, k := k, word0 := w, count := c, fail := f, data := d }
  | _ => none

def Coll.word0 (c : Coll) : Nat := (c.desc.getD 0 0#32).toNat

/-- The local rank that a region's collectives on a communicator belong to (R392): that of the nearest ancestor bound to one, the
lowest rank first; an excluded rank stands for its own region. -/
def State.boundRank (s : State) (comm region : Nat) : Option CommRank :=
  (s.chain 17 region).findSome? fun r =>
    (s.ranks.find? fun q => q.comm == comm && q.region == r && !q.excluded).orElse fun _ =>
      s.ranks.find? fun q => q.comm == comm && q.region == r

/-- A rank by its own record, excluded or not. -/
def State.updRankOf (s : State) (q : CommRank) (f : CommRank → CommRank) : State :=
  { s with ranks := s.ranks.map fun r =>
      if r.comm == q.comm && r.rank == q.rank && r.excluded == q.excluded then f r else r }

/-- A COLL descriptor with a bad field (R393). -/
def Coll.bad (c : Coll) : Bool :=
  (c.desc.getD 7 0#32) != 0#32 || bits c.word0 0 20 != 0 || 4 < c.kind || 2 < c.op || (2 ≤ c.kind && c.op != 0) || 7 < c.typ
    || c.send % 16 != 0 || c.recv % 16 != 0 || (c.kind == 4 && (c.count != 0 || c.send != 0 || c.recv != 0))

/-- The cause an access error of a collective is (R395). -/
def AErr.cause : AErr → Option Nat
  | .down => some 2
  | .deny => some 3
  | .poison => some 4
  | .stall _ | .feb _ _ => none
  | _ => some 10

/-- The step timeout of a communicator in ns (R392). -/
def State.tstep (s : State) (comm : Nat) : Nat := ((s.comms.look comm).map (·.tstep)).getD 1000000

/-- Whether a collective waits for its start time or for one of its workgroup issued before it (R211). -/
def State.collHeld (s : State) (c : Coll) : Bool :=
  s.ranks.any fun r => r.colls.any fun d => d.wg == c.wg && d.num ≤ c.num &&
    (match d.start with
     | some t => decide (s.time < t)
     | none => false)

/-- The collective a rank works on (R392): its first, once it may start. -/
def State.collOf (s : State) (r : CommRank) : Option Coll :=
  if r.state != 0 then none
  else match r.colls with
    | c :: _ => if s.collHeld c then none else some c
    | [] => none

/-- When the steps of a rank's first collective became due (R395): all of them at once, when the rank had issued it, completed
the one before and reached its start time. -/
def Coll.due (c : Coll) : Nat := max c.issue (c.start.getD 0)

/-- Change a rank's first collective. -/
def State.updFront (s : State) (comm rank : Nat) (f : Coll → Coll) : State :=
  s.updRank comm rank fun r => { r with colls := match r.colls with
    | c :: cs => f c :: cs
    | [] => [] }

/-- The block a rank sends to another (R393), with the cause of a failure in its place (R395). -/
def collBlock (c : Coll) (target : Nat) : M (List Nat) := do
  let z := collSize c.typ
  let off := if c.kind == 1 || c.kind == 3 then target * c.count * z else 0
  if c.kind == 4 then pure []
  else do
    let (bs, bad) ← engineRead (cxeWho c.region) (engineVia 0 c.region 0x78) (c.send + off) (c.count * z) .load
    if bad then err .poison
    pure ((List.range c.count).map fun e => bytesToNat ((bs.drop (z * e)).take z))

/-- A rank's first collective completes when every contribution has arrived and its own have left (R393 to R395). -/
def State.collTry (s : State) (comm rank : Nat) : State :=
  match s.rank? comm rank with
  | none => s
  | some r =>
    match s.collOf r with
    | none => s
    | some c =>
      let n := s.commSize comm
      if (List.range n).all fun i => (c.got.look i).isSome && c.sent.contains i then
        match (wholeUnit (collWrite c n false)).outcome s with
        | (.ok _, t) =>
          let t := t.completeOpen c.wg 6 c.num stOK
          let next (d : Coll) : Coll := { d with issue := max d.issue s.time }
          t.updRank comm rank fun r => { r with colls := match r.colls.drop 1 with
            | d :: ds => next d :: ds
            | [] => [] }
        | (.error e, t) =>
          match e.cause with
          | some k => t.breakRank comm rank rank k true
          | none => t
      else s

/-- A step's message reaches the rank it is for (R394, R395). -/
def State.stepArrives (s : State) (comm sender rank : Nat) (m : StepMsg) : State :=
  match s.rank? comm rank with
  | none => s
  | some r =>
    match s.collOf r with
    | none => s
    | some c =>
      if m.fail != 0 then s.breakRank comm rank sender m.fail true
      else if bits m.word0 28 4 != c.kind || bits m.word0 20 4 != c.typ || m.count != c.count then s.breakRank comm rank sender 6 true
      else (s.updFront comm rank fun c => { c with got := c.got.set sender m.data }).collTry comm rank

/-- A message of the CXE leaves the module, or waits for the rank on this one that it is for. -/
def State.post (s : State) (n : Notice) : State := { s with notices := s.notices ++ [n] }

/-- The epoch of a communicator as this module's CXE knows it (R423). -/
def State.commEpoch (s : State) (comm : Nat) : Nat :=
  (s.ranks.filter fun r => r.comm == comm).foldl (fun m r => max m r.epoch) 0

/-- COLL_STEP (R394, R395, R423): the transfer from `sender` to `rank`.  A sender on this module reads its block; the message of a
sender elsewhere is `data`: one of an older epoch is rejected, whatever its numbers name now, and one for a collective that the receiver
has not come to waits. -/
def execCollStep (comm sender rank : Nat) (data : List Nat) (s : State) : Host.Outcome State Fault Refusal :=
  .next (match StepMsg.ofList data with
  | some m =>
    let s : State := { s with ranks := s.ranks.map fun (r : CommRank) =>
      if r.comm == comm && r.inbox.contains (sender, data) then { r with inbox := r.inbox.erase (sender, data) } else r }
    if !s.ranks.any fun r => r.comm == comm then s
    else if m.epoch < s.commEpoch comm then
      s.post { comm := comm, kind := 2, target := sender, culprit := rank, cause := 9, epoch := s.commEpoch comm, data := [] }
    else match s.rank? comm rank with
      | none => s
      | some r =>
        let now : Bool := m.epoch == r.epoch && ((s.collOf r).map fun c => c.k == m.k).getD false
        if now then s.stepArrives comm sender rank m
        else s.updRank comm rank fun r => { r with inbox := r.inbox ++ [(sender, data)] }
  | none => match s.rank? comm sender with
  | none => s
  | some q =>
    match s.collOf q with
    | none => s
    | some c =>
      if c.sent.contains rank then s.collTry comm sender
      else
        let peer := s.rank? comm rank
        let ready : Bool := match peer with
          | some r => r.state == 0 && ((s.collOf r).map fun d => d.k == c.k).getD false
          | none => true
        if !ready then s
        else match (collBlock c rank).outcome s with
          | (.ok d, t) =>
            let m : StepMsg := { epoch := q.epoch, k := c.k, word0 := c.word0, count := c.count, fail := 0, data := d }
            let t := t.updFront comm sender fun c => { c with sent := rank :: c.sent }
            (match peer with
             | some _ => t.stepArrives comm sender rank m
             | none => t.post { comm := comm, kind := 3, target := rank, culprit := sender, cause := 0, epoch := q.epoch,
                                data := m.toList }).collTry comm sender
          | (.error e, t) =>
            match e.cause with
            | some k => t.breakRank comm sender sender k true
            | none => t)

/-- COLL_STEP_TIMEOUT (R395): the data of a due step has been missing for T. -/
def execCollStepTimeout (comm rank sender : Nat) (s : State) : Host.Outcome State Fault Refusal :=
  .next (match s.rank? comm rank with
  | none => s
  | some r =>
    match s.collOf r with
    | none => s
    | some c =>
      if sender < s.commSize comm && (c.got.look sender).isNone && c.due + s.tstep comm ≤ s.time then
        s.breakRank comm rank sender 1 true
      else s)

/-- ABORT_NOTICE (R395): the first notice a rank receives completes its collectives ABORTED and is passed on. -/
def execAbortNotice (comm rank culprit cause : Nat) (s : State) : Host.Outcome State Fault Refusal :=
  let mine (n : Notice) : Bool := n.comm == comm && n.kind == 0 && n.target == rank && n.culprit == culprit && n.cause == cause
  .next (({ s with notices := s.notices.filter fun n => !mine n || (s.rank? comm rank).isNone } : State).breakRank comm rank culprit cause true)

/-- COLL (R392, R393, R395, R424). -/
def execColl (b c : BitVec 7) (s : State) : Host.Outcome State Fault Refusal :=
  command (.coll b c) (fun x lanes => do
    let time := if x.opd == 127 then [] else [(x.opdFor (.coll b c), true)]
    let vs ← readOps x (lanes.headD 0) ((oIn .desc b 8, false) :: time)
    commandFence x (issueScope x 3)
    let g ← groupM x
    let n ← numberCommand x lanes 6
    modS fun s =>
      let desc := vs.getD 0 []
      let comm := (desc.getD 6 0#32).toNat
      let region := s.regionOf g
      let coll : Coll :=
        { k := 0, wg := g.wg, num := n, desc := desc, region := region, group := x.gid,
          start := if x.opd == 127 then none else some (wordsNat (vs.getD 1 [])), issue := s.time, got := [], sent := [] }
      match s.boundRank comm region with
      | none => s.completeOpen g.wg 6 n stBADCMD
      | some r =>
        if coll.bad || (s.comms.look comm).isNone then s.completeOpen g.wg 6 n stBADCMD
        else if r.state != 0 then
          s.completeTl g.wg 6 n stABORTED (r.culprit.getD 0xFFFFFFFF) (if r.excluded then 9 else 8)
        else s.updRank comm r.rank fun r => { r with seq := r.seq + 1, colls := r.colls ++ [{ coll with k := r.seq }] }
    writeNumber x lanes c n) s

/-- CABORT (R396, R424). -/
def execCabort (m c : BitVec 7) (s : State) : Host.Outcome State Fault Refusal :=
  command (.cabort m c) (fun x lanes => do
    let vs ← readOps x (lanes.headD 0) [(oIn .sOne m 1, false)]
    commandFence x (issueScope x 3)
    let g ← groupM x
    let n ← numberCommand x lanes 6
    modS fun s =>
      let comm := wordsNat (vs.getD 0 [])
      match s.boundRank comm (s.regionOf g) with
      | none => s.completeOpen g.wg 6 n stBADCMD
      | some r => (if r.excluded then s else s.breakRank comm r.rank r.rank 5 true).completeTl g.wg 6 n stOK r.rank 5
    writeNumber x lanes c n) s

/-- CSTAT (R397): state, cause, culprit, own rank and epoch; where there is no rank, the last two are not stated. -/
def execCstat (m d : BitVec 7) (s : State) : Host.Outcome State Fault Refusal :=
  oncePer (.cstat m d) (fun x lanes => do
    let vs ← readOps x (lanes.headD 0) [(oIn .sOne m 1, false)]
    let g ← groupM x
    let s ← getS
    let comm := wordsNat (vs.getD 0 [])
    let own := (s.boundRank comm (s.regionOf g)).orElse fun _ => s.ranks.find? fun q => q.comm == comm
    match own with
    | some r =>
      writeVals x (lanes.headD 0) (oOut .sQuad d 4) ([r.state * 2 ^ 30 + r.cause % 16 * 2 ^ 20, r.culprit.getD 0xFFFFFFFF,
        r.rank, r.epoch].map (BitVec.ofNat 32))
    | none => do
      let (a, s) := s.detail
      let (b, s) := s.detail
      modS fun _ => s
      writeVals x (lanes.headD 0) (oOut .sQuad d 4) ([3 * 2 ^ 30, 0xFFFFFFFF, a, b].map (BitVec.ofNat 32))
    pure .next) s

/-- A communicator descriptor (R422): id, step timeout in ns, and the table as module, region and EXCL. -/
structure CommDesc where
  id    : Nat
  tstep : Nat
  table : List (Nat × Nat × Bool)
  deriving DecidableEq, Repr

/-- Read the descriptor at a physical address; none where a field is bad. -/
def State.commDesc (s : State) (pa : Nat) : Option CommDesc :=
  let w0 := s.paNat pa 8
  let base := s.paNat (pa + 8) 8
  let t := bits w0 12 32
  if bits w0 0 12 != 0 || bits w0 44 20 == 0 || (t != 0 && (t < 10 || 10000000 < t)) then none
  else some { id := s.paNat (pa + 16) 4, tstep := if t == 0 then 1000000 else 1000 * t,
              table := (List.range (bits w0 44 20 + 1)).map fun i =>
                let e := s.paNat (base + 8 * i) 8
                (bits e 0 18, bits e 18 20, bit e 38) }

/-- End a COMMCMD with a status, or leave it BUSY (R422). -/
def State.commEnd (s : State) (busy : Bool) (stat : Nat) : State :=
  s.setReg 0 .commcmd ((if busy then 2 ^ 61 else 0) + stat * 2 ^ 58)
def State.commBusy (s : State) : Bool := bit (s.reg 0 .commcmd) 61

/-- Whether a table names a rank on this module. -/
def State.namesLocal (s : State) (d : CommDesc) : Bool := d.table.any fun e => e.1 == s.moduleId.toNat

/-- COMMCMD_CREATE (R422). -/
def execCommcmdCreate (descriptor : Nat) (s : State) : Host.Outcome State Fault Refusal :=
  if s.commBusy then .next s
  else .next (match s.commDesc descriptor with
  | none => s.commEnd false 2
  | some d =>
    if !s.namesLocal d || d.table.any (fun e => e.2.2) then s.commEnd false 2
    else if (s.comms.look d.id).isSome then s.commEnd false 1
    else
      let mine := (d.table.zipIdx).filterMap fun e =>
        if e.1.1 == s.moduleId.toNat then
          some ({ comm := d.id, rank := e.2, region := e.1.2.1, state := 0, cause := 0, culprit := none, epoch := 0, seq := 0,
                  colls := [], inbox := [], excluded := false } : CommRank)
        else none
      ({ s with comms := s.comms.set d.id { tstep := d.tstep, table := d.table.map fun e => (e.1, e.2.1), reform := none },
                ranks := s.ranks ++ mine } : State).commEnd false 0)

/-- COMMCMD_DESTROY (R422). -/
def execCommcmdDestroy (descriptor : Nat) (s : State) : Host.Outcome State Fault Refusal :=
  if s.commBusy then .next s
  else .next (match s.commDesc descriptor with
  | none => s.commEnd false 2
  | some d =>
    if !s.namesLocal d then s.commEnd false 2
    else if (s.comms.look d.id).isNone then s.commEnd false 4
    else
      let s := (s.ranks.filter fun r => r.comm == d.id && !r.excluded).foldl (fun s r => s.abortColls d.id r.rank r.rank 8) s
      ({ s with comms := s.comms.del d.id, ranks := s.ranks.filter fun r => r.comm != d.id,
                notices := s.notices.filter fun n => n.comm != d.id } : State).commEnd false 0)

/-- A rank is excluded (R423): its collectives end ABORTED and it is BROKEN with cause EXCLUDED. -/
def State.excludeRank (s : State) (comm rank : Nat) : State :=
  (s.abortColls comm rank rank 9).updRank comm rank fun r => { r with state := 1, cause := 9, culprit := some (r.culprit.getD rank) }

/-- COMMCMD_REFORM (R423): ranks broken and REFORMING, renumbered, then waiting for acknowledgements. -/
def execCommcmdReform (descriptor : Nat) (s : State) : Host.Outcome State Fault Refusal :=
  if s.commBusy then .next s
  else .next (match s.commDesc descriptor with
  | none => s.commEnd false 2
  | some d =>
    let keep := d.table.filter fun e => !e.2.2
    let present := (s.comms.look d.id).map (·.table)
    if !s.namesLocal d || keep.length < 2 || !(keep.any fun e => e.1 == s.moduleId.toNat) then s.commEnd false 2
    else match present with
      | none => s.commEnd false 4
      | some t =>
        if t != d.table.map fun e => (e.1, e.2.1) then s.commEnd false 2
        else
          let excl (i : Nat) : Bool := ((d.table[i]?).map fun e => e.2.2).getD false
          let mine := s.ranks.filter fun r => r.comm == d.id && !r.excluded
          let epoch := (mine.foldl (fun m r => max m r.epoch) 0) + 1
          -- step 1
          let s := mine.foldl (fun s r => s.breakRank d.id r.rank r.rank 9 true) s
          let s := mine.foldl (fun s r => if excl r.rank then s.excludeRank d.id r.rank
            else s.updRank d.id r.rank fun r => { r with state := 2 }) s
          let s := (d.table.zipIdx).foldl (fun s e =>
            if e.1.2.2 && e.1.1 != s.moduleId.toNat then
              s.post { comm := d.id, kind := 1, target := e.2, culprit := e.2, cause := 9, epoch := epoch, data := [] }
            else s) s
          -- steps 2 and 3: every collective in flight has been completed by the break
          let number (i : Nat) : Nat := ((List.range i).filter fun j => !excl j).length
          let s := { s with
            ranks := s.ranks.map fun (r : CommRank) =>
              if r.comm == d.id && !r.excluded then
                (if excl r.rank then { r with excluded := true }
                 else { r with rank := number r.rank, epoch := epoch, seq := 0 })
              else r
            notices := s.notices.filter fun (n : Notice) => !(n.comm == d.id && n.kind == 0 && (s.rank? d.id n.target).isSome)
            comms := s.comms.set d.id { tstep := d.tstep, table := keep.map fun (e : Nat × Nat × Bool) => (e.1, e.2.1),
                                        reform := some (s.time + 2 * d.tstep) } }
          s.commEnd true 0)

/-- End a re-form at this module: its ranks become ACTIVE, or stay BROKEN. -/
def State.reformEnd (s : State) (comm : Nat) (ok : Bool) : State :=
  let s := { s with
    ranks := s.ranks.map fun (r : CommRank) =>
      if r.comm == comm && !r.excluded && r.state == 2 then
        (if ok then { r with state := 0, cause := 0, culprit := none } else { r with state := 1 })
      else r
    comms := s.comms.upd comm fun c => { c with reform := none } }
  s.commEnd false (if ok then 0 else 3)

/-- REFORM_ACK (R423): the last surviving rank has acknowledged in time. -/
def execReformAck (comm : Nat) (s : State) : Host.Outcome State Fault Refusal :=
  .next (match (s.comms.look comm).bind (·.reform) with
  | some t => if s.time ≤ t then s.reformEnd comm true else s
  | none => s)

/-- REFORM_ACK_TIMEOUT (R423). -/
def execReformAckTimeout (comm : Nat) (s : State) : Host.Outcome State Fault Refusal :=
  .next (match (s.comms.look comm).bind (·.reform) with
  | some t => if t ≤ s.time then s.reformEnd comm false else s
  | none => s)

/-- A rank learns that a later epoch has left it out (R423). -/
def State.learnExcluded (s : State) (comm rank epoch : Nat) : State :=
  match s.rank? comm rank with
  | some r => if r.epoch < epoch then (s.excludeRank comm rank).updRank comm rank fun r => { r with excluded := true } else s
  | none => s

/-- EXCLUSION_NOTICE (R423). -/
def execExclusionNotice (comm rank epoch : Nat) (s : State) : Host.Outcome State Fault Refusal :=
  .next (s.learnExcluded comm rank epoch)

/-- STEP_REJECTION (R423, R424). -/
def execStepRejection (comm rank epoch : Nat) (s : State) : Host.Outcome State Fault Refusal :=
  .next (s.learnExcluded comm rank epoch)

/-- Whether every surviving rank of a re-form is on this module, so that its acknowledgements have come at once. -/
def State.reformLocal (s : State) (comm : Nat) : Bool :=
  ((s.comms.look comm).map fun c => c.table.all fun e => e.1 == s.moduleId.toNat).getD false

end Sys2Proof.Machine
end

