-- ==== Sys2Proof/Machine/Convert.lean ====
section
/-! DEFINITION. Conversion and packing (R287 to R290). -/
namespace Sys2Proof.Machine

/-- One lane of a conversion: `op` maps the rounding and the numbers held by the sources to the result and its flags.  `rb` is
where the random bits of .rs lie in the fourth operand: offset and width (R248). -/
def cvtLane (i : Instr) (extra : Option Operand) (rb : Nat × Nat) (op : Rnd → List Nat → Nat × Nat) (x : Iss) (lane : Nat) :
    M LaneEnd := do
  let g ← groupM x
  let rs := modeOf x g == 6
  let four : List Operand := match extra with
    | some o => [o]
    | none => if rs then [x.opdOperand i.opdWidth] else []
  let srcs := sources i
  let vs ← readOps x lane ((srcs ++ four).map fun o => (o, o.n == 2))
  let r := if rs then bits (wordsNat (vs.getD srcs.length [])) rb.1 rb.2 else 0
  let res := op { mode := modeOf x g, r := r, w := rb.2, sat := x.sat, ftz := ftzOf g } (vs.map wordsNat)
  raiseFlags x res.2
  match destOf i with
  | some o => writeRes x lane .regenerated o (natWords o.n res.1)
  | none => pure ()
  pure .next

def convert (i : Instr) (extra : Option Operand) (rb : Nat × Nat) (op : Rnd → List Nat → Nat × Nat) (s : State) :
    Host.Outcome State Fault Refusal := perThread i (cvtLane i extra rb op) s

/-- The integer types of CVT (R287): bits and range. -/
def intBits (t : BitVec 2) : Nat := if t.toNat ≥ 2 then 64 else 32
def intSigned (t : BitVec 2) : Bool := t.toNat % 2 == 0
def intLo (b : Nat) (sgn : Bool) : Int := if sgn then -(2 ^ (b - 1) : Nat) else 0
def intHi (b : Nat) (sgn : Bool) : Int := if sgn then (2 ^ (b - 1) : Nat) - 1 else (2 ^ b : Nat) - 1

/-- Where the random bits for one result of a conversion lie (R248).  A conversion to f16 or bf16 writes a whole register (R287) and
uses the whole word, as the rule's worked example does (DEDUCED, log entry 64); one to a byte format uses the low byte. -/
def randPlace (f : Fmt) : Nat × Nat := if f.bits == 8 then (0, 8) else (0, 32)

def execCvtIntToFloat (d a : BitVec 7) (t f : BitVec 2) (s : State) : Host.Outcome State Fault Refusal :=
  let fm := fmtOf f.toNat
  convert (.cvtIntToFloat d a t f) none (randPlace fm) (fun rd l =>
    let v := arg l 0 % 2 ^ intBits t
    intToFloat fm (if intSigned t then sext (intBits t) v else v) rd) s

def execCvtFloatToInt (d a : BitVec 7) (t f : BitVec 2) (s : State) : Host.Outcome State Fault Refusal :=
  let fm := fmtOf f.toNat
  convert (.cvtFloatToInt d a t f) none (0, 32) (fun rd l =>
    let b := intBits t
    let r := floatToInt fm (intLo b (intSigned t)) (intHi b (intSigned t)) (ftzIn rd.ftz fm (arg l 0 % 2 ^ fm.bits)) rd
    (wrap b r.1, r.2)) s

def execCvtFloat (d a : BitVec 7) (t f : BitVec 3) (s : State) : Host.Outcome State Fault Refusal :=
  let src := fmtOf t.toNat
  let dst := fmtOf f.toNat
  convert (.cvtFloat d a t f) none (randPlace dst) (fun rd l =>
    floatToFloat src dst (ftzIn rd.ftz src (arg l 0 % 2 ^ src.bits)) rd) s

/-- e8m0 of an f32 value (R288): code and flags. -/
def toE8m0 (x : FX) : Nat × Nat :=
  match x with
  | .nan => (0xFF, flagNV)
  | .inf _ => (0xFE, flagOF)
  | .num _ m e _ =>
    if m == 0 then (0, 0) else ((max 0 (min 254 (127 + ((Nat.log2 m : Int) + e)))).toNat, 0)

/-- The byte PACK8 writes (R288). -/
def pack8Byte (t : Nat) (a : Nat) (rd : Rnd) : Nat × Nat :=
  match t with
  | 0 => floatToFloat fmtF32 fmtE4M3 a rd
  | 1 => floatToFloat fmtF32 fmtE5M2 a rd
  | 2 =>
    let r := floatToInt fmtF32 (-128) 127 a rd
    (wrap 8 r.1, r.2)
  | 3 =>
    let r := floatToInt fmtF32 0 255 a rd
    (wrap 8 r.1, r.2)
  | _ => toE8m0 (decodeF fmtF32 a)

/-- PACK8: `l` is d, a. -/
def execPack8 (d a : BitVec 7) (f : BitVec 3) (k : BitVec 2) (s : State) : Host.Outcome State Fault Refusal :=
  convert (.pack8 d a f k) none (8 * k.toNat, 8) (fun rd l =>
    let r := pack8Byte f.toNat (ftzIn rd.ftz fmtF32 (arg l 1)) rd
    (setBits (arg l 0) (8 * k.toNat) 8 r.1, r.2)) s

/-- The value of a byte (R288); every one is exact in f32. -/
def unpack8Value (t b : Nat) : FX :=
  match t with
  | 0 => decodeF fmtE4M3 b
  | 1 => decodeF fmtE5M2 b
  | 2 => .num (b ≥ 128) (sext 8 b).natAbs 0 false
  | 3 => .num false b 0 false
  | _ => if b == 0xFF then .nan else .num false 1 ((b : Int) - 127) false

def execUnpack8 (d a : BitVec 7) (f : BitVec 3) (k : BitVec 2) (s : State) : Host.Outcome State Fault Refusal :=
  convert (.unpack8 d a f k) none (0, 32) (fun rd l =>
    let b := bits (arg l 0) (8 * k.toNat) 8
    let r := roundTo fmtF32 (unpack8Value f.toNat b) { rd with mode := 1, sat := false }
    (r.1, r.2 ||| (if f == 1#3 && isSNaN fmtE5M2 b then flagNV else 0))) s

/-- PACK4 (R289): `l` is d, a; the nibble's random bits lie in the byte of the fourth operand it would fall in (R248). -/
def execPack4 (w : BitVec 2) (d a : BitVec 7) (k : BitVec 3) (s : State) : Host.Outcome State Fault Refusal :=
  convert (.pack4 w d a k) none (8 * k.toNat, 8) (fun rd l =>
    let v := ftzIn rd.ftz fmtF32 (arg l 1)
    let r := pack4Code (decodeF fmtF32 v) rd
    (setBits (arg l 0) (4 * k.toNat) 4 r.1, r.2)) s

/-- UNPACK4 (R289): the scale, the extra value and the random bits come from the fourth operand. -/
def execUnpack4 (w : BitVec 2) (d a : BitVec 7) (k : BitVec 3) (s : State) : Host.Outcome State Fault Refusal :=
  perThread (.unpack4 w d a k) (fun x lane => do
    let extra : Option Operand := if x.opd == 127 then none else some (x.opdOperand 1)
    cvtLane (.unpack4 w d a k) extra (16, 16) (fun rd l =>
      let c := match extra with
        | some _ => arg l 1
        | none => 127
      roundTo fmtF32 (decodeE2M1X (bits (arg l 0) (4 * k.toNat) 4) (bits c 0 8) (bits c 8 8)) rd) x lane) s

/-- SCALEB (R290): for f64, k is the low word of b's pair. -/
def execScaleb (w : BitVec 2) (d a b : BitVec 7) (s : State) : Host.Outcome State Fault Refusal :=
  perThread (.scaleb w d a b) (fun x lane => do
    let f := fmtW w
    let g ← groupM x
    let rs := modeOf x g == 6
    let i : Instr := .scaleb w d a b
    let os := sources i ++ (if rs then [x.opdOperand i.opdWidth] else [])
    let vs ← readOps x lane (os.map fun o => (o, f.bits == 64))
    let res := (List.range (widthN w * 32 / f.bits)).map fun k =>
      let v := ftzIn (ftzOf g) f (arg (column f.bits vs k) 0)
      let n := sext 32 (arg (column f.bits vs k) 1)
      let r := if rs then randOf f.bits (vs.getD 2 []) k else (0, 0)
      let c := roundTo f (scaleBy (decodeF f v) n) { mode := modeOf x g, r := r.1, w := r.2, sat := x.sat, ftz := ftzOf g }
      (c.1, c.2 ||| (if isSNaN f v then flagNV else 0))
    raiseFlags x (orFlags res)
    writeRes x lane .regenerated (oDst d (widthN w)) (wordsOf f.bits (res.map (·.1)))
    pure .next) s

/-- XVAL (R290). -/
def xvalOf (a sc : Nat) (rd : Rnd) : Nat × Nat :=
  if sc == 0xFF then (0x7F, flagNV)
  else
    let r := roundTo fmtE4M3 (scaleBy (decodeF fmtF32 a) (127 - (sc : Int))) rd
    (r.1, r.2 ||| (if isSNaN fmtF32 a then flagNV else 0))

def execXval (d a b : BitVec 7) (s : State) : Host.Outcome State Fault Refusal :=
  convert (.xval d a b) none (0, 8) (fun rd l => xvalOf (ftzIn rd.ftz fmtF32 (arg l 0)) (bits (arg l 1) 0 8) rd) s

end Sys2Proof.Machine
end

