-- ==== Sys2Proof/Machine/Stream.lean ====
section
/-! DEFINITION. Streams: the access slice of the AAE (R373 to R375), binding and ending (R374, R376), and the queue's state. -/
namespace Sys2Proof.Machine

/-- Who a stream's slice acts for (R40, R468). -/
def streamWho (core region : Nat) : Who := Who.engine region (basinOf core) (4 * localOf core + 1) 0 (some core)

/-- Read a word of a load stream: the word, poisoned or not. -/
def streamRead (g : Group) (t : Stream) (n : Nat) : M QWord := do
  let base := (t.desc.getD 0 0#64).toNat
  let off := streamOffset t.desc n
  let (bs, bad) ← (if streamSp t.desc then do
      let a ← scrResolve g.wg (wrap 32 (base + off)) 4
      scrLoad g.wg a 4
    else do
      let h ← engineAddr base off
      engineRead (streamWho g.core t.region) (engineVia g.core t.region 1) h 4 .load)
  pure ((if bad then poisonWord else regWord (BitVec.ofNat 32 (bytesToNat bs))).queued)

/-- Write a word of a store stream, its poison carried (R370), the parity of the word unread (log entry 65). -/
def streamWrite (g : Group) (t : Stream) (n : Nat) (w : QWord) : M Unit := do
  let base := (t.desc.getD 0 0#64).toNat
  let off := streamOffset t.desc n
  if streamSp t.desc then do
    let a ← scrResolve g.wg (wrap 32 (base + off)) 4
    if w.poison then modS fun s => s.scrPoison a 4 else scrStore g.wg a (natToBytes 4 w.val.toNat)
  else do
    let h ← engineAddr base off
    engineWrite (streamWho g.core t.region) (engineVia g.core t.region 1) h (natToBytes 4 w.val.toNat) w.poison

/-- Change a queue of a group. -/
def State.updQueue (s : State) (gid q : Nat) (f : Queue → Queue) : State :=
  s.updGroup gid fun g => { g with queues := g.queues.set q (f (g.queues.get .empty q)) }

/-- A stream ends with a status (R374, R376): its command completes, unless it had already and only read words again (R377); the queue
keeps the words a load has delivered. -/
def State.streamEnd (s : State) (gid q status : Nat) (discard : Bool) : State :=
  match s.group? gid with
  | none => s
  | some g =>
    let k := g.queues.get .empty q
    match k.stream with
    | none => s
    | some t =>
      let now := s.time
      let s := s.updGroup gid fun g => { g with tl2 := g.tl2.complete t.num status 0 t.moved now }
      s.updQueue gid q fun k => { k with stream := none, status := if t.again then k.status else status, struck := false
                                         words := if discard || k.dir then [] else k.words
                                         ended := if discard || k.dir then none else some t }

/-- Whether a read has found a word of a stream's staging unit uncorrectable (R76): the slice's next, of a store stream; one that the
group waits for, of a load stream. -/
def State.stagingBad (s : State) (gid q : Nat) (g : Group) (k : Queue) : Bool :=
  k.struck || (if k.dir then !(s.queueBad g.core gid q k (min 1 k.words.length)).isEmpty
    else g.held == some .stream && !(s.queueBad g.core gid q k k.words.length).isEmpty)

/-- One word of a stream (R374): the state, and whether the slice can go on. -/
def State.streamStep (s : State) (gid q : Nat) : State × Bool :=
  match s.group? gid with
  | none => (s, false)
  | some g =>
    let k := g.queues.get .empty q
    match k.stream with
    | none => (s, false)
    | some t =>
      if t.park.isSome || !s.shareLeft (basinOf g.core) t.region 2 then (s, false)
      -- an uncorrectable word of the staging unit ends the stream, its progress held (R76)
      else if s.stagingBad gid q g k then (s.streamEnd gid q stENGFAULT true, false)
      else if (if k.dir then k.words.isEmpty else k.cap ≤ k.words.length) then (s, false)
      else
        let act : M Bool :=
          if k.dir then
            match k.words with
            | [] => pure false
            | w :: _ => do
              streamWrite g t t.moved w
              modS fun s => (s.queueRead g.core gid q k 1).updQueue gid q fun k =>
                { k with words := k.words.drop 1, stream := some { t with moved := t.moved + 1, ue := t.ue || w.poison } }
              pure true
          else do
            let w ← streamRead g t t.moved
            modS fun s => (s.queueWrite g.core gid q k 1).updQueue gid q fun k =>
              { k with words := k.words ++ [w], stream := some { t with moved := t.moved + 1, ue := t.ue || w.poison } }
            pure true
        match (wholeUnit act).outcome s with
        | (.ok true, s) =>
          let s := s.charge (basinOf g.core) t.region 2 1
          match ((s.group? gid).map fun g => g.queues.get .empty q).bind (·.stream) with
          | some u => if streamTotal u.desc ≤ u.moved then (s.streamEnd gid q (if u.ue then stUE else stOK) false, false) else (s, true)
          | none => (s, false)
        | (.ok false, s) | (.error (.stall _), s) | (.error (.feb _ _), s) => (s, false)
        | (.error e, s) =>
          match s.parkEngine (streamWho g.core t.region) e with
          | some (id, s) => (s.updQueue gid q fun k => { k with stream := some { t with park := some id } }, false)
          | none => (s.streamEnd gid q (e.status.getD stENGFAULT) false, false)

/-- STREAM_WORD (R374). -/
def execStreamWord (group queue : Nat) (s : State) : Host.Outcome State Fault Refusal := .next (s.streamStep group queue).1

/-- Write what a store stream still holds. -/
def State.streamDrain (s : State) (gid q : Nat) : Nat → State
  | 0 => s
  | fuel + 1 =>
    let (s, more) := s.streamStep gid q
    if more then s.streamDrain gid q fuel else s

/-- End the stream bound to a queue (R376): pushed words are written first, unpopped words are discarded. -/
def endStream (x : Iss) (q : Nat) : M Unit := do
  let g ← groupM x
  let k := g.queues.get .empty q
  match k.stream with
  | none => updG x fun g => { g with queues := g.queues.set q { k with words := [], ended := none } }
  | some t =>
    if !k.dir then modS fun s => s.streamEnd x.gid q (if t.ue then stUE else stOK) true
    else do
      modS fun s => s.streamDrain x.gid q (k.words.length + 1)
      let g ← groupM x
      let k := g.queues.get .empty q
      match k.stream with
      | none => pure ()
      | some t =>
        if !k.words.isEmpty then wait .stream
        modS fun s => s.streamEnd x.gid q (if t.ue then stUE else stOK) true

/-- Bind a stream to a queue (R374, R375): a staging unit where one is free. -/
def State.bindStream (s : State) (gid q num : Nat) (desc : List DWord) : State :=
  match s.group? gid with
  | none => s
  | some g =>
    let t : Stream := { num := num, desc := desc, moved := 0, region := s.regionOf g, ue := false, park := none, again := false }
    s.updQueue gid q fun k =>
      { k with stream := some t, words := [], dir := streamDir desc, unit := s.freeUnit g.core, struck := false, ended := none }

/-- Number a command on the group's stream timeline (R368). -/
def State.issueStream (s : State) (gid : Nat) : Nat × State :=
  match s.group? gid with
  | none => (0, s)
  | some g =>
    let (n, t) := g.tl2.issue
    (n, s.updGroup gid fun g => { g with tl2 := t })

/-- Pairs of words as 64-bit fields, low word first (R372). -/
def pairWords (ws : List Word) : List DWord :=
  (List.range (ws.length / 2)).map fun i => dword (ws.getD (2 * i) 0#32) (ws.getD (2 * i + 1) 0#32)

def execStrm (q b c : BitVec 7) (s : State) : Host.Outcome State Fault Refusal :=
  command (.strm q b c) (fun x lanes => do
    let vs ← readOps x (lanes.headD 0) [(oIn .desc b 8, false)]
    let desc := pairWords (vs.getD 0 [])
    commandFence x (issueScope x 1)
    endStream x q.toNat
    let s ← getS
    let (n, s) := s.issueStream x.gid
    modS fun _ => s
    commandRelease x lanes (tlLoc x.gid 2 n)
    modS fun s =>
      if streamBad desc then
        let now := s.time
        (s.updGroup x.gid fun g => { g with tl2 := g.tl2.complete n stBADCMD 0 0 now }).updQueue x.gid q.toNat
          fun k => { k with status := stBADCMD, dir := false }
      else s.bindStream x.gid q.toNat n desc
    writeNumber x lanes c n) s

/-- STRQ (R376); a stream that reads words again has ended. -/
def queueWord (k : Queue) : Nat :=
  let bound := (k.stream.map fun t => !t.again).getD false
  let left := match k.stream with
    | some t => if k.dir then k.room t else k.words.length + (streamTotal t.desc - t.moved)
    | none => k.words.length
  (if bound then 2 ^ 31 else 0) + (if k.dir then 2 ^ 30 else 0) + k.status * 2 ^ 24 + min left 0xFFFFFF

def execStrq (q d : BitVec 7) (s : State) : Host.Outcome State Fault Refusal :=
  oncePer (.strq q d) (fun x lanes => do
    let g ← groupM x
    writeVals x (lanes.headD 0) (oOut .sOne d 1) [BitVec.ofNat 32 (queueWord (g.queues.get .empty q.toNat))]
    pure .next) s

/-- STRQ.end (R376). -/
def execStrqEnd (q : BitVec 7) (s : State) : Host.Outcome State Fault Refusal :=
  command (.strqEnd q) (fun x _ => do
    commandFence x (issueScope x 1)
    endStream x q.toNat) s

end Sys2Proof.Machine
end

