-- ==== Sys2Proof/Machine/Copy.lean ====
section
/-! DEFINITION. Copies, multicasts, gathers and scatters (R378 to R383), their NOTE action (R149, R150, R381), and CPST (R371). -/
namespace Sys2Proof.Machine

/-- Alignment of NOTE (R379). -/
def Slice.noteBad (l : Slice) (rows : Bool) : Bool :=
  l.nkind == 3 || (l.nkind == 1 && l.note rows % 4 != 0) || (l.nkind == 2 && l.note rows % 16 != 0)

/-- Whether a command's NOTE is a slice's (R380): that of a collective's member with the lowest gix. -/
def CopyCmd.leads (q : CopyCmd) (l : Slice) : Bool := q.kind != 0 || q.members.all fun g => l.gix ≤ g

/-- A slice that fails its own checks (R379, R382, R383), those of its NOTE where it `leads`. -/
def Slice.bad (l : Slice) (kind : Nat) (leads : Bool) : Bool :=
  let f := l.word 5
  if kind ≤ 1 then
    l.pair 0 % 16 != 0 || l.pair 2 % 16 != 0 || l.len % 16 != 0 || bit f 2 || bit f 7
      || (leads && (l.noteBad false || (l.nsp && l.word 7 != 0)))
      || (l.ssp && l.word 1 != 0) || (l.dsp && l.word 3 != 0)
      || (if kind == 0 then f / 2 ^ 8 != 0 else !l.dsp)
  else
    l.word 4 == 0 || 2 ^ 20 < l.word 4 || l.rowB % 16 != 0 || l.rowB == 0 || bits f 6 10 != 0 || bits f 0 3 != 0
      || l.word 6 % 16 != 0 || l.noteBad true || (l.nkind != 0 && !l.nsp)

/-- A range an engine reads or writes: its space (none global, else the target workgroup), start and length. -/
structure Span where
  space : Option Nat
  lo    : Nat
  len   : Nat
  deriving DecidableEq, Repr

def Span.overlaps (a b : Span) : Bool :=
  a.space == b.space && a.len != 0 && b.len != 0 && a.lo < b.lo + b.len && b.lo < a.lo + a.len

/-- The span of an address field. -/
def State.span (s : State) (w : Nat) (sp : Bool) (a n : Nat) : Span :=
  if sp then { space := s.scrTarget w (a % 2 ^ 32), lo := a % 2 ^ 24, len := n } else { space := none, lo := a, len := n }

/-- The scratchpad address of an offset in a cluster rank (R382). -/
def rankAddr (r a : Nat) : Nat := r * 2 ^ 24 + a % 2 ^ 24

/-- Source and destination spans of a command (R379, R382). -/
def State.copySources (s : State) (w : Nat) (q : CopyCmd) : List Span := q.slices.map fun l => s.span w l.ssp (l.pair 0) l.len
def State.copyDests (s : State) (w : Nat) (q : CopyCmd) : List Span :=
  if q.kind == 1 then (q.slices.map fun l => l.targets.map fun r => s.span w true (rankAddr r (l.pair 2)) l.len).flatten
  else q.slices.map fun l => s.span w l.dsp (l.pair 2) l.len

/-- Whether a rank exists in the workgroup's cluster (R382). -/
def State.rankExists (s : State) (w r : Nat) : Bool :=
  match s.wgs.look w with
  | none => false
  | some me =>
    if me.task then r == 0
    else s.wgs.any fun p => p.2.launch == me.launch && !p.2.task && p.2.cluster == me.cluster && p.2.rank == r

/-- The command's checks when it would start (R379, R380, R382, R383). -/
def State.copyBad (s : State) (w : Nat) (q : CopyCmd) : Bool :=
  q.slices.any (fun l => l.bad q.kind (q.leads l))
    || (q.kind ≤ 1 && (s.copySources w q).any fun a => (s.copyDests w q).any a.overlaps)
    || (q.kind == 1 && q.slices.any fun l => l.targets.any fun r => !s.rankExists w r)

/-- Details of a command that its checks refuse (R371): no row and no byte performed; of a collective, the first slice that is bad by
itself. -/
def State.badDetails (s : State) (q : CopyCmd) : Nat × State :=
  if q.kind != 0 then (0, s)
  else match q.slices.find? fun l => l.bad q.kind (q.leads l) with
    | some l => (l.gix, s)
    | none => s.detail

/-- Who a copy acts for: the CPE, or the GXE for rows (R468). -/
def copyWho (core : Nat) (q : CopyCmd) : Who :=
  Who.engine q.region (basinOf core) (4 * localOf core + (if q.kind ≤ 1 then 2 else 3)) 0 (some core)
def copyVia (core : Nat) (q : CopyCmd) : Via := engineVia core q.region (if q.kind ≤ 1 then 2 else 3)

/-- Read n bytes of a source: a scratchpad line is waited for until it is full (R69). -/
def copyRead (core w : Nat) (q : CopyCmd) (sp : Bool) (a : Nat) (off : Int) (n : Nat) : M (List Byte × Bool) := do
  if sp then do
    let at_ ← scrResolve w (wrap 32 (a + off)) n
    scrLoad w at_ n
  else do
    let h ← engineAddr a off
    engineRead (copyWho core q) (copyVia core q) h n .load

/-- Whether payload still to be written meets a scratchpad line. -/
def restMeets (rest : List Span) (wg line : Nat) : Bool := rest.any fun p => p.overlaps { space := some wg, lo := 128 * line, len := 128 }

/-- The release that a payload's readers take with a line turning full (R149). -/
def State.fillLine (s : State) (w num : Nat) (at_ : ScrAt) : State :=
  let moved := (s.mem.rel.filter fun (p : Loc × Release) => p.1 == tlLoc w 1 num).map
    fun (p : Loc × Release) => (fillLoc at_.wg (at_.addr / 128), p.2)
  (s.setMem { s.mem with rel := s.mem.rel ++ moved }).setFull at_ true

/-- Write a unit at a destination with its poison (R370); its scratchpad line turns full with the last byte of the command's payload in
it, `rest` being the payload still to come (R69, R149, R381). -/
def copyWrite (core w : Nat) (q : CopyCmd) (sp : Bool) (a : Nat) (off : Int) (bs : List Byte) (bad : Bool) (rest : List Span) : M Unit := do
  if sp then do
    let at_ ← scrResolve w (wrap 32 (a + off)) bs.length
    modS fun s =>
      let s := if bad then s.scrPoison at_ bs.length else s.scrWrite at_ bs
      let s := s.breakChain true at_.wg at_.addr bs.length
      if !restMeets rest at_.wg (at_.addr / 128) then s.fillLine w q.num at_ else s
  else do
    let h ← engineAddr a off
    engineWrite (copyWho core q) (copyVia core q) h bs bad

/-- Move n bytes in units of 16 (R140, R381), `rest` being the command's payload after them. -/
def moveUnits (core w : Nat) (q : CopyCmd) (ssp : Bool) (src : Nat) (soff : Int) (dsp : Bool) (dst : Nat) (doff : Int)
    (n : Nat) (rest : List Span) : M Bool := do
  let bads ← M.mapEach (fun (i : Nat) => do
    let k : Int := (16 * i : Nat)
    let (bs, bad) ← copyRead core w q ssp src (soff + k) 16
    let s ← getS
    let tail := s.span w dsp (wrap 64 (dst + doff + k + 16)) (n - 16 * (i + 1))
    copyWrite core w q dsp dst (doff + k) bs bad (tail :: rest)
    pure bad) (List.range (n / 16))
  pure (bads.any id)

/-- What happened before a command is passed on to a location its NOTE names (R132, R149, R150). -/
def noteRelease (w num : Nat) (to_ : List Loc) (scope : Nat) : M Unit :=
  modS fun s =>
    let rs := (s.mem.rel.filter fun (p : Loc × Release) => p.1 == tlLoc w 1 num).map (·.2)
    s.setMem { s.mem with rel := s.mem.rel ++ (to_.map fun l => rs.map fun r => (l, { r with scope := scope })).flatten }

/-- An arrival of an engine or a message on a barrier (R313), with the generations it is counted in. -/
def arriveAt (l : Loc) (count : Nat) : M (List Nat × Nat) := do
  if ← barPoisoned l then pure ([], 0)
  else do
    let b ← barRead l
    let after := b.count + count
    let gens := if b.state == 1 || b.state == 2 then
      rangeFrom b.gen (after / b.expect + (if after % b.expect == 0 then 0 else 1)) else []
    let _ ← barArrive l count
    pure (if b.bad then [] else gens, b.scope)

/-- The NOTE action (R381): a notify write, or an arrival of count 1. -/
def noteAction (core w : Nat) (q : CopyCmd) (nkind : Nat) (nsp : Bool) (note : Nat) (value : Word) : M Unit := do
  if nkind == 1 then do
    if nsp then do
      let a ← scrResolve w (wrap 32 note) 4
      let s ← getS
      if s.lineEmpty a && !s.ownsSeg w a then err (.feb a.wg a.addr)
      modS fun s => (s.scrWrite a (natToBytes 4 value.toNat)).breakChain true a.wg a.addr 4
      noteRelease w q.num [scrLoc a] q.scope
    else do
      let x ← translate (copyWho core q) note 4 .store
      engineStoreAt (copyWho core q) (copyVia core q) x (natToBytes 4 value.toNat) false
      modS fun s => s.breakChain false 0 (keyOf x.pa) 4
      noteRelease w q.num [globalLoc x.pa] q.scope
  else if nkind == 2 then do
    let (l, keyed) ← (if nsp then do
        let a ← scrResolve w (wrap 32 note) 16
        pure (scrLoc a, false)
      else do
        let x ← translate (copyWho core q) note 16 .store
        let keyed ← keyedAt (copyVia core q) x
        match targetOf x.pa with
        | .hbm _ => pure (globalLoc x.pa, keyed)
        | .cxl _ | .sysmem => if x.dev then trapM .bufrights else pure (globalLoc x.pa, keyed)
        | _ => trapM .bufrights)
    if keyed then pure ()
    else do
      let (gens, scope) ← arriveAt l 1
      noteRelease w q.num (granules l 16 ++ gens.map fun g => barLoc l (g % 2 ^ 32)) scope
  else pure ()

/-- Steps of a command: units of 16 bytes of a copy; those of each rank of a multicast; rows. -/
def CopyCmd.steps (q : CopyCmd) : Nat := match q.kind with
  | 0 => q.slices.foldl (fun n l => n + l.len / 16) 0
  | 1 => match q.slices with
    | l :: _ => l.targets.length * q.perRank
    | [] => 0
  | _ => match q.slices with
    | l :: _ => l.word 4
    | [] => 0

/-- The destinations of the payload that follows unit i of a slice of a collective copy: the rest of the slice, and the slices after it. -/
def State.restOf (s : State) (w : Nat) (q : CopyCmd) (l : Slice) (i : Nat) : List Span :=
  s.span w l.dsp (l.pair 2 + 16 * (i + 1)) (l.len - 16 * (i + 1))
    :: (q.slices.filter fun k => l.gix < k.gix).map fun k => s.span w k.dsp (k.pair 2) k.len

/-- Whether a receiver refuses (R382). -/
def State.refuses (s : State) (w : Nat) (l : Slice) (r : Nat) : Bool :=
  match s.scrTarget w (rankAddr r (l.pair 2)) with
  | none => true
  | some t =>
    match s.wgs.look t with
    | none => true
    | some v =>
      let a := l.pair 2 % 2 ^ 24
      let hi := a + l.len
      let segs := rangeFrom (a / 4096) ((hi - 1) / 4096 + 1 - a / 4096)
      let moving := (s.core v.core).segMoves
      v.saved != .resident || v.exited || v.segs * 4096 < hi
        || (l.len != 0 && segs.any fun g => (v.dirOf g).moving.isSome || moving.any fun m => m.wg == t && m.seg == g)
        || (l.emptyReq && l.len != 0 && (rangeFrom (a / 128) ((hi - 1) / 128 + 1 - a / 128)).any fun k => !v.empty.contains k)

/-- Change a copy command of a workgroup. -/
def State.updCopy (s : State) (w n : Nat) (f : CopyCmd → CopyCmd) : State :=
  s.updWg w fun x => { x with copies := x.copies.map fun q => if q.num == n then f q else q }

/-- Step n of a started command: whether it met poison, and how many steps are then done. -/
def copyStep (core w : Nat) (q : CopyCmd) : M (Bool × Nat) := do
  match q.kind with
  | 0 =>
    match sliceAt q.slices q.done with
    | none => pure (false, q.done + 1)
    | some (l, i) => do
      let k : Int := (16 * i : Nat)
      let s ← getS
      let bad ← moveUnits core w q l.ssp (l.pair 0) k l.dsp (l.pair 2) k 16 (s.restOf w q l i)
      pure (bad, q.done + 1)
  | 1 =>
    match q.slices with
    | [] => pure (false, q.done + 1)
    | l :: _ => do
      let r := l.targets.getD (q.done / q.perRank) 0
      let i := q.done % q.perRank
      let s ← getS
      if i == 0 && s.refuses w l r then do
        modS fun s => s.updCopy w q.num fun q => { q with refused := q.refused + 2 ^ r }
        pure (false, q.done + q.perRank)
      else if i + 2 == q.perRank then do
        -- the whole payload has been received: its lines turn full
        M.whenB (l.len != 0) (do
          let a ← scrResolve w (rankAddr r (l.pair 2)) 16
          let lines := rangeFrom (a.addr / 128) ((a.addr + l.len - 1) / 128 + 1 - a.addr / 128)
          modS fun s => lines.foldl (fun s k => s.fillLine w q.num { a with addr := 128 * k }) s)
        pure (false, q.done + 1)
      else if i + 1 == q.perRank then do
        noteAction core w q l.nkind l.nsp (if l.nsp then rankAddr r (l.pair 6) else l.pair 6) l.notify
        pure (false, q.done + 1)
      else if l.len == 0 then pure (false, q.done + 1)
      else do
        let k : Int := (16 * i : Nat)
        let s ← getS
        let bad ← moveUnits core w q l.ssp (l.pair 0) k true (rankAddr r (l.pair 2)) k 16
          [s.span w true (rankAddr r (l.pair 2)) l.len]
        pure (bad, q.done + 1)
  | _ =>
    match q.slices with
    | [] => pure (false, q.done + 1)
    | l :: _ => do
      let i := q.done
      let (ib, ibad) ← copyRead core w q true (l.word 2) (4 * i : Nat) 4
      if ibad then err .poison
      let g ← engineAddr (l.pair 0) (bytesToNat ib * l.word 6 : Nat)
      let off : Int := (i * l.rowB : Nat)
      let s ← getS
      let rest := [s.span w true (l.word 3 + (i + 1) * l.rowB) ((l.word 4 - (i + 1)) * l.rowB)]
      let bad ← (if q.kind == 2 then moveUnits core w q false g 0 true (l.word 3) off l.rowB rest
        else moveUnits core w q true (l.word 3) off false g 0 l.rowB [])
      pure (bad, i + 1)

/-- What a command that has performed everything completes with (R371, R381, R382); `open_` are the details of a collective copy
that no slice stopped. -/
def CopyCmd.result (q : CopyCmd) (open_ : Nat × Nat) : Nat × Nat × Nat := match q.kind with
  | 0 => (if q.ue then stUE else stOK, open_)
  | 1 => (if q.refused != 0 then stPARTIAL else if q.ue then stUE else stOK, q.refused, (q.slices.head?.map (·.len)).getD 0)
  | _ => (if q.ue then stUE else stOK, 0, q.done)

/-- Perform a started command until it ends, waits or parks. -/
def State.copyRun (s : State) (w n : Nat) : Nat → State
  | 0 => s
  | fuel + 1 =>
    match (s.wgs.look w).bind fun x => (x.copies.find? fun q => q.num == n).map (x.core, ·) with
    | none => s
    | some (core, q) =>
      if q.park.isSome || q.outcome.isSome then s
      else if q.steps ≤ q.done then
        let (a, s) := s.detail
        let (b, s) := s.detail
        s.updCopy w n fun q => { q with outcome := some (q.result (a, b)) }
      else if !s.shareLeft (basinOf core) q.region 2 then s
      else match (wholeUnit (copyStep core w q)).outcome s with
        | (.ok (bad, d), t) =>
          let t := t.charge (basinOf core) q.region 2 1
          (t.updCopy w n fun q => { q with done := d, ue := q.ue || bad }).copyRun w n fuel
        | (.error (.stall _), t) => t
        | (.error (.feb _ _), _) => s
        | (.error e, t) =>
          match t.parkEngine (copyWho core q) e with
          | some (id, t) => t.updCopy w n fun q => { q with park := some id }
          | none => t.updCopy w n fun q => { q with outcome := some (e.status.getD stENGFAULT, q.stopDetails) }

/-- Slices in ascending gix. -/
def sortSlices (ls : List Slice) : List Slice :=
  (List.range 32).filterMap fun g => ls.find? fun l => l.gix == g

/-- Whether a copy waits for its start time (R211, R380): that of its member with the lowest gix. -/
def CopyCmd.held (q : CopyCmd) (now : Nat) : Bool :=
  !q.started && (match sortSlices q.slices with
    | l :: _ => match l.start with
      | some t => decide (now < t)
      | none => false
    | [] => false)

/-- Whether a command may start (R211, R380): its members have arrived, its time has come, and every earlier command of the context
has started. -/
def State.copyReady (s : State) (x : Workgroup) (q : CopyCmd) : Bool :=
  !q.started && q.outcome.isNone
    && (q.kind != 0 || q.members.all fun g => q.slices.any fun l => l.gix == g)
    && !q.held s.time && !x.copies.any fun p => p.num < q.num && !p.started && p.outcome.isNone

/-- COPY_START (R380): a command starts, or a started one goes on. -/
def execCopyStart (workgroup number : Nat) (s : State) : Host.Outcome State Fault Refusal :=
  match s.wgs.look workgroup with
  | none => .next s
  | some x =>
    match x.copies.find? fun q => q.num == number with
    | none => .next s
    | some q =>
      if q.started then .next (s.copyRun workgroup number (q.steps + 2))
      else if !s.copyReady x q then .next s
      else
        let q := { q with slices := if q.kind == 0 then sortSlices q.slices else q.slices }
        if s.copyBad workgroup q then
          let (a, s) := s.badDetails q
          .next (s.updCopy workgroup number fun q => { q with started := true, outcome := some (stBADCMD, a, 0) })
        else .next ((s.updCopy workgroup number fun _ => { q with started := true }).copyRun workgroup number (q.steps + 2))

/-- COPY_COMPLETE (R381): the NOTE action of a command whose payload is done, then its completion. -/
def execCopyComplete (workgroup number : Nat) (s : State) : Host.Outcome State Fault Refusal :=
  match (s.wgs.look workgroup).bind fun x => (x.copies.find? fun q => q.num == number).map (x.core, ·) with
  | none => .next s
  | some (core, q) =>
    match q.outcome with
    | none => .next s
    | some (st, a, b) =>
      let done (s : State) (st a b : Nat) : State :=
        (s.completeTl workgroup 1 number st a b).updWg workgroup fun x =>
          { x with copies := x.copies.filter fun q => q.num != number }
      match q.slices with
      | l :: _ =>
        if q.park.isSome then .next s
        else if q.kind == 1 || (st != stOK && st != stUE) then .next (done s st a b)
        else match (wholeUnit (noteAction core workgroup q l.nkind l.nsp (l.note (2 ≤ q.kind)) l.notify)).outcome s with
          | (.ok _, t) => .next (done t st a b)
          | (.error (.stall _), t) => .next t
          | (.error (.feb _ _), _) => .next s
          | (.error e, t) =>
            match t.parkEngine (copyWho core q) e with
            | some (id, t) => .next (t.updCopy workgroup number fun q => { q with park := some id })
            | none => .next (done t (e.status.getD stENGFAULT) a b)
      | [] => .next (done s st a b)

/-- A queue entry for a command of a workgroup (R378): reserved, shared, or none. -/
def State.copyEntry (s : State) (w : Nat) : Option Bool :=
  match s.wgs.look w with
  | none => none
  | some x =>
    if (x.copies.filter (·.reserved)).length < 2 then some true
    else
      let shared := (s.wgs.filter fun p => p.2.core == x.core).foldl (fun n p => n + (p.2.copies.filter fun q => !q.reserved).length) 0
      if shared < 64 then some false else none

/-- Wait for an entry, or give up once the wait has lasted a quantum (R378): none is CQBUSY. -/
def takeEntry (x : Iss) : M (Option Bool) := do
  let g ← groupM x
  let s ← getS
  match s.copyEntry g.wg with
  | some r => do
    updG x fun g => { g with engqSince := none }
    pure (some r)
  | none =>
    match g.engqSince with
    | none => do
      updG x fun g => { g with engqSince := some s.time }
      wait .engq
    | some t =>
      if t + s.quantum (s.regionOf g) ≤ s.time then do
        updG x fun g => { g with engqSince := none }
        pure none
      else wait .engq

/-- Issue a copy (R369, R378, R380); a collective's scope is that of the slice that formed it (log entry 85). -/
def issueCopy (i : Instr) (kind : Nat) (b v c : BitVec 7) (s : State) : Host.Outcome State Fault Refusal :=
  command i (fun x lanes => do
    let time := if x.opd == 127 then [] else [(x.opdFor i, true)]
    let vs ← readOps x (lanes.headD 0) ([(oIn .desc b 8, false), (oIn .sOneZ v 1, false)] ++ time)
    commandFence x (issueScope x 1)
    let g ← groupM x
    let s ← getS
    let slice : Slice := { gix := g.gix, desc := vs.getD 0 [], notify := (vs.getD 1 []).getD 0 0#32,
                           start := if x.opd == 127 then none else some (wordsNat (vs.getD 2 [])) }
    let k := (((s.wgs.look g.wg).map (·.slices.get 0 g.gix)).getD 0) + 1
    let formed := if kind == 0 then (s.wgs.look g.wg).bind (·.copyNums.look k) else none
    match formed with
    | some n => do
      updG x fun g => { g with engqSince := none }
      modS fun s => (s.updCopy g.wg n fun q => { q with slices := q.slices ++ [slice] }).updWg g.wg fun w =>
        { w with slices := w.slices.set g.gix k }
      commandRelease x lanes (tlLoc g.wg 1 n)
      writeNumber x lanes c n
    | none => do
      match ← takeEntry x with
      | none => writeNumber x lanes c 0
      | some r => do
        let n ← numberCommand x lanes 1
        modS fun s =>
          let members := (s.groupsOf g.wg).filterMap fun p => if p.2.exited then none else some p.2.gix
          let q : CopyCmd :=
            { num := n, index := k, done := 0, ue := false, refused := 0, kind := kind, members := if kind == 0 then members else [],
              slices := [slice], reserved := r, region := s.regionOf g, scope := issueScope x 1, started := false, park := none,
              outcome := none }
          s.updWg g.wg fun w =>
            let w := { w with copies := w.copies ++ [q] }
            if kind == 0 then { w with slices := w.slices.set g.gix k, copyNums := w.copyNums.set k n } else w
        writeNumber x lanes c n) s

def execCpy (b v c : BitVec 7) (s : State) : Host.Outcome State Fault Refusal := issueCopy (.cpy b v c) 0 b v c s
def execCpym (b v c : BitVec 7) (s : State) : Host.Outcome State Fault Refusal := issueCopy (.cpym b v c) 1 b v c s
def execGath (b v c : BitVec 7) (s : State) : Host.Outcome State Fault Refusal := issueCopy (.gath b v c) 2 b v c s
def execScat (b v c : BitVec 7) (s : State) : Host.Outcome State Fault Refusal := issueCopy (.scat b v c) 3 b v c s

/-- CQBUSY_TIMEOUT (R378): a group that has waited a quantum for an entry tries once more, and is refused. -/
def execCqbusyTimeout (group : Nat) (s : State) : Host.Outcome State Fault Refusal :=
  .next (match s.group? group with
    | some g => match g.engqSince with
      | some t =>
        if t + s.quantum (s.regionOf g) ≤ s.time && g.stall == some .engq then s.updGroup group fun g => { g with stall := none } else s
      | none => s
    | none => s)

/-- What CPST reports of command n of a context (R371). -/
def Timeline.record (t : Timeline) (n : Nat) : Nat × Nat × Nat × Nat :=
  if n == 0 || t.issued < n then (14, 0, 0, 0)
  else if t.pend.contains n then (13, 0, 0, 0)
  else match t.recs.find? fun r => r.n == n with
    | some r => (r.status, r.detA, r.detB, r.gtb)
    | none => (15, 0, 0, 0)

/-- CPST (R371): bits 2:0 of operand 3 name the handle, bit 3 clears the error flag after the read. -/
def execCpst (d n t : BitVec 7) (s : State) : Host.Outcome State Fault Refusal :=
  oncePer (.cpst d n t) (fun x lanes => do
    let vs ← readOps x (lanes.headD 0) [(oIn .sPair n 2, true)]
    let g ← groupM x
    let s ← getS
    let tl := t.toNat % 8
    let (st, a, b, w) := match s.timeline g tl with
      | some q => q.record (wordsNat (vs.getD 0 []))
      | none => (14, 0, 0, 0)
    writeVals x (lanes.headD 0) (oOut .sQuad d 4) ([st, a, b, w].map (BitVec.ofNat 32))
    M.whenB (bit t.toNat 3) (modS fun s =>
      if tl == 2 then s.updGroup x.gid fun g => { g with tl2 := { g.tl2 with err := false } }
      else if tl == 7 then s
      else s.updTl g.wg tl fun q => { q with err := false })
    pure .next) s

end Sys2Proof.Machine
end

