-- ==== Sys2Proof/Machine/Pick.lean ====
section
/-! DEFINITION. Which group issues next (R169, R203, R204), what a cycle counts (R170, R441), and fetching its word (R102). -/
namespace Sys2Proof.Machine

/-- Whether an entry may not issue for an empty line: its first lane's own, or one that a hold window has aborted on (R69, R223). -/
def State.entryHeld (s : State) (g : Group) (l : Nat) (ls : List Nat) : Bool :=
  let feb (k : Nat) : Option FebWait := (g.thread? k).bind (·.feb)
  ((feb l).map (s.febHeld g.wg)).getD false || ls.any fun k => ((feb k).map fun f => f.hold && s.febHeld g.wg f).getD false

/-- Whether halt (R437) stops the group, unless it has one instruction to step (R438). -/
def State.stopped (s : State) (g : Group) : Bool := s.haltedRegion (s.regionOf g) && !g.stepOnce && g.atSwitch

/-- Whether a group is ready to issue (R169). -/
def State.readyGroup (s : State) (g : Group) : Bool :=
  s.resident g && !g.paused && g.stall.isNone && !s.stopped g &&
    (g.entering.isSome || match s.entry g with
    | [] => false
    | l :: ls => !s.entryHeld g l ls)

/-- A pipe of the module, and the groups resident on it by slot. -/
def Group.pipeKey (g : Group) : Nat := g.core * 128 + g.pipe

/-- The turn on a pipe: nobody's at first. -/
def State.turn (s : State) (key : Nat) : Pipe :=
  ((s.core (key / 128)).pipes.look (key % 128)).getD { group := none, count := 0, last := 0, busy := 0 }

/-- The stall reason of a blocking wait (R441). -/
def WaitFor.reason : WaitFor → Stall
  | .barrier .. | .mask _ => .barrier
  | .addr .. => .waitaddr
  | .timeline .. | .time _ => .tlwait
  | .grace .. => .grace

/-- The reasons that hold for a group with no eligible entry (R441): of all its live threads. -/
def Group.waitReasons (g : Group) : List Stall :=
  let held (l : Nat) : Bool := (g.trap.map fun tr => !bit tr.tmask.toNat l).getD false
  (g.lanesOf.filter fun p => !p.2.exited).filterMap fun p =>
    if held p.1 || p.2.park.isSome then some .trap else p.2.wait.map fun w => w.what.reason

/-- The stall reason a group counts in a cycle in which it does not issue (R441): the lowest that holds; what an attempt waited for holds
until the group tries again. -/
def State.stallOf (s : State) (g : Group) : Stall :=
  let t := s.turn g.pipeKey
  let own : List Stall := match s.entry g with
    | [] => g.waitReasons
    | l :: ls => g.held.toList ++ (if s.entryHeld g l ls then [.feb] else [])
  let reasons : List Stall := (if s.stopped g then [.dbg] else []) ++ (if g.paused then [.preempt] else []) ++ own
    ++ (if t.last == g.slot && s.time < t.busy then [.exec] else [])
  reasons.foldl (fun a b => if b.ctorIdx < a.ctorIdx then b else a) .pipe

/-- A cycle passes: the GTB advances, and every resident group counts once (R441). -/
def State.tick (s : State) (issuing : Option Nat) : State :=
  let count (p : Nat × Group) : Nat × Group :=
    if !s.resident p.2 then p
    else if issuing == some p.1 then (p.1, { p.2 with issued := p.2.issued + 1#64, counted := none })
    else
      let r := s.stallOf p.2
      (p.1, { p.2 with counters := p.2.counters.set r.ctorIdx (p.2.counters.get 0#64 r.ctorIdx + 1#64), counted := some r })
  { s with groups := s.groups.map count, gtb := s.gtb + 1#64 }

/-- The groups whose turn it could be on a pipe, in slot order (R203). -/
def State.onPipe (s : State) (key : Nat) : List (Nat × Group) :=
  (List.range 4).filterMap fun slot => s.groups.find? fun p => p.2.pipeKey == key && p.2.slot == slot && s.resident p.2

/-- The cycle at which a group last issued (R204). -/
def Group.lastIssue (g : Group) : Nat := g.threads.foldl (fun m p => max m p.2.waited) 0

/-- Whether a group keeps its pipe (R203): it is ready, and has turn left or stands in a hold window. -/
def State.keepsTurn (s : State) (key : Nat) (p : Nat × Group) : Bool :=
  some p.1 == (s.turn key).group && (p.2.window.isSome || (s.readyGroup p.2 && (s.turn key).count < 64))

/-- The ready group of a pipe that has issued nothing for 65,536 cycles, the longest waiting first (R204). -/
def State.starved (s : State) (key : Nat) : Option Nat :=
  match (s.onPipe key).filter fun p => s.readyGroup p.2 && p.2.lastIssue + 65536 ≤ s.time with
  | p :: ps => some (ps.foldl (fun a b => if b.2.lastIssue < a.2.lastIssue then b else a) p).1
  | [] => none

/-- The group a pipe issues from (R203, R204), none while its last instruction occupies it (R166): the one whose turn it is while it is ready and has turn left, the only one inside a
hold window; else a starved one; else the highest class, round-robin. -/
def State.pipeChoice (s : State) (key : Nat) : Option Nat :=
  let gs := if s.time < (s.turn key).busy then [] else s.onPipe key
  let ready := gs.filter fun p => s.readyGroup p.2
  match gs.find? fun p => p.2.window.isSome with
  | some p => if s.readyGroup p.2 then some p.1 else none
  | none =>
    match gs.find? (s.keepsTurn key) with
    | some p => some p.1
    | none =>
      match s.starved key with
      | some gid => some gid
      | none =>
        let top := ready.foldl (fun m p => max m (s.pclass (s.regionOf p.2))) 0
        let after := ready.filter fun p => s.pclass (s.regionOf p.2) == top
        match after.filter fun p => (s.turn key).last < p.2.slot with
        | p :: _ => some p.1
        | [] => after.head?.map (·.1)

/-- The next pipe after the one that issued last that has a group to issue from, and that group. -/
def State.pick (s : State) : Option Nat :=
  let keys := (s.groups.filter fun p => s.readyGroup p.2).map fun p => p.2.pipeKey
  let rec go : Nat → Nat → Option Nat
    | 0, _ => none
    | fuel + 1, low =>
      match keys.filter fun k => low ≤ k with
      | [] => none
      | k :: ks =>
        let best := ks.foldl min k
        (s.pipeChoice best).orElse fun _ => go fuel (best + 1)
  (go keys.length (s.rotor + 1)).orElse fun _ => go keys.length 0

/-- The turns of groups that are not ready end (R203). -/
def State.endTurns (s : State) : State :=
  let ended (c : Nat) (p : Nat × Pipe) : Nat × Pipe :=
    match p.2.group.bind fun gid => (s.group? gid).map (gid, ·) with
    | some q => if s.keepsTurn (c * 128 + p.1) q || s.readyGroup q.2 then p else (p.1, { p.2 with group := none, count := 0 })
    | none => p
  { s with cores := s.cores.map fun (q : Nat × Core) => (q.1, { q.2 with pipes := q.2.pipes.map (ended q.1) }) }

/-- The state in which a group's entry issues its word: the group named, its pipe's turn counted (R203), the latches of the group that
had the pipe before lost (R219). -/
def State.prepare (s : State) (gid : Nat) : State :=
  match s.group? gid with
  | none => { s with cur := some gid }
  | some g =>
    let s := (s.endTurns).tick (some gid)
    let turn (k : Core) : Core :=
      let p := (k.pipes.look g.pipe).getD { group := none, count := 0, last := 0, busy := 0 }
      let count := if p.group == some gid && (p.count < 64 || g.window.isSome) then p.count + 1 else 1
      { k with pipes := k.pipes.set g.pipe { p with group := some gid, count := count, last := g.slot } }
    let lose (p : Nat × Group) : Nat × Group :=
      if p.1 != gid && p.2.pipeKey == g.pipeKey then
        (p.1, { p.2 with threads := p.2.threads.map fun (q : Nat × Thread) => (q.1, { q.2 with latches := [] }) })
      else p
    { s.updCore g.core turn with groups := s.groups.map lose, cur := some gid, rotor := g.pipeKey }

/-- An issue is counted (R170, R204): issues in a row of the entry's lanes (log entry 76), the lanes' last issue. -/
def Group.issuedBy (g : Group) (lanes : List Nat) (now : Nat) : Group :=
  let m := maskOfLanes lanes
  { g with
    held := none
    rowLanes := m
    row := if g.rowLanes == m then (if 1024 ≤ g.row then 1 else g.row + 1) else 1
    threads := g.threads.map fun q => if lanes.contains q.1 then (q.1, { q.2 with waited := now }) else q }

/-- An attempt that only waits is no issue: the cycle counts under its reason (R441). -/
def Group.heldBy (g : Group) (r : Stall) : Group :=
  { g with issued := g.issued - 1#64, counters := g.counters.set r.ctorIdx (g.counters.get 0#64 r.ctorIdx + 1#64), counted := some r,
           held := some r }

/-- The registers an instruction works on for a thread, and the cycles that an issue of it for a number of active threads costs
(R166). -/
def widest (i : Instr) : Nat := i.operands.foldl (fun n o => max n o.n) 1
def issueCost (i : Instr) (active : Nat) : Nat :=
  let major := (encodeNat i).getD 0 / 2 ^ 25
  max 1 (match i with
    | .brx .. | .call | .callx .. | .ret => active
    | _ => if 0x20 ≤ major && major ≤ 0x36 then widest i * active
      else if (0x01 ≤ major && major ≤ 0x14) || (0x1C ≤ major && major ≤ 0x1F) then (if widest i ≤ 2 then active else widest i / 2 * active)
      else if 0x40 ≤ major && major ≤ 0x54 then active
      else 1)

/-- The pipe of a group is occupied for the cycles an issue costs, the one in which it issued the first of them (R166). -/
def State.occupy (s : State) (gid cost : Nat) : State :=
  match s.group? gid with
  | none => s
  | some g => s.updCore g.core fun (k : Core) => { k with pipes := k.pipes.upd g.pipe fun p => { p with busy := s.time + (cost - 1) } }

/-- What an issue counts once it has been made (R170, R203, R204); other groups try again what they waited for. -/
def State.account (s : State) (gid : Nat) (lanes : List Nat) (cost : Nat) : State :=
  let upd (p : Nat × Group) : Nat × Group :=
    if p.1 == gid then
      match p.2.stall with
      | some r => (p.1, p.2.heldBy r)
      | none => (p.1, p.2.issuedBy lanes s.time)
    else (p.1, { p.2 with stall := none })
  let s : State := if ((s.group? gid).bind (·.stall)).isSome then s else (s.occupy gid cost).cxlTaken (some gid) none
  { s with groups := s.groups.map upd, cur := none }

/-- The word an entry issues (R102), or the errors that end the issue. -/
def State.fetch (s : State) (gid : Nat) (g : Group) (lanes : List Nat) : Except AErr Word × State :=
  let pc := ((g.thread? (lanes.headD 0)).map (·.pc)).getD 0#64
  (atAddr pc (fetchWord (s.whoOf g) (s.viaOf g gid (lanes.headD 0)) pc.toNat)).outcome s

/-- What is left when the word cannot be fetched (R35, R102, R222), a cycle in which no instruction begins (R441): the group waits for it, its entry parks on a page fault, a hold
window starting over from its XH, or the threads trap at the first hint or the XH. -/
def State.fetchEnd (s : State) (gid : Nat) (g : Group) (lanes : List Nat) (e : AErr) : State :=
  let x := s.issueOf gid g lanes
  let os := lanes.map fun l => (l, LaneOut.err e)
  match e with
  | .stall r =>
    let r := if r == .memdep then .fetch else r
    s.updGroup gid fun g => { g.heldBy r with stall := some r }
  | .fault .. =>
    let s := parkLanes x (s.whoOf g) os s
    let back (p : Nat × Thread) : Nat × Thread :=
      if lanes.contains p.1 && g.window.isSome then (p.1, { p.2 with pc := x.xhOf g, hint := none, latches := [] }) else p
    s.updGroup gid fun g => { g.heldBy .fetch with window := none, held := none, threads := g.threads.map back }
  | _ => ((finish .nop { x with act := lanes } os s).updGroup gid fun g => { g.heldBy .fetch with held := none, stepOnce := false })

/-- The single step of DBGCMD (R400, R438): once its instruction has been issued the group stops again, and the threads that went on
from it without a trap meet STEP at their next instruction. -/
def State.stepTrap (s : State) (gid : Nat) (g : Group) (lanes : List Nat) (hinted : Bool) : State :=
  if !g.stepOnce || hinted then s
  else match s.group? gid with
  | none => s
  | some h =>
    if h.stall.isSome || h.window.isSome then s
    else
      let s := s.updGroup gid fun g => { g with stepOnce := false }
      if h.trap != g.trap || h.lastTrap != g.lastTrap || h.entering.isSome then s
      else
        -- a routed hit leaves nowatch, which an instruction that completes takes back
        let on := h.lanesOf.filter fun p => lanes.contains p.1 && !p.2.exited && p.2.park.isNone && p.2.wait.isNone && !p.2.nowatch
        match on with
        | [] => s
        | p :: _ =>
          let ts : NMap LaneTrap := (on.filter fun q => q.2.pc == p.2.pc).map fun q => (q.1, trapOf .step q.2.pc)
          s.takeTrap gid ts p.2.pc

end Sys2Proof.Machine
end

