-- ==== Sys2Proof/Machine/Near.lean ====
section
/-! DEFINITION. Doorbells (R151, R384) and near-memory commands (R113 to R117, R387). -/
namespace Sys2Proof.Machine

/-- The DOP of a basin (R468). -/
def dopWho (d : Doorbell) : Who := Who.engine d.region (basinOf d.core) 0x70 0 (some d.core)

/-- Complete a doorbell and remove it. -/
def State.bellDone (s : State) (d : Doorbell) (status : Nat) : State :=
  { s with bells := s.bells.filter fun q => !(q.wg == d.wg && q.num == d.num) }.completeTl d.wg 3 d.num status 0 0

def State.updBell (s : State) (d : Doorbell) (f : Doorbell → Doorbell) : State :=
  { s with bells := s.bells.map fun q => if q.wg == d.wg && q.num == d.num then f q else q }

/-- Find a doorbell's target (R384): its port and address, a park, or its completion. -/
def State.resolveBell (s : State) (d : Doorbell) : State :=
  if d.handle.toNat % d.size != 0 then s.bellDone d stBADCMD
  else
    let w := dopWho d
    match (translate w d.handle.toNat d.size .store).outcome s with
    | (.ok x, s) =>
      match targetOf x.pa with
      | .bar p => if x.dev then s.updBell d fun d => { d with target := some (p, x.pa) } else s.bellDone d stBADCMD
      | _ => s.bellDone d stBADCMD
    | (.error e, s) =>
      match s.parkEngine w e with
      | some (id, s) => s.updBell d fun d => { d with park := some id }
      | none => match e.status with
        | some st => s.bellDone d st
        | none => s

/-- Whether an earlier doorbell of the workgroup is still to be sent: they leave in issue order (R384). -/
def State.bellBehind (s : State) (d : Doorbell) : Bool := s.bells.any fun q => q.wg == d.wg && q.num < d.num

/-- DOORBELL_SEND (R384): doorbells whose target is not known yet are resolved; the first of the port leaves. -/
def execDoorbellSend (port : Nat) (s : State) : Host.Outcome State Fault Refusal :=
  let s := (s.bells.filter fun d => d.target.isNone && d.park.isNone).foldl State.resolveBell s
  .next (match s.bells.find? fun d => (d.target.map fun t => t.1 == port).getD false && !s.bellBehind d with
    | some d =>
      match d.target with
      | some (p, pa) =>
        if s.portUp p && !s.forwards p pa then (s.fabricLog (basinOf d.core) pa (dopWho d).master).bellDone d stACCESSDENY
        else if s.portUp p then
          ({ s with sent := s.sent ++ [{ port := p, peer := none, master := 0, pa := pa, size := d.size, value := d.value.toNat }] } : State).bellDone d stOK
        else s.bellDone d stLINKDOWN
      | none => s
    | none => s)

/-- Issue a doorbell. -/
def ring (i : Instr) (h v c : BitVec 7) (n : Nat) (s : State) : Host.Outcome State Fault Refusal :=
  command i (fun x lanes => do
    let vs ← readOps x (lanes.headD 0) [(oIn .sPair h 2, true), (if n == 1 then oIn .sOne v 1 else oIn .sPair v 2, n == 2)]
    commandFence x (issueScope x 3)
    let g ← groupM x
    let num ← numberCommand x lanes 3
    modS fun s =>
      let d : Doorbell := { wg := g.wg, num := num, region := s.regionOf g, core := g.core,
                            handle := BitVec.ofNat 64 (wordsNat (vs.getD 0 [])), size := 4 * n,
                            value := BitVec.ofNat 64 (wordsNat (vs.getD 1 [])), target := none, park := none }
      let s := { s with bells := s.bells ++ [d] }
      s.resolveBell d
    writeNumber x lanes c num) s

def execDbw (h v c : BitVec 7) (s : State) : Host.Outcome State Fault Refusal := ring (.dbw h v c) h v c 1 s
def execDbwX2 (h v c : BitVec 7) (s : State) : Host.Outcome State Fault Refusal := ring (.dbwX2 h v c) h v c 2 s

/-- Fields of an NMU command (R113). -/
def NmuCmd.field (q : NmuCmd) (lo n : Nat) : Nat := bits (wordsNat q.words) lo n
def NmuCmd.op (q : NmuCmd) : Nat := q.field 248 8
def NmuCmd.nb (q : NmuCmd) : Nat := q.field 244 4
def NmuCmd.stride (q : NmuCmd) : Nat := q.field 216 24
def NmuCmd.count (q : NmuCmd) : Nat := q.field 192 24

/-- The ranges of a command (R113): first granule's handle and kind, W first, then the second W range, then the sources. -/
def NmuCmd.ranges (q : NmuCmd) : List (Nat × Kind) :=
  let w := q.field 0 64
  let g := q.field 64 64
  (w, Kind.nmu) :: (if q.op == 4 then [(w + 64 * q.stride, Kind.nmu)] else [])
    ++ (if q.op == 2 then []
        else if q.op == 5 then (List.range q.nb).map fun j => (g + 64 * (j * q.stride), Kind.load)
        else [(g, Kind.load)])

/-- Whether the status handle is what a command is refused for (R387). -/
def NmuCmd.statusBad (q : NmuCmd) : Bool :=
  match q.status with
  | some h => h.toNat % 8 != 0 || q.ranges.any fun r => r.1 < h.toNat + 8 && h.toNat < r.1 + 64 * q.count
  | none => false

/-- R115, R387: the command is refused. -/
def NmuCmd.bad (q : NmuCmd) : Bool :=
  let n := 64 * q.count
  let rs := q.ranges.map (·.1)
  let meets (a m b k : Nat) : Bool := a < b + k && b < a + m
  let sameOk : Bool := (q.op == 1 || q.op == 3) && q.field 0 64 == q.field 64 64
  q.op == 0 || 5 < q.op || q.field 240 4 != 0 || q.count == 0
    || (q.op == 5) != (q.nb != 0) || (q.op != 4 && q.op != 5 && q.stride != 0) || (q.op == 2 && q.field 64 64 != 0)
    || rs.any (fun a => a % 64 != 0)
    || ((q.op == 4 || (q.op == 5 && 1 < q.nb)) && q.stride < q.count)
    || (!sameOk && (rs.zipIdx).any fun a => (rs.zipIdx).any fun b => a.2 < b.2 && meets a.1 n b.1 n)
    || q.statusBad

/-- The NMU that makes a command's accesses (R40, R105, R468): the one that serves the channel of W's first granule; while W has no
address, NMU 0 of the issuing core's basin (log entry 43). -/
def nmuWho (s : State) (core : Nat) (q : NmuCmd) : Who :=
  let first : Who := Who.engine q.region (basinOf core) 0x60 0 (some core)
  match (locate { first with queued := false } (q.field 0 64) 64 .nmu).outcome s with
  | (.ok x, _) =>
    if isHbmKey x.pa then
      { first with master :=
          (Who.engine q.region (stackOf x.pa / 2) (0x60 + 4 * (stackOf x.pa % 2) + channelOf x.pa / 128) 0 (some core)).master }
    else first
  | (.error _, _) => first
def nmuVia (core : Nat) (q : NmuCmd) : Via := engineVia core q.region 0x60

/-- Check a page of a range (R115): memory of HBM4E that is not sealed, and whether its frame is retired. -/
def nmuReach (w : Who) (kind : Kind) (h n : Nat) : M (Option (Nat × Bool)) := do
  let x ← translate w h n kind
  match targetOf x.pa with
  | .hbm _ => pure (if x.enc then none else some (x.pa, x.por))
  | _ => pure none

/-- The lines of the 2 KiB L2 line that holds an address, in the address's own view (R80, R107). -/
def l2Lines (pa : Nat) : List Nat :=
  if pa < 2 ^ 40 then
    -- a granule of 256 bytes: the eight of its row segment lie 2^12 granules apart, their low bits hashed
    let fold (g : Nat) : Nat := (g / 2 ^ 12) ^^^ (g / 2 ^ 24) ^^^ (g / 2 ^ 36)
    let g := pa / 256
    let f := (g ^^^ fold g) % 2 ^ 12
    let i := g / 2 ^ 12
    ((List.range 8).map fun j =>
      let up := (i / 8 * 8 + j) * 2 ^ 12
      let low := (f ^^^ fold up) % 2 ^ 12
      [2 * (up + low), 2 * (up + low) + 1]).flatten
  else (List.range 16).map (pa / 2048 * 16 + ·)

/-- The home slice readies a granule's L2 line for an NMU (R116): copies and leases recalled, dirty bytes written back. -/
def nmuClean (pa : Nat) : M Unit :=
  M.forEach (fun l => do
    homeStep (lineKey l)
    clearLeases l true none
    modS fun s => s.recallAll (homeOf (lineKey l)) l false) (l2Lines pa)

/-- A granule's elements and whether it is poisoned; a retired frame reads as poison (R20). -/
def granuleRead (w : Who) (kind : Kind) (h : Nat) : M (List Nat × Bool) := do
  match ← nmuReach w kind h 64 with
  | some (k, por) => do
    nmuClean k
    memoryCharge (homeOf k) w.region k 64
    let (bs, bad) ← agentRead k 64
    pure ((List.range 16).map (fun i => bytesToNat ((bs.drop (4 * i)).take 4)), bad || por)
  | none => trapM .bufrights
def granuleWrite (w : Who) (h : Nat) (es : List Nat) : M Unit := do
  match ← nmuReach w .nmu h 64 with
  | some (k, _) => do
    memoryCharge (homeOf k) w.region k 64
    agentWrite k (es.map (natToBytes 4)).flatten false
    modS fun s => s.breakChain false 0 k 64
  | none => trapM .bufrights

/-- Binary32 arithmetic of the NMU (R114). -/
def nmuFma (x y z : Nat) : Nat := (roundTo fmtF32 (fxFma false (decodeF fmtF32 x) (decodeF fmtF32 y) (decodeF fmtF32 z)).1 rne).1
def nmuMul (x y : Nat) : Nat := (roundTo fmtF32 (fxMul (decodeF fmtF32 x) (decodeF fmtF32 y)).1 rne).1
def nmuNeg (x : Nat) : Nat := x ^^^ 2 ^ 31
def nmuSub (x y : Nat) : Nat := (roundTo fmtF32 (fxAdd false (decodeF fmtF32 x) (decodeF fmtF32 y).neg).1 rne).1

/-- An element's new values (R114): w, or m and v; `gs` are the source elements. -/
def nmuElement (op a b w v : Nat) (gs : List Nat) : Nat × Nat :=
  let g := gs.headD 0
  match op with
  | 1 => (nmuFma a g w, v)
  | 2 => (nmuMul a w, v)
  | 3 => (nmuFma (nmuNeg a) (nmuFma b w g) w, v)
  | 4 =>
    let q := nmuMul g g
    (nmuFma a (nmuSub w g) g, nmuFma b (nmuSub v q) q)
  | _ => (gs.foldl (addRne fmtF32) w, v)

/-- Granule e: none when it is done, else the range and the source that hold uncorrectable data (R117); of several, W comes first, then
the lowest source of G, then the second W range (log entry 72). -/
def nmuGranule (w : Who) (q : NmuCmd) (e : Nat) : M (Option (Nat × Nat)) := do
  match ← nmuReach w .nmu (q.field 0 64 + 64 * e) 64 with
  | some (k, _) => memoryGate (homeOf k) w.region k
  | none => trapM .bufrights
  let got ← M.mapEach (fun (r : Nat × Kind) => granuleRead w r.2 (r.1 + 64 * e)) q.ranges
  let t := (got.getD 0 ([], false))
  let v := if q.op == 4 then got.getD 1 ([], false) else ([], false)
  let gs := got.drop (if q.op == 4 then 2 else 1)
  if t.2 then pure (some (0, 0))
  else match (gs.zipIdx).find? fun g => g.1.2 with
  | some g => pure (some (1, if q.op == 5 then g.2 else 0))
  | none =>
    if v.2 then pure (some (2, 0))
    else do
      let out := (List.range 16).map fun i => nmuElement q.op (q.field 128 32) (q.field 160 32) (t.1.getD i 0) (v.1.getD i 0)
        (gs.map fun g => g.1.getD i 0)
      -- what the writes wait for comes before the first of them
      M.forEach (fun (r : Nat × Kind) => do
        match ← nmuReach w r.2 (r.1 + 64 * e) 64 with
        | some (k, _) => do
          dxGate (lineOf k)
          modS fun s => s.dirtyForExecute (lineOf k)
        | none => pure ()) (q.ranges.filter fun r => r.2 == .nmu)
      granuleWrite w (q.field 0 64 + 64 * e) (out.map (·.1))
      M.whenB (q.op == 4) (granuleWrite w (q.field 0 64 + 64 * (q.stride + e)) (out.map (·.2)))
      pure none

def State.updNmu (s : State) (w n : Nat) (f : NmuCmd → NmuCmd) : State :=
  s.updWg w fun x => { x with nmus := x.nmus.map fun q => if q.num == n then f q else q }

/-- Granules from e on, in ascending order (R116, R117): the command's result.  A granule once written is done, whatever the command waits
for afterwards. -/
def nmuGranules (w : Who) (wg : Nat) (q : NmuCmd) : Nat → Nat → M (Nat × Nat × Nat × Nat)
  | 0, e => pure (stOK, 0, 0, e)
  | fuel + 1, e => do
    match ← wholeUnit (nmuGranule w q e) with
    | some (op, j) => pure (stUE, op, j, e)
    | none => do
      modS fun s => s.updNmu wg q.num fun q => { q with done := e + 1 }
      nmuGranules w wg q fuel (e + 1)

/-- An access to the status handle (R387): whatever fails it but ACCESSDENY completes the command ENGFAULT. -/
def handleAccess {α : Type} (m : M α) : M α := fun s =>
  match m s with
  | .ok a t => .ok a t
  | .error e t => .error (match e with
    | .deny | .fault .. | .stall _ | .feb .. => e
    | _ => .trap .engfault 0 0#64) t

/-- The checks of a command before its first granule (R115, R387): whether it is refused.  Every page is translated, in order, before a
frame outside HBM4E or an ENC page refuses it (log entry 73). -/
def nmuChecks (w : Who) (q : NmuCmd) : M Bool := do
  if q.bad then pure true
  else do
    let oks ← M.mapEach (fun (r : Nat × Kind) => do
      let ps ← handlePieces w r.1 (64 * q.count) r.2
      M.mapEach (fun (p : Nat × Nat) => nmuReach w r.2 (r.1 + p.1) p.2) ps) q.ranges
    if oks.flatten.any (·.isNone) then pure true
    else do
      match q.status with
      | some h => do
        let _ ← handleAccess (translate w h.toNat 8 .store)
      | none => pure ()
      pure false

/-- The whole of a command, or what is left of it (R115, R116). -/
def nmuRun (core wg : Nat) (q : NmuCmd) : M (Nat × Nat × Nat × Nat) := do
  let s ← getS
  let w := nmuWho s core q
  let refused ← if q.done == 0 then nmuChecks w q else pure false
  if refused then pure (stBADCMD, 0, 0, 0) else nmuGranules w wg q (q.count - q.done) q.done

/-- NMU_EXECUTE (R115 to R117): the oldest command of a context, in issue order. -/
def execNmuExecute (workgroup : Nat) (s : State) : Host.Outcome State Fault Refusal :=
  match s.wgs.look workgroup with
  | none => .next s
  | some x =>
    match x.nmus with
    | [] => .next s
    | q :: _ =>
      if q.result.isSome || q.park.isSome || !s.shareLeft (basinOf x.core) q.region 3 then .next s
      else
        match (nmuRun x.core workgroup q).outcome s with
        | (.ok r, t) => .next ((t.charge (basinOf x.core) q.region 3 q.count).updNmu workgroup q.num fun q =>
          { q with result := some r, status := if q.statusBad then none else q.status })
        | (.error e, t) =>
          match t.parkEngine (nmuWho t x.core q) e with
          | some (id, t) => .next (t.updNmu workgroup q.num fun q => { q with park := some id })
          | none => match e.status with
            | none => .next t
            | some st => .next (t.updNmu workgroup q.num fun q => { q with result := some (st, 0, 0, 0), status := keep t x.core q })
where
  /-- The status word is not written when its own handle is what failed (R387). -/
  keep (s : State) (core : Nat) (q : NmuCmd) : Option DWord :=
    match q.status with
    | some h => match (translate { nmuWho s core q with queued := false } h.toNat 8 .store).outcome s with
      | (.ok _, _) => some h
      | (.error _, _) => none
    | none => none

/-- The status word (R117). -/
def nmuWord (r : Nat × Nat × Nat × Nat) : Nat := r.1 * 2 ^ 60 + r.2.1 * 2 ^ 58 + r.2.2.1 * 2 ^ 54 + r.2.2.2 % 2 ^ 24

/-- NMU_COMPLETE (R117, R387): the status word as a release write at .dev, then the timeline. -/
def execNmuComplete (workgroup : Nat) (s : State) : Host.Outcome State Fault Refusal :=
  match s.wgs.look workgroup with
  | none => .next s
  | some x =>
    match x.nmus with
    | [] => .next s
    | q :: _ =>
      match q.result with
      | none => .next s
      | some r =>
        let done (s : State) (st : Nat) : State :=
          (s.completeTl workgroup 4 q.num st r.2.2.2 (r.2.1 + 4 * r.2.2.1)).updWg workgroup fun x =>
            { x with nmus := x.nmus.filter fun p => p.num != q.num }
        let write (h : DWord) : M Unit := do
          if h.toNat % 8 != 0 then trapM .misalign
          let w := nmuWho (← getS) x.core q
          let a ← translate w h.toNat 8 .store
          engineStoreAt w (nmuVia x.core q) a (natToBytes 8 (nmuWord r)) false
          modS fun s =>
            let rs := (s.mem.rel.filter fun (p : Loc × Release) => p.1 == tlLoc workgroup 4 q.num).map
              fun (p : Loc × Release) => (globalLoc a.pa, { p.2 with scope := 2 })
            let s := s.breakChain false 0 (keyOf a.pa) 8
            s.setMem { s.mem with rel := s.mem.rel ++ rs }
        if q.park.isSome then .next s
        else match q.status with
          | none => .next (done s r.1)
          | some h =>
            match (wholeUnit (handleAccess (write h))).outcome s with
            | (.ok _, t) => .next (done t r.1)
            | (.error (.stall _), t) => .next t
            | (.error e, t) =>
              match t.parkEngine (nmuWho t x.core q) e with
              | some (id, t) => .next (t.updNmu workgroup q.num fun q => { q with park := some id })
              | none => .next (done t (if r.1 == stOK then (e.status.getD stENGFAULT) else r.1))

/-- NMC (R387). -/
def execNmc (b w c : BitVec 7) (s : State) : Host.Outcome State Fault Refusal :=
  command (.nmc b w c) (fun x lanes => do
    let vs ← readOps x (lanes.headD 0) [(oIn .desc b 8, false), (oIn .sPairZ w 2, true)]
    commandFence x (issueScope x 2)
    let g ← groupM x
    let num ← numberCommand x lanes 4
    modS fun s => s.updWg g.wg fun y => { y with nmus := y.nmus ++ [
      { num := num, words := vs.getD 0 [], status := if w == 120#7 then none else some (BitVec.ofNat 64 (wordsNat (vs.getD 1 []))),
        region := s.regionOf g, group := x.gid, park := none, done := 0, result := none }] }
    writeNumber x lanes c num) s

end Sys2Proof.Machine
end

