-- ==== Sys2Proof/Machine/Matrix.lean ====
section
/-! DEFINITION. The matrix engine (R255 to R260, R342 to R366): holding it, its queue, weight banks, units and drains. -/
namespace Sys2Proof.Machine

/-- Bits per element of an operand format code (R342). -/
def mxBits (f : Nat) : Nat := match f with
  | 0 | 1 | 3 | 4 => 8
  | 2 => 4
  | 5 | 6 => 16
  | 7 => 32
  | _ => 64

/-- The family of a format code: 0 F8, 1 I8, 2 WIDE, 3 F64; none for a code outside R342. -/
def mxFamily (f : Nat) : Option Nat :=
  if f ≤ 2 then some 0 else if f ≤ 4 then some 1 else if f ≤ 7 then some 2 else if f == 8 then some 3 else none

/-- A legal pair of formats that agrees with the mode of the store (R342). -/
def mxPair (w a : Nat) (f64 : Bool) : Bool := mxFamily w == mxFamily a && (mxFamily w).isSome && (mxFamily w == some 3) == f64

/-- Tile shape of a weight format: K, N (R342); and the store's rows and rows per lane. -/
def mxK (w : Nat) : Nat := if w == 2 || w == 8 then 512 else 256
def mxN (f64 : Bool) : Nat := if f64 then 128 else 256
def mxM (f64 : Bool) : Nat := if f64 then 128 else 256
def mxH0 (f64 : Bool) : Nat := if f64 then 4 else 8

/-- The floating format of a code. -/
def mxFmt (f : Nat) : Fmt := match f with
  | 0 => fmtE4M3
  | 1 => fmtE5M2
  | 5 => fmtBF16
  | 6 => fmtF16
  | 7 => fmtF32
  | _ => fmtF64

/-- An element with its block scale and extra value as a signed number times a power of two; none for an infinity or a NaN
(R244, R258, R343). -/
def mxVal (f code scale extra : Nat) : Option (Int × Int) :=
  let ofFX (k : Int) : FX → Option (Int × Int)
    | .num s m e _ => some (if s then -(m : Int) else m, e + k)
    | _ => none
  let k : Int := (scale : Int) - 127
  if scale == 0xFF then none
  else match f with
    | 2 => ofFX 0 (decodeE2M1X code scale extra)
    | 3 => some (sext 8 code, k)
    | 4 => some (code, k)
    | _ => ofFX k (decodeF (mxFmt f) code)

/-- The elements of packed bytes (R243). -/
def mxCodes (f : Nat) (bs : List Byte) : List Nat :=
  if f == 2 then (bs.map fun b => [b.toNat % 16, b.toNat / 16]).flatten
  else
    let z := mxBits f / 8
    let rec go : Nat → List Byte → List Nat
      | 0, _ => []
      | n + 1, l => bytesToNat (l.take z) :: go n (l.drop z)
    go (bs.length / z) bs

/-- What an element holds while products enter it: its integer, whether it is held at a bound (R257), and the row flags. -/
structure Acc where
  a     : Int
  held  : Bool
  flags : Nat
  deriving DecidableEq, Repr

/-- Row flag bits. -/
def rowSAT : Nat := 1
def rowTR : Nat := 2
def rowNAN : Nat := 4

/-- The window of the store: the weight of its lowest bit and its width (R255). -/
def Mxe.lsb (e : Mxe) : Int := e.anchor.toInt - (if e.f64 then 288 else 72)
def Mxe.width (e : Mxe) : Nat := if e.f64 then 384 else 96

/-- Enter a product (R256 to R258). -/
def enterProduct (lsb : Int) (width : Nat) (x : Acc) (p q : Option (Int × Int)) : Acc :=
  match p, q with
  | some (m, e), some (n, f) =>
    let v := m * n
    if v == 0 then x
    else
      let sh := e + f - lsb
      let t : Int := if 0 ≤ sh then v * (2 ^ sh.toNat : Nat) else v.tdiv (2 ^ (-sh).toNat : Nat)
      let cut : Bool := decide (sh < 0) && v.tmod (2 ^ (-sh).toNat : Nat) != 0
      let fl := if cut then x.flags ||| rowTR else x.flags
      if x.held then { x with flags := fl }
      else
        let b : Int := (2 ^ (width - 1) : Nat)
        let y := x.a + t
        if b ≤ y then { a := b - 1, held := true, flags := fl ||| rowSAT }
        else if y < -b then { a := -b, held := true, flags := fl ||| rowSAT }
        else { x with a := y, flags := fl }
  | _, _ => { x with flags := x.flags ||| rowNAN }

/-- All products of a row with a column (R343), in ascending k. -/
def enterColumn (lsb : Int) (width : Nat) (x : Acc) : List (Option (Int × Int)) → List (Option (Int × Int)) → Acc
  | p :: ps, q :: qs => enterColumn lsb width (enterProduct lsb width x p q) ps qs
  | _, _ => x

/-- A column of a bank with its block scales (R343, R351). -/
def WBank.column (b : WBank) (n : Nat) : List (Option (Int × Int)) :=
  let sc : List (Nat × Nat) := b.scales.get [] n
  ((b.tile.get [] n).zipIdx).map fun c =>
    let z := if b.sc then sc.getD (c.2 / 32) (127, 0) else (127, 0)
    mxVal b.fmt c.1 z.1 z.2

def Mxe.bank (e : Mxe) (i : Nat) : WBank := if i == 0 then e.bank0 else e.bank1
def Mxe.setBank (e : Mxe) (i : Nat) (b : WBank) : Mxe := if i == 0 then { e with bank0 := b } else { e with bank1 := b }

/-- Store row m, and writing it back. -/
def Mxe.row (e : Mxe) (m : Nat) : List Int := e.store.get (List.replicate (mxN e.f64) 0) m
def Mxe.setRow (e : Mxe) (m : Nat) (l : List Int) : Mxe :=
  { e with store := if l.all (· == 0) then e.store.del m else e.store.set m l }
def Mxe.rowFlags (e : Mxe) (m : Nat) : Nat := (e.rows.get 0#3 m).toNat
def Mxe.setFlags (e : Mxe) (m : Nat) (f : Nat) : Mxe :=
  { e with rows := if f == 0 then e.rows.del m else e.rows.set m (BitVec.ofNat 3 f) }

/-- Clear a row and its flags (R360); poison stays until ACLR, AWR or MXCFG (R358). -/
def Mxe.zeroRow (e : Mxe) (m : Nat) : Mxe :=
  { e with store := e.store.del m, rows := e.rows.del m, bound := e.bound.filter fun k => k / 256 != m }

/-- ACLR of a row (R358, R359). -/
def Mxe.clearRow (e : Mxe) (m : Nat) : Mxe := { e.zeroRow m with badEl := e.badEl.filter fun k => k / 256 != m }

/-- A unit of MMA and MMAX: activation row `act` into store row m (R343). -/
def Mxe.enterRow (e : Mxe) (bank m : Nat) (act : List (Option (Int × Int))) : Mxe :=
  let b := e.bank bank
  let go (acc : List Int × List Nat × Nat) (c : Int × Nat) : List Int × List Nat × Nat :=
    let key := m * 256 + c.2
    let r := enterColumn e.lsb e.width { a := c.1, held := e.bound.contains key, flags := acc.2.2 } act (b.column c.2)
    (r.a :: acc.1, if r.held && !e.bound.contains key then key :: acc.2.1 else acc.2.1, r.flags)
  let (l, held, fl) := ((e.row m).zipIdx).foldl go ([], [], e.rowFlags m)
  let e := (e.setRow m l.reverse).setFlags m fl
  { e with bound := held ++ e.bound }

/-- The value of an element rounded to a destination (R260, R360): code and flags. -/
def mxDrain (dfmt : Nat) (nan : Bool) (a lsb : Int) (rd : Rnd) : Nat × Nat :=
  if dfmt == 6 then
    if nan then (0, flagNV)
    else
      let (v, exact) := roundInt (a < 0) a.natAbs lsb false rd
      let hi : Int := 2147483647
      if hi < v then (wrap 32 hi, flagNV) else if v < -hi - 1 then (wrap 32 (-hi - 1), flagNV)
      else (wrap 32 v, if exact then 0 else flagNX)
  else
    let f := fmtOf dfmt
    if nan then (canonNaN f, flagNV) else roundTo f (.num (a < 0) a.natAbs lsb false) rd

/-- Bytes per element of an AST destination format. -/
def mxDstSize (dfmt : Nat) : Nat := if dfmt == 6 then 4 else (fmtOf dfmt).bits / 8

/-- A drained row (R360): its bytes, the drain flags, and the columns that are poisoned. -/
def Mxe.drainRow (e : Mxe) (m dfmt : Nat) (rd : Rnd) : List Byte × Nat × List Nat :=
  let fl := e.rowFlags m
  let es := (e.row m).map fun a => mxDrain dfmt (bit fl 2) a e.lsb rd
  let bad := (e.badEl.filter fun k => k / 256 == m).map (· % 256)
  ((es.map fun c => natToBytes (mxDstSize dfmt) c.1).flatten,
   es.foldl (fun f c => f ||| c.2) ((if bit fl 0 then flagOF else 0) ||| (if bit fl 1 then flagNX else 0)), bad)

/-- Lanes of a command in ascending order, its units, and unit u's handle, store row and row number (R354, R355). -/
def MxCmd.laneList (q : MxCmd) : List Nat := (List.range 32).filter fun l => bit q.lanes.toNat l
def MxCmd.isStream (q : MxCmd) : Bool := q.kind == .mma || q.kind == .mmax || q.kind == .ast
def MxCmd.total (q : MxCmd) : Nat :=
  match q.kind with
  | .mma | .mmax | .ast => q.laneList.length * q.rows
  | .wload =>
    let w := bits q.cfg.toNat 0 4
    (if q.tr then mxN (w == 8) else mxK w) + (if bit q.cfg.toNat 4 then mxN (w == 8) else 0)
  | _ => 0
def MxCmd.unitAt (q : MxCmd) (u : Nat) (f64 : Bool) : Nat × Nat × Nat :=
  let lane := q.laneList.getD (u / q.rows) 0
  let i := u % q.rows
  ((q.handles.get 0#64 lane).toNat, mxH0 f64 * lane + i, i)

/-- BADCMD of a command's words (R349, R351, R354, R359, R360). -/
def MxCmd.bad (q : MxCmd) (f64 : Bool) : Bool :=
  let c := q.cfg.toNat
  let handles := q.handles.any fun p => p.2.toNat % 16 != 0
  match q.kind with
  | .wload =>
    let w := bits c 0 4
    let sc := bit c 4
    let ss := bits c 16 16
    q.base.toNat % 16 != 0 || q.stride % 16 != 0 || bits c 5 11 != 0 || 8 < w
      || (sc && (2 < w || q.scale.isNone || ss % 2 == 1 || ss < mxK w / 16 || ((q.scale.map (·.toNat % 16 != 0)).getD false)))
      || (w == 2 && (!q.tr || !sc))
  | .mma => handles || q.stride % 16 != 0 || bits c 4 12 != 0 || (mxFamily (bits c 0 4)).isNone || bits c 0 4 == 2
      || mxH0 f64 < q.rows || bits c 16 16 != 0
  | .mmax => handles || q.stride % 16 != 0 || bits c 4 12 != 0 || 2 < bits c 0 4 || mxH0 f64 < q.rows || bits c 16 1 != 0
  | .ast => handles || q.stride % 16 != 0 || bits c 9 23 != 0 || 5 < q.mode || 6 < bits c 0 4 || mxH0 f64 < q.rows
  | .aclr => q.tr && bits c 16 16 != 0
  | _ => false

/-- Who the engine of a core acts for, and through which caches (R40, R468). -/
def mxWho (core region : Nat) : Who := Who.engine region (basinOf core) (4 * localOf core) 0 (some core)

/-- Read n bytes at an offset of a handle with the matrix-operand rights (R349); poison stops the command. -/
def mxRead (core : Nat) (q : MxCmd) (h : Nat) (off : Int) (n : Nat) : M (List Byte) := do
  let a ← engineAddr h off
  let (bs, bad) ← engineRead (mxWho core q.region) (engineVia core q.region 0) a n .matrix
  if bad then err .poison
  pure bs

/-- Pairs of scale and extra bytes. -/
def scalePairs (bs : List Byte) : List (Nat × Nat) :=
  (List.range (bs.length / 2)).map fun j => ((bs.getD (2 * j) 0#8).toNat, (bs.getD (2 * j + 1) 0#8).toNat)

/-- Change the command at the head of a core's queue. -/
def State.updMx (s : State) (c : Nat) (f : MxCmd → MxCmd) : State :=
  s.updCore c fun k => { k with mxe := { k.mxe with queue := match k.mxe.queue with
    | [] => []
    | q :: qs => f q :: qs } }
def State.updMxe (s : State) (c : Nat) (f : Mxe → Mxe) : State := s.updCore c fun k => { k with mxe := f k.mxe }

/-- The bytes of a row written at the destination, 64-byte sectors with a poisoned element as poison (R358, R360). -/
def mxStore (core : Nat) (q : MxCmd) (h : Nat) (bs : List Byte) (bad : List Nat) (z : Nat) : M Unit := do
  let first := 64 - h % 64
  let cuts := (0, min first bs.length) :: (List.range (bs.length / 64 + 1)).filterMap fun i =>
    let o := first + 64 * i
    if o < bs.length then some (o, min 64 (bs.length - o)) else none
  M.forEach (fun (p : Nat × Nat) =>
    let poisoned := bad.any fun n => n * z < p.1 + p.2 && p.1 < (n + 1) * z
    engineWrite (mxWho core q.region) (engineVia core q.region 0) (h + p.1) ((bs.drop p.1).take p.2) poisoned) cuts

/-- Unit u of a started command (R351, R355, R360). -/
def mxUnit (core : Nat) (q : MxCmd) (u : Nat) : M Unit := do
  let s ← getS
  let e := (s.core core).mxe
  match q.kind with
  | .wload => do
    let w := bits q.cfg.toNat 0 4
    let rows := if q.tr then mxN (w == 8) else mxK w
    let len := if q.tr then mxK w else mxN (w == 8)
    if u < rows then do
      let bs ← mxRead core q q.base.toNat (u * q.stride : Nat) (len * mxBits w / 8)
      modS fun s => s.updMx core fun q => { q with staged := mxCodes w bs :: q.staged }
    else do
      let n := u - rows
      let bs ← mxRead core q (q.scale.getD 0#64).toNat (n * bits q.cfg.toNat 16 16 : Nat) (mxK w / 16)
      modS fun s => s.updMxe core fun e =>
        let b := e.bank (q.bank.getD 0)
        e.setBank (q.bank.getD 0) { b with scales := b.scales.set n (scalePairs bs) }
  | .ast => do
    let (h, m, i) := q.unitAt u e.f64
    let a ← engineAddr h (i * q.stride : Nat)
    let c := q.cfg.toNat
    let (bs, fl, bad) := e.drainRow m (bits c 0 4) { mode := q.mode, r := 0, w := 0, sat := bit c 8, ftz := false }
    mxStore core q a bs bad (mxDstSize (bits c 0 4))
    modS fun s =>
      let s := s.updMxe core fun e =>
        let e := if bit c 7 then e.zeroRow m else e
        { e with drain := e.drain ||| BitVec.ofNat 5 fl }
      if bad.isEmpty then s else s.updMx core fun q => { q with ue := true }
  | .mma | .mmax => do
    let (h, m, i) := q.unitAt u e.f64
    let f := bits q.cfg.toNat 0 4
    let k := mxK (e.bank (q.bank.getD 0)).fmt
    let off := i * q.stride
    let bs ← mxRead core q h (off : Nat) (k * mxBits f / 8)
    let sc ← if q.kind == .mmax then mxRead core q h (off + bits q.cfg.toNat 16 16 : Nat) (k / 16) else pure []
    let scales := scalePairs sc
    let act := ((mxCodes f bs).zipIdx).map fun c =>
      let z := if q.kind == .mmax then scales.getD (c.2 / 32) (127, 0) else (127, 0)
      mxVal f c.1 z.1 z.2
    modS fun s => s.updMxe core fun e => e.enterRow (q.bank.getD 0) m act
  | _ => pure ()

/-- Complete a command (R148, R348): its record, and the first status other than OK in the error word. -/
def State.mxDone (s : State) (core : Nat) (q : MxCmd) (status : Nat) : State :=
  let s := s.completeTl (q.group / 32) 0 q.num status 0 q.done
  if status == stOK then s
  else s.updMxe core fun e =>
    if e.errStat == 0 then { e with errStat := status, errCmd := q.num % 2 ^ 16 } else e

/-- A WLOAD that has completed leaves its bank READY with the tile, or BAD (R350, R351). -/
def Mxe.loaded (e : Mxe) (q : MxCmd) (ok : Bool) : Mxe :=
  match q.bank with
  | none => e
  | some i =>
    let w := bits q.cfg.toNat 0 4
    let rows := q.staged.reverse
    let cols : NMap (List Nat) := (List.range (mxN (w == 8))).map fun n =>
      (n, if q.tr then rows.getD n [] else rows.map fun r => r.getD n 0)
    let b := e.bank i
    e.setBank i (if ok then { b with state := 2, fmt := w, sc := bit q.cfg.toNat 4, tile := cols }
                 else { b with state := 3, fmt := w, sc := bit q.cfg.toNat 4, tile := [] })

/-- The command at the head completes: a stream that has not performed every unit stops, keeps its state for MXRES and
aborts the commands behind it (R355); one that resumed and ended clears the stopped state (R357). -/
def State.mxComplete (s : State) (core : Nat) (q : MxCmd) (status : Nat) : State :=
  let rest := (s.core core).mxe.queue.drop 1
  let stops := q.isStream && q.started && q.done < q.total
  let s := s.updMxe core fun e =>
    let e := { e with queue := if stops then [] else rest }
    if q.kind == .wload && q.started then e.loaded q (status == stOK) else e
  let s := s.mxDone core q status
  let s :=
    if stops then
      let s := s.updGroup q.group fun g =>
        { g with stopped := some { q with status := none, park := none, started := false, unit := none }, stoppedStatus := status }
      rest.foldl (fun s r => s.mxDone core r stABORTED) s
    else if q.resumed && q.done == q.total then s.updGroup q.group fun g => { g with stopped := none, stoppedStatus := 0 }
    else s
  s.mxTryRelease core

/-- What becomes of the head of the queue when it starts (R349, R352, R357): a status at once, or the command started. -/
def State.mxStart (s : State) (core : Nat) (q : MxCmd) : State :=
  let e := (s.core core).mxe
  let ends (s : State) (st : Nat) : State := s.updMx core fun q => { q with status := some st }
  match q.kind with
  | .bad => ends s stNOSTOP
  | .wswap => ends (s.updMxe core fun e => { e with front := !e.front }) stOK
  | .aclr =>
    if q.bad e.f64 then ends s stBADCMD
    else
      let first := if q.tr then bits q.cfg.toNat 0 8 else 0
      let count := if q.tr then bits q.cfg.toNat 8 8 + 1 else 256
      ends (s.updMxe core fun e => (rangeFrom first count).foldl Mxe.clearRow e) stOK
  | .wload =>
    if q.bad e.f64 then ends s stBADCMD
    else
      let back := if e.front then 0 else 1
      let s := s.updMxe core fun e => e.setBank back { (e.bank back) with state := 1 }
      s.updMx core fun q => { q with started := true, bank := some back, unit := s.freeUnit core }
  | .ast =>
    if q.resumed && q.total < q.done then ends s stBADCMD
    else if q.resumed && q.done == q.total then ends s stOK
    else if q.bad e.f64 then ends s stBADCMD
    else s.updMx core fun q => { q with started := true, unit := s.freeUnit core }
  | .mma | .mmax =>
    if q.resumed && q.total < q.done then ends s stBADCMD
    else if q.resumed && q.done == q.total then ends s stOK
    else
      let bank := if q.resumed then q.bank.getD 0 else (if e.front then 1 else 0)
      let b := e.bank bank
      if b.state == 0 || b.state == 3 then ends s stBADBANK
      else if q.bad e.f64 || !mxPair b.fmt (bits q.cfg.toNat 0 4) e.f64 then ends s stBADCMD
      else s.updMx core fun q => { q with started := true, bank := some bank, unit := s.freeUnit core }

/-- The words of its staging unit that the next unit of a started command takes (R364). -/
def Mxe.unitWords (e : Mxe) (q : MxCmd) : Nat :=
  let f := bits q.cfg.toNat 0 4
  min 2048 (match q.kind with
    | .wload => (if q.tr then mxK f else mxN (f == 8)) * mxBits f / 32
    | .ast => mxN e.f64 * mxDstSize f / 4
    | _ => mxK (e.bank (q.bank.getD 0)).fmt * mxBits f / 32)

/-- Those words are read: single-bit errors are corrected and counted, an uncorrectable word strikes the command (R76). -/
def State.mxStaged (s : State) (core : Nat) (q : MxCmd) : State :=
  match q.unit with
  | none => s
  | some b =>
    let place := (s.stagedQueues core b).length + ((s.core core).mxe.queue.filter fun p => p.started && p.unit == some b).findIdx fun p => p.num == q.num
    s.softRead core (32768 * b + 2048 * place) ((s.core core).mxe.unitWords q) fun bad s =>
      if bad.isEmpty then s else s.updMx core fun q => { q with struck := true }

/-- MATRIX_UNIT (R355): the command at the head starts, or performs its next unit, stops or parks; a started one that has no staging unit,
after a restore, takes one first (R364). -/
def execMatrixUnit (core : Nat) (s : State) : Host.Outcome State Fault Refusal :=
  match (s.core core).mxe.queue with
  | [] => .next s
  | q :: _ =>
    if q.status.isSome || q.park.isSome || !s.shareLeft (basinOf core) q.region 2 then .next s
    else if !q.started then
      if (q.isStream || q.kind == .wload) && s.hasMxs core && (s.freeUnit core).isNone then .next s
      else .next (s.mxStart core q)
    else if q.unit.isNone && s.hasMxs core then
      .next (if (s.freeUnit core).isSome then s.updMx core fun q => { q with unit := s.freeUnit core } else s)
    -- an uncorrectable word of the staging unit (R76)
    else if q.struck then .next (s.updMx core fun q => { q with status := some stENGFAULT })
    else if (((s.mxStaged core q).core core).mxe.queue.map (·.struck)).headD false then .next (s.mxStaged core q)
    else
      let s := s.mxStaged core q
      let w := mxWho core q.region
      match (wholeUnit (mxUnit core q q.done)).outcome s with
      | (.ok _, t) =>
        let t := t.charge (basinOf core) q.region 2 1
        .next (t.updMx core fun q =>
          let q := { q with done := q.done + 1 }
          if q.total ≤ q.done then { q with status := some (if q.ue then stUE else stOK) } else q)
      | (.error (.stall _), t) => .next t
      | (.error e, t) =>
        match t.parkEngine w e with
        | some (id, t) => .next (t.updMx core fun q => { q with park := some id })
        | none => .next (t.updMx core fun q => { q with status := some (e.status.getD stENGFAULT) })

/-- MATRIX_COMPLETE (R348). -/
def execMatrixComplete (core : Nat) (s : State) : Host.Outcome State Fault Refusal :=
  match (s.core core).mxe.queue with
  | [] => .next s
  | q :: _ =>
    match q.status with
    | some st => .next (s.mxComplete core q st)
    | none => .next s

/-- Give an unheld engine to a workgroup in its initial state (R344). -/
def State.mxClaim (s : State) (core w : Nat) : State :=
  let s := s.updMxe core fun e => { Mxe.reset with holder := some w, waiters := e.waiters.erase w }
  { s with groups := s.groups.map fun p => if p.2.wg == w then (p.1, { p.2 with stopped := none, stoppedStatus := 0 }) else p }

/-- ENGINE_CLAIM (R344). -/
def execEngineClaim (core : Nat) (s : State) : Host.Outcome State Fault Refusal :=
  let e := (s.core core).mxe
  match e.holder, e.waiters with
  | none, w :: _ => .next (s.mxClaim core w)
  | _, _ => .next s

/-- The claim an instruction of majors 0x68 to 0x6F makes (R344). -/
def claimEngine (x : Iss) : M Unit := do
  let g ← groupM x
  let s ← getS
  let e := (s.core g.core).mxe
  if e.holder != some g.wg then
    if e.holder.isNone && (e.waiters.headD g.wg == g.wg) then modS fun s => s.mxClaim g.core g.wg
    else do
      modS fun s => s.updMxe g.core fun e => { e with waiters := if e.waiters.contains g.wg then e.waiters else e.waiters ++ [g.wg] }
      wait .engq

/-- Queue a matrix command (R346): the number it takes. -/
def queueMatrix (x : Iss) (lanes : List Nat) (c : BitVec 7) (mk : Group → M MxCmd) : M LaneEnd := do
  claimEngine x
  commandFence x (issueScope x 1)
  let g ← groupM x
  let s ← getS
  if 16 ≤ (s.core g.core).mxe.queue.length then wait .engq
  let q ← mk g
  M.whenB (q.isStream && !q.resumed) (updG x fun g => { g with stopped := none, stoppedStatus := 0 })
  let n ← numberCommand x lanes 0
  modS fun s => s.updMxe g.core fun e => { e with queue := e.queue ++ [{ q with num := n, issued := s.time }] }
  writeNumber x lanes c n
  pure .next

/-- A command with nothing captured yet. -/
def freshMx (x : Iss) (kind : MxKind) (region : Nat) : MxCmd :=
  { num := 0, kind := kind, group := x.gid, region := region, tr := false, rows := 1, base := 0#64, stride := 0, cfg := 0#32,
    scale := none, lanes := 0#32, handles := [], bank := none, done := 0, started := false, park := none, status := none,
    mode := 0, resumed := false, unit := none, staged := [], ue := false, struck := false, issued := 0 }

/-- A command that acts once per issue (R346). -/
def matrixOnce (i : Instr) (c : BitVec 7) (mk : Iss → Nat → M MxCmd) (s : State) : Host.Outcome State Fault Refusal :=
  uniform i (fun x => queueMatrix x x.lanes c fun g => do
    let s ← getS
    mk x (s.regionOf g)) s

def execWload (t : BitVec 1) (d b c : BitVec 7) (s : State) : Host.Outcome State Fault Refusal :=
  matrixOnce (.wload t d b c) c (fun x r => do
    let vs ← readOps x (leader x) [(oIn .sQuad d 4, false), (oIn .sPairZ b 2, true)]
    let ws := vs.getD 0 []
    pure { freshMx x .wload r with
      tr := t == 1#1, base := dword (ws.getD 0 0#32) (ws.getD 1 0#32), stride := (ws.getD 2 0#32).toNat, cfg := ws.getD 3 0#32,
      scale := if b == 120#7 then none else some (BitVec.ofNat 64 (wordsNat (vs.getD 1 []))) }) s

def execWswap (c : BitVec 7) (s : State) : Host.Outcome State Fault Refusal :=
  matrixOnce (.wswap c) c (fun x r => pure (freshMx x .wswap r)) s

def execAclr (c : BitVec 7) (s : State) : Host.Outcome State Fault Refusal :=
  matrixOnce (.aclr c) c (fun x r => pure (freshMx x .aclr r)) s

def execAclrRows (a c : BitVec 7) (s : State) : Host.Outcome State Fault Refusal :=
  matrixOnce (.aclrRows a c) c (fun x r => do
    let vs ← readOps x (leader x) [(oIn .sOne a 1, false)]
    pure { freshMx x .aclr r with tr := true, cfg := (vs.getD 0 []).getD 0 0#32 }) s

/-- MXRES (R357): the stopped command of the group, captured as it stands. -/
def execMxres (c : BitVec 7) (s : State) : Host.Outcome State Fault Refusal :=
  matrixOnce (.mxres c) c (fun x r => do
    let g ← groupM x
    match g.stopped with
    | some q => pure { q with resumed := true, started := false, park := none, status := none, unit := none, ue := false, struck := false }
    | none => pure (freshMx x .bad r)) s

/-- MMA, MMAX and AST (R354, R360): the handles of the active threads, stride and configuration from the uniform pair. -/
def matrixStream (i : Instr) (kind : MxKind) (h : BitVec 3) (v sc c : BitVec 7) (mode : Iss → Group → Nat → Nat) (s : State) :
    Host.Outcome State Fault Refusal :=
  jointly i (fun x => joint x
    (fun lane => readOps x lane [(oIn .vPair v 2, true), (oIn .sPair sc 2, false)])
    (fun oks t =>
      let lanes := oks.map (·.1)
      onceFor x (x.act.filter fun l => !lanes.contains l) (fun run => queueMatrix x run c fun g => do
        let s ← getS
        let ws := ((oks.map (·.2)).headD []).getD 1 []
        let cfg := ws.getD 1 0#32
        let handles : NMap DWord := oks.map fun p => (p.1, BitVec.ofNat 64 (wordsNat (p.2.getD 0 [])))
        pure { freshMx x kind (s.regionOf g) with
          rows := h.toNat + 1, stride := (ws.getD 0 0#32).toNat, cfg := cfg, lanes := maskOfLanes run, handles := handles,
          mode := mode x g cfg.toNat }) lanes t)) s

def execMma (h : BitVec 3) (v sc c : BitVec 7) (s : State) : Host.Outcome State Fault Refusal :=
  matrixStream (.mma h v sc c) .mma h v sc c (fun _ _ _ => 0) s
def execMmax (h : BitVec 3) (v sc c : BitVec 7) (s : State) : Host.Outcome State Fault Refusal :=
  matrixStream (.mmax h v sc c) .mmax h v sc c (fun _ _ _ => 0) s
/-- AST (R360): an XM rounding mode replaces the field, whose 0 is the FPCTL default at issue. -/
def execAst (h : BitVec 3) (v sc c : BitVec 7) (s : State) : Host.Outcome State Fault Refusal :=
  matrixStream (.ast h v sc c) .ast h v sc c (fun x g cfg =>
    if x.rm != 0 then x.rm else if bits cfg 4 3 == 0 then bits g.fpctl.toNat 0 3 else bits cfg 4 3) s

/-- ARD, AWR and MXCFG wait until the earlier commands have completed, stopped or parked: those queued before the thread began to execute
the instruction (R361, R362, R366). -/
def matrixIdle (x : Iss) (lane : Nat) : M Unit := do
  claimEngine x
  let g ← groupM x
  let t ← threadM x lane
  let s ← getS
  match (s.core g.core).mxe.queue with
  | [] => pure ()
  | q :: _ => if q.park.isSome || t.execution x.time ≤ q.issued then pure () else wait .engq

/-- The element an index names (R361): row, column, and the shift of its piece. -/
def pieceAt (i : Instr) (e : Mxe) (ix : Nat) : M (Nat × Nat × Nat) := do
  let n := bits ix 0 8
  let m := bits ix 8 8
  if e.f64 && (128 ≤ m || 128 ≤ n) then illopNow i
  pure (m, n, if e.f64 then 96 * bits ix 16 2 else 0)

def execArd (d i : BitVec 7) (s : State) : Host.Outcome State Fault Refusal :=
  perThread (.ard d i) (fun x lane => do
    matrixIdle x lane
    let vs ← readOps x lane [(oIn .index i 1, false)]
    let g ← groupM x
    let s ← getS
    let e := (s.core g.core).mxe
    let (m, n, sh) ← pieceAt (.ard d i) e (wordsNat (vs.getD 0 []))
    let a := wrap e.width ((e.row m).getD n 0)
    let piece := if e.badEl.contains (m * 256 + n) then List.replicate 3 poisonWord else (natWords 3 (a / 2 ^ sh)).map regWord
    writeDst x lane (oOut .vQuad d 4) (piece ++ [regWord (BitVec.ofNat 32 (e.rowFlags m))])
    pure .next) s

def execAwr (d i : BitVec 7) (s : State) : Host.Outcome State Fault Refusal :=
  perThread (.awr d i) (fun x lane => do
    matrixIdle x lane
    let vs ← readOps x lane [(oIn .vQuad d 4, false), (oIn .index i 1, false)]
    let g ← groupM x
    let s ← getS
    let e := (s.core g.core).mxe
    let (m, n, sh) ← pieceAt (.awr d i) e (wordsNat (vs.getD 1 []))
    let ws := vs.getD 0 []
    let a := wrap e.width ((e.row m).getD n 0)
    let v := sext e.width (setBits a sh 96 (wordsNat (ws.take 3)))
    let key := m * 256 + n
    modS fun s => s.updMxe g.core fun e =>
      let e := (e.setRow m ((e.row m).set n v)).setFlags m ((ws.getD 3 0#32).toNat % 8)
      { e with bound := e.bound.filter (· != key), badEl := e.badEl.filter (· != key) }
    pure .next) s

/-- The default anchors (R259). -/
def defaultAnchor (w a : Nat) : Nat :=
  match mxFamily w with
  | some 0 => 54 - (if w == 1 then 7 else 0) - (if a == 1 then 7 else 0)
  | some 1 => 72
  | some 2 => 24
  | _ => 0

/-- Whether MXCFG refuses its word (R362). -/
def mxcfgBad (w : Nat) : Bool :=
  if bit w 31 then w != 2 ^ 31
  else
    bits w 24 5 != 0 || bits w 10 6 != 0
      || (if bit w 29 then bits w 0 10 != 0 || !mxPair (bits w 20 4) (bits w 16 4) (bit w 30)
          else bits w 16 8 != 0)

/-- MXCFG (R362).  A release completes commands still parked ABORTED. -/
def execMxcfg (a : BitVec 7) (s : State) : Host.Outcome State Fault Refusal :=
  uniform (.mxcfg a) (fun x => do
    let vs ← readOps x (leader x) [(oIn .sOne a 1, false)]
    let w := wordsNat (vs.getD 0 [])
    matrixIdle x (leader x)
    if mxcfgBad w then illopNow (.mxcfg a)
    let g ← groupM x
    updG x fun g => { g with stopped := none, stoppedStatus := 0 }
    modS fun s =>
      if bit w 31 then ((s.core g.core).mxe.queue.foldl (fun s q => s.mxDone g.core q stABORTED) s).mxRelease g.core
      else s.updMxe g.core fun e => { e with
        f64 := bit w 30
        anchor := BitVec.ofNat 10 (if bit w 29 then defaultAnchor (bits w 20 4) (bits w 16 4) else bits w 0 10)
        store := [], rows := [], bound := [], badEl := [] }
    pure .next) s

/-- The words of MXSTAT (R363). -/
def mxstatWord (s : State) (g : Group) (sel : Nat) : Nat :=
  let e := (s.core g.core).mxe
  if e.holder != some g.wg then 0
  else match sel with
    | 0 => e.queue.length * 2 ^ 27 + 2 ^ 26 + (if g.stopped.isSome then 2 ^ 25 else 0) + (if e.f64 then 2 ^ 24 else 0)
        + (if e.front then 2 ^ 23 else 0) + e.bank1.state * 2 ^ 21 + e.bank0.state * 2 ^ 19 + e.anchor.toNat
    | 1 => e.errStat * 2 ^ 28 + e.errCmd
    | _ => e.drain.toNat

def execMxstat (sel d : BitVec 7) (s : State) : Host.Outcome State Fault Refusal :=
  uniform (.mxstat sel d) (fun x => do
    let g ← groupM x
    let s ← getS
    writeVals x (leader x) (oOut .sOne d 1) [BitVec.ofNat 32 (mxstatWord s g sel.toNat)]
    M.whenB (sel == 3#7 && (s.core g.core).mxe.holder == some g.wg)
      (modS fun s => s.updMxe g.core fun e => { e with drain := 0#5, errStat := 0, errCmd := 0 })
    pure .next) s

/-- MXPROG (R356): the stopped command of a group, else its oldest incomplete stream. -/
def State.mxprog (s : State) (gid : Nat) : Nat :=
  match s.group? gid with
  | none => 0
  | some g =>
    let kind (q : MxCmd) : Nat := match q.kind with
      | .mma => 1
      | .mmax => 2
      | _ => 3
    match g.stopped with
    | some q => 2 ^ 31 + kind q * 2 ^ 28 + g.stoppedStatus * 2 ^ 24 + q.done
    | none =>
      match (s.core g.core).mxe.queue.find? fun q => q.group == gid && q.isStream with
      | some q => kind q * 2 ^ 28 + q.done
      | none => 0

/-- A write of MXPROG (R356). -/
def State.setMxprog (s : State) (gid v : Nat) : State :=
  s.updGroup gid fun g => { g with stopped := g.stopped.map fun q => { q with done := bits v 0 9 } }

end Sys2Proof.Machine
end

