-- ==== Sys2Proof/Machine/Pool.lean ====
section
/-! DEFINITION. The bank pool of a core: slab space and windows (R61, R62), charges and budgets (R51), ROLE's checks and
admission (R52 to R55), handshakes and clears (R56, R57, R65), pool initialisation (R50), scrubbing (R77), occupancy (R60). -/
namespace Sys2Proof.Machine

def State.bank (s : State) (c b : Nat) : Bank := (s.core c).banks.get .reset b
def State.updBank (s : State) (c b : Nat) (f : Bank → Bank) : State :=
  s.updCore c fun k => { k with banks := k.banks.set b (f (k.banks.get .reset b)) }

/-- The slabs of a REG bank: a terrace bank has only its lowest 15 (R62). -/
def bankSlabs (b : Nat) : List Nat := rangeFrom (32 * b) (if b < 80 && b % 10 == 0 then 15 else 32)

/-- The slab space of glen g (R61), the banks that `out` names left out. -/
def State.slabSpace (s : State) (c g : Nat) (out : Nat → Bool := fun _ => false) : List Nat :=
  ((rangeFrom (10 * g) 10).map fun b => if (s.bank c b).role == .reg && !out b then bankSlabs b else []).flatten

/-- Groups with a slot and a window on a core. -/
def State.liveOn (s : State) (c : Nat) : List (Nat × Group) :=
  s.groups.filter fun p => p.2.core == c && !p.2.exited
    && ((s.wgs.look p.2.wg).map fun w => w.saved == .resident).getD false

/-- Workgroups resident on a core. -/
def State.wgsOn (s : State) (c : Nat) : List (Nat × Workgroup) :=
  s.wgs.filter fun p => p.2.core == c && p.2.saved == .resident && !p.2.exited

/-- Slabs that a resident window holds or a move has reserved (R55). -/
def State.slabsUsed (s : State) (c : Nat) : List Nat :=
  ((s.liveOn c).map (·.2.slabs)).flatten ++ ((s.core c).moves.map (·.dest)).flatten

/-- The runs of n consecutive free slabs of a space, lowest first. -/
def freeRuns (used : List Nat) (n : Nat) : List Nat → List (List Nat)
  | [] => []
  | x :: xs =>
    let r := (x :: xs).take n
    if r.length == n && r.all (fun y => !used.contains y) then r :: freeRuns used n xs else freeRuns used n xs

/-- The longest run of free slabs. -/
def longestRun (used : List Nat) (l : List Nat) : Nat :=
  (l.foldl (fun (a : Nat × Nat) x => if used.contains x then (0, a.2) else (a.1 + 1, max a.2 (a.1 + 1))) (0, 0)).2

/-- A place for each of several windows, each contiguous, none overlapping (R54): the first in order of lowest slabs. -/
def placeAll (space : List Nat) : List Nat → List Nat → Option (List (List Nat))
  | [], _ => some []
  | n :: ns, used => (freeRuns used n space).findSome? fun r => (placeAll space ns (r ++ used)).map (r :: ·)

/-- A region's charge for a role on a core (R51). -/
def State.bankCharge (s : State) (c region : Nat) (role : Role) : Nat :=
  ((s.core c).banks.filter fun p => p.2.region == region
    && (p.2.role == role || (p.2.role == .trn && p.2.incoming == role))).length

def roleOfCode (n : Nat) : Role := match n with
  | 1 => .reg
  | 2 => .scr
  | 3 => .cch
  | 4 => .mxs
  | _ => .off

/-- Whether R49 permits a role for a bank. -/
def rolePermitted (b : Nat) (r : Role) : Bool :=
  if b < 80 then (if b % 10 == 0 then r == .reg else r != .mxs) else r != .reg

/-- The banks of a request word (R52). -/
def roleRange (w : Nat) : List Nat := rangeFrom (bits w 0 7) (bits w 12 5)

/-- R54, PLACE. -/
def State.rolePlace (s : State) (c region : Nat) (sup : Bool) (w : Nat) : Bool :=
  let bs := roleRange w
  let t := bits w 17 3
  bits w 20 12 != 0 || bits w 7 5 != 0 || 5 ≤ t || bs.length == 0 || 16 < bs.length || bs.any (fun b => 96 ≤ b)
    || bs.any (fun b => (if b < 80 then b / 10 else 8) != (if bits w 0 7 < 80 then bits w 0 7 / 10 else 8))
    || bs.any (fun b => !rolePermitted b (roleOfCode t))
    || (!sup && bs.any fun b =>
        let r := (s.bank c b).region
        r != 0 && !(s.chain 17 r).contains region)

/-- R54, BUSY, a compaction of the glen among what is (R202). -/
def State.roleBusy (s : State) (c w : Nat) : Bool :=
  let bs := roleRange w
  bs.any (fun b => (s.bank c b).role == .trn) || 8 ≤ (s.core c).reqs.length
    || (bits w 0 7 < 80 && (((s.core c).sliding.look (bits w 0 7 / 10)).isSome || (s.core c).moves.any fun m =>
        ((s.group? m.group).map fun g => g.pipe / 16 == bits w 0 7 / 10).getD false))

/-- R54, BUDGET. -/
def State.roleBudget (s : State) (c region : Nat) (w : Nat) : Bool :=
  let t := roleOfCode (bits w 17 3)
  match s.bankBudget region t with
  | none => false
  | some q =>
    let more := (roleRange w).filter fun b =>
      let x := s.bank c b
      !(x.region == region && (x.role == t || (x.role == .trn && x.incoming == t)))
    t != .off && q < s.bankCharge c region t + more.length

/-- The segments of workgroups that a span of scratchpad bytes meets. -/
def spanSegs (p : Span) : List (Nat × Nat) :=
  match p.space with
  | some w => if p.len == 0 then [] else (rangeFrom (p.lo / 4096) ((p.lo + p.len - 1) / 4096 + 1 - p.lo / 4096)).map (w, ·)
  | none => []

/-- The segments a copy command may access (R54). -/
def State.copySegs (s : State) (w : Nat) (q : CopyCmd) : List (Nat × Nat) :=
  let note (l : Slice) : List Span :=
    let n := if l.nkind == 1 then 4 else if l.nkind == 2 then 16 else 0
    if !l.nsp then []
    else if q.kind == 1 then l.targets.map fun r => s.span w true (rankAddr r (l.pair 6)) n
    else [s.span w true (l.note (2 ≤ q.kind)) n]
  let data := if q.kind ≤ 1 then s.copySources w q ++ s.copyDests w q
    else (q.slices.map fun l =>
      [s.span w true (l.word 2) (4 * l.word 4), s.span w true (l.word 3) (l.word 4 * l.rowB)]).flatten
  ((data ++ ((q.slices.filter q.leads).map note).flatten).map spanSegs).flatten

/-- The segments a stream may access: every word of one with SP = 1 (R54). -/
def State.streamSegs (s : State) (w : Nat) (d : List DWord) : List (Nat × Nat) :=
  if !streamSp d then []
  else (List.range (streamTotal d)).foldl (fun l n =>
    let a := wrap 32 ((d.getD 0 0#64).toNat + streamOffset d n)
    match s.scrTarget w a with
    | some t => let p := (t, a % 2 ^ 24 / 4096)
                if l.contains p then l else p :: l
    | none => l) []

/-- The segments that commands not yet complete may access. -/
def State.commandSegs (s : State) : List (Nat × Nat) :=
  (s.wgs.map fun p => (p.2.copies.map fun q => s.copySegs p.1 q).flatten).flatten
    ++ (s.groups.map fun p => (p.2.queues.map fun q => match q.2.stream with
        | some t => s.streamSegs p.2.wg t.desc
        | none => []).flatten).flatten

/-- Workgroup segments that lie in a bank of a core: workgroup, segment, physical segment. -/
def State.segsIn (s : State) (c b : Nat) : List (Nat × Nat × Nat) :=
  ((s.wgsOn c).map fun p => (p.2.segMap.filter fun q => q.2 / 32 == b).map fun q => (p.1, q.1, q.2)).flatten

/-- Outgoing banks of a request in a role. -/
def State.roleOut (s : State) (c w : Nat) (r : Role) : List Nat :=
  (roleRange w).filter fun b => (s.bank c b).role == r && r != roleOfCode (bits w 17 3)

/-- R54, INFLIGHT: a stream that has moved no word and whose queue holds none has not started (log entry 77). -/
def State.roleInflight (s : State) (c w : Nat) : Bool :=
  let held := ((s.roleOut c w .scr).map (s.segsIn c)).flatten
  let busy := if held.isEmpty then [] else s.commandSegs
  held.any (fun q => busy.contains (q.1, q.2.1) || (((s.wgs.look q.1).map fun v => (v.dirOf q.2.1).moving.isSome).getD false))
    || (s.roleOut c w .mxs).any fun b => (s.groups.filter fun p => p.2.core == c).any fun p =>
        p.2.queues.any fun q => q.2.unit == some b && ((q.2.stream.map fun t => t.moved == 0 && q.2.words.isEmpty).getD false)

/-- What must leave outgoing SCR banks: segments, and places reserved for moves still to come, in ascending place. -/
def State.segsLeaving (s : State) (c w : Nat) : List (Nat × Nat × Nat) :=
  let out := s.roleOut c w .scr
  let rec ins (x : Nat × Nat × Nat) : List (Nat × Nat × Nat) → List (Nat × Nat × Nat)
    | [] => [x]
    | y :: ys => if x.2.2 < y.2.2 then x :: y :: ys else y :: ins x ys
  ((out.map (s.segsIn c)).flatten ++ ((s.core c).segMoves.filter fun m => out.contains (m.dest / 32)).map
    fun m => (m.wg, m.seg, m.dest)).foldl (fun l x => ins x l) []

/-- Free segments of SCR banks outside the range. -/
def State.segsLeft (s : State) (c w : Nat) : List Nat := s.lessCopies c ((s.unheldSegs c).filter fun p => !(roleRange w).contains (p / 32))

/-- Windows lying wholly or partly in outgoing REG banks, in ascending order of old slab (R56). -/
def State.windowsLeaving (s : State) (c w : Nat) : List (Nat × Group) :=
  let out := s.roleOut c w .reg
  let rec ins (x : Nat × Group) : List (Nat × Group) → List (Nat × Group)
    | [] => [x]
    | y :: ys => if x.2.slabs.headD 0 < y.2.slabs.headD 0 then x :: y :: ys else y :: ins x ys
  ((s.liveOn c).filter fun p => p.2.slabs.any fun x => out.contains (x / 32)).foldl (fun l x => ins x l) []

/-- The places of those windows in what remains of the glen, if they have any. -/
def State.windowPlaces (s : State) (c w : Nat) : Option (List (List Nat)) :=
  let out := s.roleOut c w .reg
  placeAll (s.slabSpace c (bits w 0 7 / 10) out.contains) ((s.windowsLeaving c w).map (·.2.slabs.length)) (s.slabsUsed c)

/-- R54: the refusal code, 0 when admitted. -/
def State.roleCheck (s : State) (c region : Nat) (sup : Bool) (w : Nat) : Nat :=
  if s.rolePlace c region sup w then 4
  else if s.roleBusy c w then 5
  else if !sup && s.roleBudget c region w then 3
  else if s.roleInflight c w then 6
  else if (s.segsLeft c w).length < (s.segsLeaving c w).length then 1
  else if (s.windowPlaces c w).isNone then 2
  else 0

/-- Complete the requests at the head that have no bank left in transition (R55, R57). -/
def State.poolSettle (s : State) (c : Nat) : Nat → State
  | 0 => s
  | fuel + 1 =>
    match (s.core c).reqs with
    | q :: qs =>
      if q.banks.isEmpty then
        (s.updCore c fun k => { k with reqs := qs, pool := k.pool.complete q.n stOK 0 0 s.time }).poolSettle c fuel
      else s
    | [] => s

/-- Admission (R55): banks to TRN, slabs and segments reserved, charges moved: the number of changed banks and the completion
value. -/
def State.roleAdmit (s : State) (c region w : Nat) : Nat × Nat × State :=
  let t := roleOfCode (bits w 17 3)
  let changed := (roleRange w).filter fun b => (s.bank c b).role != t
  let wins := (s.windowsLeaving c w).map (·.1)
  let dests := (s.windowPlaces c w).getD []
  let segs := (s.segsLeaving c w).zip (s.segsLeft c w)
  let (n, pool) := (s.core c).pool.issue
  let s := s.updCore c fun k =>
    -- a place reserved in an outgoing bank is given up for one outside it
    let kept := k.segMoves.filter fun m => !segs.any fun q => q.1.1 == m.wg && q.1.2.1 == m.seg
    { k with
      pool := pool
      moves := k.moves ++ (wins.zip dests).map fun q => { group := q.1, dest := q.2, req := some n }
      segMoves := kept ++ segs.map fun q => { wg := q.1.1, seg := q.1.2.1, dest := q.2 }
      reqs := if changed.isEmpty then k.reqs else k.reqs ++ [{ n := n, region := region, banks := changed }] }
  let s := changed.foldl (fun s b => s.updBank c b fun x =>
    { role := .trn, region := if t == .off then 0 else region, outgoing := x.role, incoming := t, drained := false }) s
  let s := if changed.isEmpty then s.updCore c fun k => { k with pool := k.pool.complete n stOK 0 0 s.time } else s
  (changed.length, n, s)

/-- Whether a bank in transition has moved all it held (R56). -/
def State.bankDrained (s : State) (c b : Nat) : Bool :=
  let x := s.bank c b
  match x.outgoing with
  | .off => x.drained
  | .reg => !(s.liveOn c).any fun p => p.2.slabs.any fun y => y / 32 == b
  | .scr => (s.segsIn c b).isEmpty
  | .cch => x.drained && !(s.core c).cch.any fun p => p.2.bank == b
  | .mxs => s.unitsUsed c b == 0
  | .trn => true

/-- PINIT_START (R50): START counts while DONE is 0. -/
def execPinitStart (core : Nat) (s : State) : Host.Outcome State Fault Refusal :=
  .next (s.updCore core fun k => if k.ready then k else { k with busy := true })

/-- The default layout (R50). -/
def defaultRole (b : Nat) : Role :=
  if b < 80 then (if b % 10 ≤ 6 then .reg else .scr) else if b ≤ 87 then .mxs else if b ≤ 91 then .scr else .cch

/-- POOL_INIT_DONE (R50). -/
def execPoolInitDone (core : Nat) (s : State) : Host.Outcome State Fault Refusal :=
  .next (s.updCore core fun k =>
    if k.busy then
      { k with busy := false, ready := true, moveCount := 0, ceCount := 0,
               banks := (List.range 96).map fun b =>
                 (b, { role := defaultRole b, region := 0, outgoing := .off, incoming := .off, drained := false }) }
    else k)

/-- BANK_WAKE (R78). -/
def execBankWake (core bank : Nat) (s : State) : Host.Outcome State Fault Refusal :=
  let x := s.bank core bank
  .next (if x.role == .trn && x.outgoing == .off then s.updBank core bank fun x => { x with drained := true } else s)

/-- BANK_CLEAR (R57): a drained bank shows its new role; its request completes with its last bank. -/
def execBankClear (core bank : Nat) (s : State) : Host.Outcome State Fault Refusal :=
  let x := s.bank core bank
  .next (if x.role == .trn && s.bankDrained core bank then
      (((s.softClear core (32768 * bank) 32768).updBank core bank fun x => { role := x.incoming, region := x.region, outgoing := .off, incoming := .off, drained := false }).updCore
        core fun k => { k with reqs := k.reqs.map fun q => { q with banks := q.banks.erase bank } }).poolSettle core 9
    else s)

/-- Whether a move of a window can be made now: its group is at a switch point (R65). -/
def State.movable (s : State) (m : Move) : Bool :=
  match s.group? m.group with
  | some g => g.paused || g.atSwitch
  | none => true

/-- The glen whose window a move moves, if its group is still there. -/
def State.moveGlen (s : State) (m : Move) : Option Nat := (s.group? m.group).map fun g => g.pipe / 16

/-- The moves that may go on now (R56): in each glen the first, in ascending order of old slabs within a request. -/
def State.nextMoves (s : State) (c : Nat) : List Move :=
  (((s.core c).moves.zipIdx).filter fun p =>
    (s.moveGlen p.1).isNone || !((s.core c).moves.take p.2).any fun m => s.moveGlen m == s.moveGlen p.1).map (·.1)

/-- WINDOW_MOVE (R65): the group is paused at its switch point, then its window is copied and the group resumed; a move whose
group has gone is dropped. -/
def execWindowMove (core : Nat) (s : State) : Host.Outcome State Fault Refusal :=
  match (s.nextMoves core).find? s.movable with
  | none => .next s
  | some m =>
    let drop (s : State) : State := s.updCore core fun k => { k with moves := k.moves.erase m }
    if !(s.liveOn core).any fun p => p.1 == m.group then .next (drop s)
    else if !(((s.group? m.group).map (·.paused)).getD false) then
      .next (s.updGroup m.group fun g =>
        { g with paused := true, threads := g.threads.map fun (p : Nat × Thread) => (p.1, { p.2 with latches := [] }) })
    else
      let s := drop (s.updGroup m.group fun g => { g with slabs := m.dest, paused := false, moves := g.moves + 1 })
      let glen := ((s.group? m.group).map fun g => g.pipe / 16).getD 8
      .next (s.updCore core fun k => { k with moveCount := min 0xFFFF (k.moveCount + 1), compact := k.compact.erase glen })

/-- SEGMENT_MOVE (R56): the next segment is copied with its bits and the map redirected. -/
def execSegmentMove (core : Nat) (s : State) : Host.Outcome State Fault Refusal :=
  match (s.core core).segMoves with
  | [] => .next s
  | m :: ms =>
    let s := s.updCore core fun k => { k with segMoves := ms }
    let here : Bool := ((s.wgs.look m.wg).map fun w => w.core == core && w.saved == .resident && (w.segMap.look m.seg).isSome).getD false
    .next (if here then
        ((s.scrRead { wg := m.wg, addr := 4096 * m.seg } 4096).softClear core (1024 * m.dest) 1024).updWg m.wg fun w =>
          { w with segMap := w.segMap.set m.seg m.dest }
      else s)

/-- CCH_BANK_DRAIN (R56). -/
def execCchBankDrain (core bank : Nat) (s : State) : Host.Outcome State Fault Refusal :=
  let x := s.bank core bank
  .next (if x.role == .trn && x.outgoing == .cch then
      (((s.core core).cch.filter fun p => p.2.bank == bank).foldl (fun s p => s.evict core p.1) s).updBank core bank
        fun x => { x with drained := true }
    else s)

/-- Word `word` of a powered SCR, CCH or MXS bank is uncorrectable and takes the poison syndrome, where the model holds it (R76, R77). -/
def State.poisonBankWord (s : State) (c b word : Nat) : State :=
  match (s.bank c b).role with
  | .scr => match (s.segsIn c b).find? fun q => q.2.2 == 32 * b + word / 1024 with
    | some q => s.updWg q.1 fun w => { w with poisonW := insertNat w.poisonW (q.2.1 * 1024 + word % 1024) }
    | none => s
  | .cch => match (s.core c).cch.find? fun p => p.2.bank == b && p.2.way == word / 32 with
    | some (l, _) => s.updCore c fun k => { k with cch := k.cch.upd l fun x =>
        { x with badW := x.badW ||| BitVec.ofNat 32 (2 ^ (word % 32)) } }
    | none => s
  | .mxs =>
    let units := s.stagedQueues c b
    match units[word / 2048]? with
    | some (gid, q) => s.updQueue gid q fun k =>
        if k.stream.isSome then { k with struck := true }
        else { k with words := (k.words.zipIdx).map fun (w : QWord × Nat) => if k.place w.2 == word % 2048 then { w.1 with poison := true } else w.1 }
    | none => s.updCore c fun k =>
        let mine := k.mxe.queue.filter fun q => q.started && q.unit == some b
        match mine[word / 2048 - units.length]? with
        | some m => { k with mxe := { k.mxe with queue := k.mxe.queue.map fun (q : MxCmd) => if q.num == m.num then { q with struck := true } else q } }
        | none => k
  | _ => s

/-- PATROL_SCRUB (R77): a word with a single-bit error is corrected in place and counted (R60), an uncorrectable one takes the poison
syndrome. -/
def State.scrub (s : State) (core bank word : Nat) : State :=
  let r := (s.bank core bank).role
  if r == .scr || r == .cch || r == .mxs then
    let key := 32768 * bank + word
    match (s.core core).soft.look key with
    | none => s
    | some 1 => s.updCore core fun k => { k with soft := k.soft.del key, ceCount := min (2 ^ 32 - 1) (k.ceCount + 1) }
    | some _ => (s.updCore core fun k => { k with soft := k.soft.del key }).poisonBankWord core bank word
  else s

def execPatrolScrub (core bank word : Nat) (s : State) : Host.Outcome State Fault Refusal := .next (s.scrub core bank word)

/-- The scrubber's round (R77): every 3,051 ns it visits the next word of every bank, all 32,768 within 100 ms. -/
def State.scrubRound (s : State) : State :=
  if s.time % 3051 != 0 then s
  else
    let word := s.time / 3051 % 32768
    s.cores.keys.foldl (fun s c => (((s.core c).soft.keys.filter fun k => k % 32768 == word)).foldl (fun s k => s.scrub c (k / 32768) word) s) s

/-- Flip bit i of a word of a map, its check bits left as they are. -/
def flipWord (m : NMap RegWord) (k i : Nat) : NMap RegWord := m.upd k fun w => { w with val := w.val ^^^ BitVec.ofNat 32 (2 ^ (i % 32)) }

/-- A soft error strikes group state (R66, R73): a bit of a vector or uniform register, a parity bit of a mask, a latch or a queue entry,
or the next result of a lane. -/
def Group.struckBy (g : Group) (kind n : Nat) : Group :=
  let lane := n % 32
  let i := n / 32
  match kind with
  | 2 => { g with regs := flipWord g.regs (n / 32) lane }
  | 3 => { g with sregs := flipWord g.sregs (i % 64) lane }
  | 4 => { g with maskPar := g.maskPar.set (i % 12) (BitVec.ofNat 4 (2 ^ (lane % 4))) }
  | 5 => { g with threads := g.threads.upd lane fun t =>
      { t with latches := t.latches.map fun y => { y with par := y.par ^^^ BitVec.ofNat 8 (2 ^ (i % 8)) } } }
  | 6 => { g with queues := g.queues.upd (lane % 4) fun q =>
      { q with words := (q.words.zipIdx).map fun p => if p.2 == i then { p.1 with par := p.1.par ^^^ BitVec.ofNat 4 (2 ^ (lane / 8)) } else p.1 } }
  | _ => { g with upset := g.upset.set (i % 33) (BitVec.ofNat 32 (2 ^ lane)) }

/-- An uncorrectable word of the accumulator store poisons its element (R358). -/
def Mxe.strike (e : Mxe) (n : Nat) : Mxe :=
  let m := if e.f64 then 128 else 256
  let key := n / m % m * 256 + n % m
  if e.badEl.contains key then e else { e with badEl := key :: e.badEl }

/-- Soft errors (R66, R73, R76, R358): once in each ms a core may be struck once, where and how being free: a word of a bank by one bit
or by more, a group on the core, or an element of its accumulator store. -/
def State.strike (s : State) (c : Nat) : State :=
  let (k, s) := s.takeFree
  let n := Config.strikes k
  match n % 10 with
  | 9 => s
  | 8 => s.updCore c fun k => { k with mxe := k.mxe.strike (n / 10) }
  | kind =>
    if kind ≤ 1 then
      let key := n / 10 % (96 * 32768)
      match (s.bank c (key / 32768)).role with
      | .scr | .cch => s.updCore c fun k => { k with soft := k.soft.set key (max (1 + kind) (k.soft.get 0 key)) }
      | .mxs => if kind == 0 then s.updCore c fun k => { k with soft := k.soft.set key 1 } else s.poisonBankWord c (key / 32768) (key % 32768)
      | _ => s
    else match (s.liveOn c)[n / 10 % 512]? with
      | some (gid, _) => s.updGroup gid fun g => g.struckBy kind (n / 10 / 512)
      | none => s

/-- The strikes and scrubber visits that a time brings. -/
def State.softErrors (s : State) : State :=
  (if s.time % 1000000 == 0 then s.cores.keys.foldl State.strike s else s).scrubRound

/-- Whether work may start (R158). -/
def State.startsOn (s : State) : Bool := bit (s.reg 0 .rgndir) 63

/-- The record at the head of a core's bucket (R178, R180). -/
def State.bucketHead (s : State) (c : Nat) : Option Record := s.steppe.find? fun r => r.home == c && r.runnable

/-- The task at the head of a core's bucket, as a unit of the core's list (R180, R201). -/
def State.taskWait (s : State) (c : Nat) : Option Waiting :=
  ((s.bucketHead c).filter fun r => bit (s.reg 0 .steppecfg) 63 && s.startsOn && s.regionUsable r.region).map fun r =>
    { grid := 0, first := 0, size := 1, restore := r.saved, basin := basinOf c, core := some c, since := r.since, woken := [], task := true }

/-- Whether a member of a saved workgroup's cluster bars it from a core (R207). -/
def State.barred (s : State) (c w : Nat) : Bool :=
  match s.wgs.look w with
  | some x => !x.task && s.wgs.any fun p => p.1 != w && p.2.launch == x.launch && !p.2.task && p.2.cluster == x.cluster
      && p.2.core == c && p.2.saved == .resident && !p.2.exited
  | none => false

/-- Workgroups waiting for placement for which a core is eligible (R60, R201), the task at the head of its bucket among them. -/
def State.fitWait (s : State) (c : Nat) : Nat :=
  let mine (w : Waiting) : Bool := match w.core with
    | some k => k == c
    | none => !(w.restore.map (s.barred c)).getD false
  ((s.basin (basinOf c)).waits.filter mine ++ (s.taskWait c).toList).foldl (fun n w => n + w.size) 0

/-- The occupancy words (R60). -/
def State.pstat (s : State) (c region sel : Nat) : Nat :=
  let k := s.core c
  let n (r : Role) : Nat := (k.banks.filter fun p => p.2.role == r).length
  let quad (f : Role → Nat) : Nat := f .mxs * 2 ^ 24 + f .cch * 2 ^ 16 + f .scr * 2 ^ 8 + f .reg
  if sel == 0 then quad n
  else if sel == 1 then k.reqs.length * 2 ^ 16 + n .trn * 2 ^ 8 + (96 - n .reg - n .scr - n .cch - n .mxs - n .trn)
  else if sel ≤ 9 then
    let g := sel - 2
    let space := s.slabSpace c g
    let used := s.slabsUsed c
    let free := (space.filter fun x => !used.contains x).length
    ((s.liveOn c).filter fun p => p.2.pipe / 16 == g).length * 2 ^ 25 + longestRun used space * 2 ^ 16
      + ((rangeFrom (10 * g) 10).filter fun b => (s.bank c b).role == .reg).length * 2 ^ 12 + free
  else if sel == 10 then (((s.wgsOn c).map fun p => p.2.segMap.length).foldl (· + ·) 0) * 2 ^ 16 + (s.freeSegs c).length
  else if sel == 11 then k.moveCount * 2 ^ 16 + s.fitWait c % 2 ^ 16
  else if sel == 12 then quad (s.bankCharge c region)
  else if sel == 13 then quad fun r => (s.bankBudget region r).getD 0xFF
  else if sel == 14 then
    ((s.liveOn c).filter fun p => s.regionOf p.2 == region).foldl (fun n p => n + p.2.count * 128) 0
  else if sel == 15 then ((s.wgsOn c).filter fun p => p.2.region == region).foldl (fun n p => n + p.2.segs * 4096) 0
  else if sel == 16 then ((k.cch.filter fun p => p.2.region == region && p.2.state != .inv).length) * 128
  else if sel == 17 then
    ((k.mxe.queue.filter fun q => q.region == region && q.started && q.unit.isSome).length
      + ((s.groups.filter fun p => p.2.core == c && !p.2.exited).foldl (fun n p => n + (p.2.queues.filter fun q =>
          q.2.unit.isSome && ((q.2.stream.map fun t => t.region == region).getD false)).length) 0)) * 8192
  else if sel == 18 then k.ceCount
  else 0

end Sys2Proof.Machine
end

