-- ==== Sys2Proof/Machine/Place.lean ====
section
/-! DEFINITION. Placing a workgroup on a core and its groups' state at start (R67, R167, R195 to R202), saving a workgroup and
restoring it (R157, R206, R345, R365, R377, R410). -/
namespace Sys2Proof.Machine

/-- A place for a group: pipe of the core, slot, slabs, and the OFF bank to wake for it, if any. -/
structure Seat where
  pipe  : Nat
  slot  : Nat
  slabs : List Nat
  wake  : Option Nat
  deriving DecidableEq, Repr

/-- Slabs of a window (R61). -/
def slabsFor (count : Nat) : Nat := ceilDiv (count * 128) 4096

/-- The lowest pipe of a glen with the fewest groups that has a free slot, and that slot (R198). -/
def seatIn (taken : List (Nat × Nat)) (g : Nat) : Option (Nat × Nat) :=
  let load (p : Nat) : Nat := (taken.filter fun t => t.1 == p).length
  let best := (rangeFrom (16 * g) 16).foldl (fun (b : Option Nat) p =>
    match b with
    | none => if load p < 4 then some p else none
    | some q => if load p < load q then some p else some q) none
  best.bind fun p => ((List.range 4).find? fun s => !taken.contains (p, s)).map (p, ·)

/-- The first glen from the pointer on that `f` finds a seat in. -/
def firstGlen (ptr : Nat) (f : Nat → Option Seat) : Option (Nat × Seat) :=
  (List.range 8).findSome? fun i => (f ((ptr + i) % 8)).map ((ptr + i) % 8, ·)

/-- Seats for the groups of a workgroup in ascending gix (R197, R198), and the glen pointer left: `off` gives the OFF banks of a
glen that may still be woken into REG. -/
def fitGroups (space : Nat → List Nat) (off : Nat → List Nat) (n : Nat) :
    Nat → Nat → List Nat → List (Nat × Nat) → List Nat → Option (List Seat × Nat)
  | 0, ptr, _, _, _ => some ([], ptr)
  | k + 1, ptr, used, taken, woken =>
    -- the first run in the glen's slab space with banks `w` woken (R61)
    let run (g : Nat) (w : List Nat) : Option (List Nat) :=
      (freeRuns used n ((rangeFrom (10 * g) 10).map fun b =>
        if w.contains b then bankSlabs b else (space g).filter fun x => x / 32 == b).flatten).head?
    let free (g : Nat) : Option Seat := do
      let (p, sl) ← seatIn taken g
      let r ← run g woken
      pure { pipe := p, slot := sl, slabs := r, wake := none }
    let wakes (g : Nat) : Option Seat := do
      let (p, sl) ← seatIn taken g
      let b ← (off g).find? fun b => !woken.contains b
      let r ← run g (b :: woken)
      pure { pipe := p, slot := sl, slabs := r, wake := some b }
    match (firstGlen ptr free).orElse fun _ => firstGlen ptr wakes with
    | none => none
    | some (g, seat) =>
      (fitGroups space off n k ((g + 1) % 8) (seat.slabs ++ used) ((seat.pipe, seat.slot) :: taken)
        (seat.wake.toList ++ woken)).map fun r => (seat :: r.1, r.2)

/-- What a workgroup needs (R197). -/
structure Need where
  region : Nat
  groups : Nat
  count  : Nat
  segs   : Nat
  mx     : Bool
  deriving DecidableEq, Repr

/-- Cores that accept workgroups (R50, R428). -/
def State.accepts (s : State) (c : Nat) : Bool := c < 88 && (s.core c).ready && (s.full || localOf c == 0)

/-- A dispatcher's wakes of a core that have not ended. -/
def State.waking (s : State) (c : Nat) : Bool :=
  (s.core c).banks.any fun p => p.2.role == .trn && p.2.outgoing == .off && !(s.core c).reqs.any fun q => q.banks.contains p.1

/-- Segments a workgroup takes and the OFF banks to be woken into SCR for them, those for windows left out (R199). -/
def State.fitSegs (s : State) (c n : Nat) (not_ : List Nat) : Option (List Nat × List Nat) :=
  let free := s.freeSegs c
  if n ≤ free.length then some (free.take n, [])
  else
    let more := ceilDiv (n - free.length) 32
    let off := (List.range 96).filter fun b => (s.bank c b).role == .off && rolePermitted b .scr && !not_.contains b
    if more ≤ off.length then some ((free ++ ((off.take more).map fun b => rangeFrom (32 * b) 32).flatten).take n, off.take more)
    else none

/-- A fit of a workgroup on a core: seats, segments, glen pointer and banks to wake with their roles. -/
structure Fit where
  seats : List Seat
  segs  : List Nat
  ptr   : Nat
  wakes : List (Nat × Role)
  deriving DecidableEq, Repr

/-- The conditions of R197 on one core; with `wake` OFF banks may be woken (R199). -/
def State.fit (s : State) (c : Nat) (n : Need) (wake : Bool) : Option Fit := do
  if !s.accepts c || (n.mx && (s.core c).mxe.holder.isSome) then none
  let live := s.liveOn c
  if s.glimit n.region < (live.filter fun p => s.regionOf p.2 == n.region).length + n.groups then none
  let off (g : Nat) : List Nat :=
    if wake then (rangeFrom (10 * g) 10).filter fun b => (s.bank c b).role == .off && rolePermitted b .reg else []
  let (seats, ptr) ← fitGroups (fun g => s.slabSpace c g) off (slabsFor n.count) n.groups (s.core c).glenPtr (s.slabsUsed c)
    (live.map fun p => (p.2.pipe, p.2.slot)) []
  let regs := seats.filterMap (·.wake)
  let (segs, scr) ← s.fitSegs c n.segs regs
  if !wake && !scr.isEmpty then none
  let within (r : Role) (k : Nat) : Bool := k == 0 || (match s.bankBudget n.region r with
    | some q => n.region == 0 || s.bankCharge c n.region r + k ≤ q
    | none => true)
  if within .reg regs.length && within .scr scr.length then
    some { seats := seats, segs := segs, ptr := ptr, wakes := (regs.map (·, .reg)) ++ scr.map (·, .scr) }
  else none

/-- Wake the banks of a fit (R78, R199), charged to the region. -/
def State.wakeBanks (s : State) (c region : Nat) (bs : List (Nat × Role)) : State :=
  bs.foldl (fun s b => s.updBank c b.1 fun _ =>
    { role := .trn, region := region, outgoing := .off, incoming := b.2, drained := false }) s

/-- A group that has nothing yet (R167). -/
def Group.fresh (wg gix core count : Nat) (seat : Seat) (now : Nat) : Group :=
  { wg := wg, gix := gix, core := core, pipe := seat.pipe, slot := seat.slot, slabs := seat.slabs, count := count, regs := [],
    sregs := [], vdeps := [], sdeps := [], masks := [], maskPar := [], upset := [], threads := [], depth := 0, fpctl := 1#32, fpstat := 0#32, window := none,
    pend := [], stopped := none, stoppedStatus := 0, trap := none, lastTrap := Trap.empty, terV := [], terS := [], queues := [],
    tl2 := .fresh, stall := none, held := none, counted := none, entering := none, colDue := false, engqSince := none, halted := false, stepOnce := false, paused := false, rowLanes := 0#32,
    row := 0, counters := [], issued := 0#64, traps := 0, moves := 0, saves := 0, tstart := now, exited := false }

/-- A thread at its entry point (R167). -/
def Thread.fresh (pc : DWord) (now : Nat) (clock : NMap Nat) : Thread :=
  { pc := pc, prio := 128#8, latches := [], stack := [], spilled := 0, exited := false, hint := none, wait := none, park := none,
    feb := none, failed := none, memwait := false, began := none, late := [], waited := now, nowatch := false, sfr := 0, clock := clock }

/-- A workgroup that holds nothing yet. -/
def Workgroup.fresh (region launch core segs regs : Nat) : Workgroup :=
  { launch := launch, task := false, region := region, wix := 0, wx := 0, wy := 0, wz := 0, rank := 0, cluster := 0, groups := 1,
    core := core, segs := segs, scr := [], empty := [], poisonW := [], segMap := [], segDir := [], tls := [], copies := [],
    slices := [], copyNums := [], nmus := [], spill := 0#64, spillSize := 0, regCount := regs, saved := .resident, resident := 0,
    yieldable := false, blocked := none, exited := false }

/-- What a workgroup starts with: the uniform registers, m11 by gix, the entry, the streams and what its threads know. -/
structure Start where
  sregs   : List Word
  inShape : Nat → BitVec 32
  entry   : DWord
  streams : NMap (List DWord)
  clock   : NMap Nat

/-- Segments that a workgroup takes are written whole (R67, R76). -/
def State.takeSegs (s : State) (c : Nat) (segs : List Nat) : State := segs.foldl (fun s p => s.softClear c (1024 * p) 1024) s

/-- Make a workgroup resident for the first time on a core (R67, R167, R197). -/
def State.begins (s : State) (c : Nat) (f : Fit) (w : Workgroup) (st : Start) : State :=
  let id := s.nextWg
  let now := s.time
  let sregs : NMap RegWord := (st.sregs.zipIdx).map fun (p : Word × Nat) => (p.2, regWord p.1)
  let group (i : Nat) (seat : Seat) : Nat × Group :=
    (id * 32 + i, { Group.fresh id i c w.regCount seat now with
      sregs := sregs, masks := [(11, st.inShape i)]
      threads := (List.range 32).map fun l => (l, Thread.fresh st.entry now st.clock) })
  let w := { w with core := c, segMap := (f.segs.zipIdx).map fun (p : Nat × Nat) => (p.2, p.1), resident := now }
  let s := { s with nextWg := id + 1, wgs := s.wgs.set id w, groups := s.groups ++ (f.seats.zipIdx).map fun (p : Seat × Nat) => group p.2 p.1 }
  let s := (s.updCore c fun k => { k with glenPtr := f.ptr }).takeSegs c f.segs
  (List.range f.seats.length).foldl (fun s i => st.streams.foldl (fun s q =>
    let (n, s) := s.issueStream (id * 32 + i)
    s.bindStream (id * 32 + i) q.1 n q.2) s) s

/-- m11 of a group (R195). -/
def inShapeMask (g : Grid) (wx wy wz gix : Nat) : BitVec 32 :=
  let sh (i : Nat) : Nat := bits (g.packet.getD (4 + i / 2) 0#64).toNat (32 * (i % 2)) 32
  maskOfLanes ((List.range 32).filter fun t =>
    (wx * 32 * g.groups + gix * 32 + t) * g.per.1 < sh 0 && wy * g.per.2.1 < sh 1 && wz * g.per.2.2 < sh 2)

/-- What a launch passes to the threads it starts (R132). -/
def State.launchClock (s : State) (loc : Loc) : NMap Nat :=
  (s.mem.rel.filter fun (p : Loc × Release) => p.1 == loc).foldl
    (fun (c : NMap Nat) (p : Loc × Release) => joinClock c p.2.clock) []

/-- Clusters' members per grid: the value of CLUSTER, 1 for none (R174). -/
def Grid.clusterOf (g : Grid) : Nat := max 1 (bits (g.packet.getD 0 0#64).toNat 51 5)

/-- What a workgroup of a grid needs. -/
def Grid.need (g : Grid) : Need :=
  { region := g.region, groups := g.groups, count := g.regCount, segs := ceilDiv g.scratch 4096, mx := false }

/-- Start workgroup wix of a grid on a core where it fits. -/
def State.startWg (s : State) (lid wix c : Nat) (f : Fit) : State :=
  match s.grids.look lid with
  | none => s
  | some g =>
    let wx := wix % g.nx
    let wy := wix / g.nx % g.ny
    let wz := wix / g.nx / g.ny
    let n := g.clusterOf
    let args := (g.packet.getD 2 0#64)
    let sh (i : Nat) : DWord := g.packet.getD (4 + i) 0#64
    State.settleHeld <| s.begins c f
      { Workgroup.fresh g.region lid c (ceilDiv g.scratch 4096) g.regCount with
        wix := wix, wx := wx, wy := wy, wz := wz, rank := wix % n, cluster := wix / n, groups := g.groups
        spill := g.packet.getD 3 0#64, spillSize := g.spillSize }
      { sregs := [loWord args, hiWord args, loWord (sh 0), hiWord (sh 0), loWord (sh 1), hiWord (sh 1)]
        inShape := inShapeMask g wx wy wz, entry := g.entry, streams := g.streams, clock := s.launchClock (startLoc lid) }

/-- Bytes of a save record (R206). -/
def State.recordSize (s : State) (w : Nat) : Nat :=
  match s.wgs.look w with
  | none => 0
  | some x =>
    256 + x.groups * (x.regCount * 128 + 256 + 192 + 1088 + 32 * 128) + 4100 * x.segs
      + (if (s.mxSaved.look w).isSome || ((s.core x.core).mxe.holder == some w && x.saved == .resident) then
          786432 + 256 + 1048576 + 256 + 1024 else 0)

/-- The bytes of the record of workgroup w saved at a time (R206): what it holds, with its check value, stands in State.wgs and
State.groups; any other bytes in its place fail the check (log entry 36). -/
def State.recordBytes (s : State) (w since : Nat) : List Byte :=
  (((List.range (ceilDiv (s.recordSize w) 16)).map fun i => natToBytes 16 (Config.record w since i)).flatten).take (s.recordSize w)

/-- When a workgroup's record was saved, and where in a save pool it lies. -/
def Saved.record : Saved → Option (Nat × Nat)
  | .pool since pa | .task _ since pa => some (since, pa)
  | .resident | .area _ => none

/-- The save records in a basin's pool: first byte and size (R206, R207). -/
def State.poolRecords (s : State) (b : Nat) : List (Nat × Nat) :=
  s.wgs.filterMap fun p => if basinOf p.2.core == b && !p.2.exited then p.2.saved.record.map fun q => (q.2, s.recordSize p.1) else none

/-- The lowest place for n bytes in a basin's pool, none when it has no room (R207). -/
def State.poolPlace (s : State) (b n : Nat) : Option Nat :=
  let q := s.reg b .ctxpool
  let base := bits q 21 31 * 2 ^ 21
  let rs := s.poolRecords b
  let free (a : Nat) : Bool := a + n ≤ base + bits q 0 16 * 2 ^ 21 && rs.all fun r => r.1 + r.2 ≤ a || a + n ≤ r.1
  match (base :: rs.map fun r => (r.1 + r.2 + 255) / 256 * 256).filter free with
  | [] => none
  | a :: as => some (as.foldl min a)

/-- What a thread takes with it (R65, R206, R408): no latches, its PC and hints as they are, its elapsed waits. -/
def Thread.stored (t : Thread) (now : Nat) (held : Bool) : Thread :=
  { t with
    latches := []
    wait := t.wait.map fun w => if held then w else { w with elapsed := w.elapsed + (now - w.since), since := now }
    feb := t.feb.map fun f => { f with since := now - f.since } }

/-- What it takes up again: its wait for a location is evaluated again (R180). -/
def Thread.resumed (t : Thread) (now : Nat) : Thread :=
  { t with wait := t.wait.map fun w => { w with since := now, outcome := match w.what, w.outcome with
             | .addr .., none => some (2, 0#64)
             | _, o => o }
           feb := t.feb.map fun f => { f with since := now - f.since } }

/-- Streams at a save (R377): store streams drained, load streams rewound to their first unpopped word, completed ones too; none while a
store stream has words to write. -/
def State.saveStreams (s : State) (gid : Nat) : Option State :=
  (List.range 4).foldl (fun (o : Option State) q => o.bind fun s =>
    match (s.group? gid).map fun g => g.queues.get .empty q with
    | none => some s
    | some k =>
      match k.stream with
      | none => some (match k.ended with
        | some t =>
          if k.words.isEmpty then s.updQueue gid q fun k => { k with unit := none, struck := false, ended := none }
          else s.updQueue gid q fun k => { k with words := [], unit := none, struck := false, ended := none
                                                  stream := some { t with moved := t.moved - k.words.length, again := true } }
        | none => s.updQueue gid q fun k => { k with unit := none, struck := false })
      | some t =>
        if !k.dir then
          some (s.updQueue gid q fun k => { k with words := [], unit := none, struck := false, stream := some { t with moved := t.moved - k.words.length } })
        else
          let s := s.streamDrain gid q (k.words.length + 1)
          let k := ((s.group? gid).map fun g => g.queues.get .empty q).getD .empty
          if k.words.isEmpty then some (s.updQueue gid q fun k => { k with unit := none, struck := false })
          else none) (some s)

/-- The engine at a save of its holder (R365): none while a WLOAD runs or a command is about to complete. -/
def State.saveEngine (s : State) (c w : Nat) : Option State :=
  let e := (s.core c).mxe
  if e.holder != some w then some (s.updMxe c fun e => { e with waiters := e.waiters.erase w })
  else
    let busy : Bool := match e.queue with
      | q :: _ => q.status.isSome || (q.kind == .wload && q.started && q.park.isNone)
      | [] => false
    if busy then none
    else
      let kept := { e with waiters := [], queue := e.queue.map fun (q : MxCmd) => { q with unit := none } }
      some ({ s with mxSaved := s.mxSaved.set w kept }.mxRelease c)

/-- Save a workgroup (R157, R206): none while it must wait (R59, R341, R408). -/
def State.saveWg (s : State) (w : Nat) (dest : Saved) : Option State :=
  match s.wgs.look w with
  | none => none
  | some x =>
    let gs := (s.groupsOf w).filter fun p => !p.2.exited
    -- its loads return, and its stores to peer modules are acknowledged, before its cols (R154, R157)
    if x.exited || x.saved != .resident || gs.any (fun p => !p.2.atSwitch || p.2.paused || s.barReqs.any fun q => q.group == p.1) then none
    else do
      let s ← gs.foldl (fun (o : Option State) p => o.bind fun s => s.saveStreams p.1) (some s)
      let s ← s.saveEngine x.core w
      let s := gs.foldl (fun s p =>
        let s := if p.2.depth == 0 then s.col p.1 else (releaseDev p.1).exec s
        s.updGroup p.1 fun g =>
          { g with stall := none, engqSince := none, saves := g.saves + 1, threads := g.threads.map fun (q : Nat × Thread) =>
              let held : Bool := match g.trap with
                | some tr => !bit tr.tmask.toNat q.1
                | none => false
              (q.1, q.2.stored (s.clockOf x.region) held) }) s
      let s := (List.range x.segs).foldl (fun s i => s.scrRead { wg := w, addr := 4096 * i } 4096) (s.ownershipHome w)
      let s := s.updCore x.core fun k =>
        { k with moves := k.moves.filter fun m => m.group / 32 != w, segMoves := k.segMoves.filter fun m => m.wg != w
                 compact := k.compact.filter fun g => !gs.any fun p => p.2.pipe / 16 == g }
      pure (s.updWg w fun x => { x with saved := dest, segMap := [], yieldable := false, blocked := none })

/-- Save a workgroup into its basin's pool (R206): none while it must wait or the pool has no room. -/
def State.saveToPool (s : State) (w : Nat) (at_ : Nat → Saved) : Option State := do
  let x ← s.wgs.look w
  let pa ← s.poolPlace (basinOf x.core) (s.recordSize w)
  let t ← s.saveWg w (at_ pa)
  match (agentWriteN pa (s.recordBytes w s.time) false).outcome t with
  | (.error (.stall _), _) => none
  | (_, t) => some t

/-- What a saved workgroup needs to be restored. -/
def State.needOf (s : State) (w : Nat) : Need :=
  match s.wgs.look w with
  | some x => { region := x.region, groups := ((s.groupsOf w).filter fun p => !p.2.exited).length, count := x.regCount, segs := x.segs,
                mx := (s.mxSaved.look w).isSome }
  | none => { region := 0, groups := 0, count := 1, segs := 0, mx := false }

/-- Restore a saved workgroup on a core where it fits (R206, R345, R364, R365, R377): started streams and matrix commands stage
in units of the new core. -/
def State.restoreWg (s : State) (w c : Nat) (f : Fit) : State :=
  let gs := ((s.groupsOf w).filter fun p => !p.2.exited).zip f.seats
  let now := s.time
  let clock := s.clockOf (s.needOf w).region
  let s := gs.foldl (fun s q => s.updGroup q.1.1 fun g =>
    { g with core := c, pipe := q.2.pipe, slot := q.2.slot, slabs := q.2.slabs,
             threads := g.threads.map fun (p : Nat × Thread) => (p.1, p.2.resumed clock) }) s
  let s := s.updWg w fun x =>
    { x with core := c, saved := .resident, resident := now, segMap := (f.segs.zipIdx).map fun (p : Nat × Nat) => (p.2, p.1) }
  let s := (s.updCore c fun k => { k with glenPtr := f.ptr }).takeSegs c f.segs
  let s := match s.mxSaved.look w with
    | some e =>
      ({ s with mxSaved := s.mxSaved.del w }.updMxe c fun k => { e with waiters := k.waiters }).updMx c fun q =>
        if q.started then { q with unit := s.freeUnit c } else q
    | none => s
  (gs.foldl (fun s q => (List.range 4).foldl (fun s i =>
    match (s.group? q.1.1).map fun g => (g.queues.get .empty i).stream.isSome with
    | some true => s.updQueue q.1.1 i fun k => { k with unit := s.freeUnit c }
    | _ => s) s) s).settleHeld

/-- Restore a saved workgroup whose record passes its check; a damaged one is discarded, with a fatal fault of its region (R206): none
while the record's memory makes it wait. -/
def State.restoreOrLose (s : State) (w c : Nat) (f : Fit) : Option State :=
  match (s.wgs.look w).bind fun x => x.saved.record with
  | none => some (s.restoreWg w c f)
  | some (since, pa) =>
    match (agentReadN pa (s.recordSize w)).outcome s with
    | (.error (.stall _), _) => none
    | (.ok (bs, bad), t) => if bs == s.recordBytes w since && !bad then some (t.restoreWg w c f) else some (lose t)
    | (.error _, t) => some (lose t)
where
  lose (s : State) : State :=
    let region := ((s.wgs.look w).map (·.region)).getD 0
    (s.discardWorkgroup w).fatalFault region Cause.engfault.code

end Sys2Proof.Machine
end

