-- ==== Sys2Proof/Machine/System.lean ====
section
/-! DEFINITION. System instructions (R333 to R341): CSRs, pool requests, system calls and trap return, HALT, translation
invalidation (R38, R39), saving and loading a workgroup. -/
namespace Sys2Proof.Machine

/-- n uniform registers from sd (R333). -/
def sIn (d : BitVec 6) (n : Nat) : Operand := { cls := .src, code := 104 + d.toNat, n := n, read := true, write := false }
def sOut (d : BitVec 6) (n : Nat) : Operand := { cls := .src, code := 104 + d.toNat, n := n, read := false, write := true }

/-- A group below supervisor level may not run the instruction (R333, reason 0x10). -/
def needSupervisor (i : Instr) (x : Iss) : M Unit := do
  let g ← groupM x
  let s ← getS
  if s.levelOf g < 1 then illopNow i

/-- ZCAP0 to ZCAP3 (R336). -/
def State.zcap (s : State) (n : Nat) : Nat :=
  let on (b : Bool) (k : Nat) : Nat := if b then 2 ^ k else 0
  let up := (List.range 16).any fun p => bit (s.reg (p / 4) (.rpctl (p % 4))) 30
  match n with
  | 0 => on s.full 0 + on (!s.full) 1 + 0x7C + on (up && Config.portCaps 7) 7
      + on ((List.range 128).any fun k => bit (s.reg 0 (.ntbap k)) 63) 8 + on (up && Config.portCaps 9) 9
  | 3 => 22 * 2 ^ 24 + 4 * 2 ^ 16
  | _ => 0

/-- What a CSR holds (R335); the trap registers are those of the terrace. -/
def State.csrValue (s : State) (gid : Nat) (g : Group) (c : Nat) : Nat :=
  let trap := g.trap.getD Trap.empty
  if 0x010 ≤ c && c < 0x014 then s.zcap (c - 0x010)
  else if 0x020 ≤ c && c < 0x02A then
    (List.range 10).foldl (fun n i =>
      let b := 10 * (c - 0x020) + i
      if b < 96 then n + (s.bank g.core b).role.ctorIdx * 2 ^ (3 * i) else n) 0
  else match c with
    | 0x000 => g.fpctl.toNat
    | 0x001 => g.fpstat.toNat
    | 0x030 => s.time
    | 0x031 => g.core + (if s.levelOf g == 0 then 0 else g.pipe / 16 * 2 ^ 7 + g.pipe % 16 * 2 ^ 10 + g.slot * 2 ^ 14)
    | 0x040 => trap.tcause.toNat
    | 0x041 => trap.tpc.toNat
    | 0x042 => trap.tval.toNat
    | 0x043 => trap.tmask.toNat
    | 0x044 => s.levelOf g + (if g.trap.isSome then 4 else 0)
    | 0x050 => s.mxprog gid
    | _ => 0

/-- Write a CSR: reserved bits are ignored, RM 0, 6 or 7 stores 1 (R249, R250, R335). -/
def State.csrWrite (s : State) (gid c v : Nat) : State :=
  match c with
  | 0x000 =>
    let rm := bits v 0 3
    let rm := if rm == 0 || 6 ≤ rm then 1 else rm
    s.updGroup gid fun g => { g with fpctl := BitVec.ofNat 32 (bits v 8 5 * 2 ^ 8 + bits v 4 1 * 2 ^ 4 + rm) }
  | 0x001 => s.updGroup gid fun g => { g with fpstat := BitVec.ofNat 32 (bits v 0 5) }
  | 0x041 => s.updGroup gid fun g => { g with trap := g.trap.map fun t => { t with tpc := BitVec.ofNat 64 v } }
  | 0x050 => s.setMxprog gid v
  | _ => s

/-- Whether a CSR may be written now (R335). -/
def csrWritable (g : Group) (c : Nat) : Bool := c == 0 || c == 1 || c == 0x050 || (c == 0x041 && g.trap.isSome)

/-- CsrOp (R334): `f` gives the new value from the old one and the operand; none for a read. -/
def csrOp (i : Instr) (d : BitVec 6) (c : BitVec 12) (f : Option (Nat → Nat → Nat)) (back : Bool) (s : State) :
    Host.Outcome State Fault Refusal :=
  uniform i (fun x => do
    let g ← groupM x
    let s ← getS
    let n := if csrWide c then 2 else 1
    let hidden : Bool := 0x040 ≤ c.toNat && c.toNat ≤ 0x043 && g.trap.isNone
    let old := if hidden then 0 else s.csrValue x.gid g c.toNat
    match f with
    | some f => do
      if !csrWritable g c.toNat then illopNow i
      let vs ← readOps x (x.lanes.headD 0) [(sIn d n, false)]
      modS fun s => s.csrWrite x.gid c.toNat (f old (wordsNat (vs.getD 0 [])))
    | none => pure ()
    M.whenB back (writeVals x (x.lanes.headD 0) (sOut d n) (natWords n old))
    pure .next) s

def execCsrr (d : BitVec 6) (c : BitVec 12) (s : State) : Host.Outcome State Fault Refusal := csrOp (.csrr d c) d c none true s
def execCsrw (d : BitVec 6) (c : BitVec 12) (s : State) : Host.Outcome State Fault Refusal :=
  csrOp (.csrw d c) d c (some fun _ v => v) false s
def execCsrs (d : BitVec 6) (c : BitVec 12) (s : State) : Host.Outcome State Fault Refusal :=
  csrOp (.csrs d c) d c (some fun old v => old ||| v) true s
def execCsrc (d : BitVec 6) (c : BitVec 12) (s : State) : Host.Outcome State Fault Refusal :=
  csrOp (.csrc d c) d c (some fun old v => old &&& (old ^^^ v)) true s

/-- ROLE (R52 to R55). -/
def execRole (d : BitVec 6) (a : BitVec 6) (s : State) : Host.Outcome State Fault Refusal :=
  uniform (.role d a) (fun x => do
    let vs ← readOps x (x.lanes.headD 0) [(sIn a 1, false)]
    let w := wordsNat (vs.getD 0 [])
    let g ← groupM x
    let s ← getS
    let region := s.regionOf g
    let code := s.roleCheck g.core region (1 ≤ s.levelOf g) w
    if code == 0 then do
      let (k, n, s) := s.roleAdmit g.core region w
      modS fun _ => s
      M.forEach (fun l => modS fun s => s.releaseAt x.gid l (tlLoc g.core 8 n) 2 true) x.lanes
      writeVals x (x.lanes.headD 0) (sOut d 4) ([0, k] ++ [n % 2 ^ 32, n / 2 ^ 32] |>.map (BitVec.ofNat 32))
    else writeVals x (x.lanes.headD 0) (sOut d 4) ([code, 0, 0, 0].map (BitVec.ofNat 32))
    pure .next) s

/-- PSTAT (R60). -/
def execPstat (d : BitVec 6) (sel : BitVec 9) (s : State) : Host.Outcome State Fault Refusal :=
  uniform (.pstat d sel) (fun x => do
    let g ← groupM x
    let s ← getS
    writeVals x (x.lanes.headD 0) (sOut d 1) [BitVec.ofNat 32 (s.pstat g.core (s.regionOf g) sel.toNat)]
    pure .next) s

/-- SYSC (R338): every thread of the entry traps, TPC naming the next word. -/
def execSysc (k : BitVec 16) (s : State) : Host.Outcome State Fault Refusal := sysTrap (.sysc k) true k.toNat s

/-- ERET (R338, R405): outside trap mode ILLOP. -/
def execEret (s : State) : Host.Outcome State Fault Refusal :=
  jointlyOr .eret (fun x _ s => s.returnTrap x.gid) (fun x run => onceFor x [] (fun _ => illopNow .eret) run) s

/-- HALT (R338, R437): the region halts; the group stands after the instruction. -/
def execHalt (s : State) : Host.Outcome State Fault Refusal :=
  uniform .halt (fun x => do
    needSupervisor .halt x
    let g ← groupM x
    modS fun s => s.haltRegion (s.regionOf g) none
    pure .next) s

/-- The cores a scope reaches (R38). -/
def scopeCores (core scope : Nat) : List Nat :=
  if scope == 0 then [core] else if scope == 1 then rangeFrom (22 * basinOf core) 22 else List.range 88
def scopeBasins (core scope : Nat) : List Nat := if scope == 0 then [] else if scope == 1 then [basinOf core] else List.range 4

/-- Invalidate cached buffer table entries and translations that `bte` and `tlb` pick, and restart walks that read one (R38, R39). -/
def State.invalidate (s : State) (core scope : Nat) (bte : Nat → Bool) (tlb : Nat → Nat → Bool) : State :=
  let keep (l : List Tlb) : List Tlb := l.filter fun t => !tlb t.root t.vpn
  let s := (scopeCores core scope).foldl (fun s c => s.updCore c fun k =>
    { k with bte := k.bte.filter fun p => !bte p.1, tlb := keep k.tlb }) s
  (scopeBasins core scope).foldl (fun s b => s.updBasin b fun x =>
    { x with tlb := keep x.tlb
             walks := x.walks.map fun (w : Walk) => if tlb w.root w.vpn then { w with started := false } else w }) s

/-- Whether accesses under a root are on their way to a device: requests of threads, and doorbells already translated. -/
def State.accessesUnder (s : State) (root : Nat) : Bool :=
  let here (r : Nat) : Bool := s.ptRoot r == root
  let waits (q : BarReq) : Bool := match s.group? q.group with
    | some g => here (s.regionOf g) && !s.haltedRegion (s.regionOf g)
    | none => q.result.isNone
  s.barReqs.any waits || s.bells.any fun d => d.target.isSome && here d.region

/-- A fence that invalidates what such accesses used lets them finish first (R39).  An access through the caches is one with its
check. -/
def usersDone (root : Nat) : M Unit := do
  let s ← getS
  M.whenB (s.accessesUnder root) (wait .fence)

/-- ATS invalidation (R38, R417): endpoints with translations for a root are asked once; the fence waits for their answers. -/
def atsFence (x : Iss) (root : Nat) : M Unit := do
  modS fun s =>
    let (mine, rest) := s.atsHeld.partition fun h => s.ptRoot h.2.2 == root
    -- an endpoint that has not acknowledged an earlier fence of the root is asked again
    let unsure := (s.atsWaits.filter fun w => w.root == root && w.group != x.gid).map fun w => (w.port, w.rid)
    let ask := ((mine.map fun h => (h.1, h.2.1)) ++ unsure).eraseDups.filter fun p =>
      !s.atsWaits.any fun w => w.group == x.gid && w.root == root && (w.port, w.rid) == p
    let asked : List AtsWait := ask.map fun p => { root := root, group := x.gid, port := p.1, rid := p.2, since := s.time }
    { s with atsHeld := rest, atsWaits := s.atsWaits ++ asked }
  let s ← getS
  if s.atsWaits.any fun w => w.group == x.gid then wait .fence

/-- BTINV (R38, R39, R339). -/
def execBtinv (d : BitVec 6) (c : BitVec 2) (l : BitVec 1) (s : State) : Host.Outcome State Fault Refusal :=
  uniform (.btinv d c l) (fun x => do
    needSupervisor (.btinv d c l) x
    let vs ← readOps x (x.lanes.headD 0) [(sIn d 2, false)]
    let region := bits (((vs.getD 0 []).getD 0 0#32).toNat) 0 20
    let sel := ((vs.getD 0 []).getD 1 0#32).toNat
    commandFence x c.toNat
    let g ← groupM x
    let s ← getS
    if (s.region? region).isSome then do
      let root := s.ptRoot region
      let base := s.btBase region
      let first := bits sel 0 16
      let hit (k : Nat) : Bool :=
        k / 65536 == bteKey root base 0 / 65536
          && (l == 1#1 || (first ≤ k % 65536 && k % 65536 < first + bits sel 16 16))
      usersDone root
      modS fun s => s.invalidate g.core c.toNat hit fun _ _ => false
      M.whenB (c == 3#2) (atsFence x root)
    pure .next) s

/-- TFENCE (R38, R39, R339). -/
def execTfence (d : BitVec 6) (c : BitVec 2) (l : BitVec 1) (k : BitVec 6) (s : State) : Host.Outcome State Fault Refusal :=
  uniform (.tfence d c l k) (fun x => do
    needSupervisor (.tfence d c l k) x
    let vs ← readOps x (x.lanes.headD 0) [(sIn d 4, false)]
    let v := wordsNat (vs.getD 0 [])
    let root := bits v 12 40 * 4096
    let page := v / 2 ^ 64 / 4096
    commandFence x c.toNat
    usersDone root
    let g ← groupM x
    modS fun s => s.invalidate g.core c.toNat (fun _ => false) fun r p =>
      r == root && (l == 1#1 || p / 2 ^ k.toNat == page / 2 ^ k.toNat)
    M.whenB (c == 3#2) (atsFence x root)
    pure .next) s

/-- The save area of a handle (R340): aligned, readable and writable for n bytes, if it has them; its first bytes' place and its length. -/
def saveArea (x : Iss) (h : Nat) (n : Nat) : M (Xlat × Nat) := do
  if h % 256 != 0 then raise .misalign (BitVec.ofNat 64 h)
  let g ← groupM x
  let w := (← getS).whoOf g
  atAddr (BitVec.ofNat 64 h) (do
    let _ ← translate w h 1 .load
    let e ← bteOf w (h / 2 ^ 48) h
    let size := bteLength e - h % 2 ^ 48
    let a ← translate w h (min 256 size) .store
    let _ ← translate w h (min 256 size) .load
    M.forEach (fun (p : Nat × Nat) => do
      let _ ← translate w (h + p.1) p.2 .load
      let _ ← translate w (h + p.1) p.2 .store) (if n ≤ size then pagePieces h (n / 4096 + 2) 0 n else [])
    pure (a, size))

/-- Write bytes of a record to a save area, and read them; the traffic is charged to no budget (R206, R340). -/
def areaWrite (x : Iss) (h : Nat) (bs : List Byte) : M Unit := do
  let g ← groupM x
  let w := (← getS).whoOf g
  atAddr (BitVec.ofNat 64 h) (do
    M.forEach (fun (p : Nat × Nat) => do
      let a ← translate w (h + p.1) p.2 .store
      let part := (bs.drop p.1).take p.2
      if isMain a.pa then do
        lapseGates w.basin a.pa p.2 w.region
        agentWriteN a.pa part false
        modS fun s => s.breakChain false 0 (keyOf a.pa) part.length
      else storeAt ((← getS).viaOf g x.gid (x.lanes.headD 0)) a part) (← handlePieces w h bs.length .store))
def areaRead (x : Iss) (h n : Nat) : M (List Byte × Bool) := do
  let g ← groupM x
  let w := (← getS).whoOf g
  atAddr (BitVec.ofNat 64 h) (do
    let parts ← M.mapEach (fun (p : Nat × Nat) => do
      let a ← translate w (h + p.1) p.2 .load
      if isMain a.pa && !a.por && !a.badKey then do
        lapseGates w.basin a.pa p.2 w.region
        agentReadN a.pa p.2
      else loadAt ((← getS).viaOf g x.gid (x.lanes.headD 0)) a p.2) (← handlePieces w h n .load)
    pure ((parts.map (·.1)).flatten, parts.any (·.2)))

/-- CTXSV (R340, R341). -/
def execCtxsv (d : BitVec 6) (s : State) : Host.Outcome State Fault Refusal :=
  uniform (.ctxsv d) (fun x => do
    needSupervisor (.ctxsv d) x
    let vs ← readOps x (x.lanes.headD 0) [(sIn d 4, false)]
    let v := vs.getD 0 []
    let lid := (v.getD 0 0#32).toNat
    let wix := (v.getD 1 0#32).toNat
    let h := wordsNat (v.drop 2)
    let g ← groupM x
    let s ← getS
    let mine (p : Nat × Workgroup) : Bool := p.2.launch == lid && p.2.wix == wix
    let found := s.wgs.find? fun p => mine p && !p.2.exited
    let need := ((found.map fun p => s.recordSize p.1)).getD 0
    let (_, room) ← saveArea x h need
    let answer (st n : Nat) : M LaneEnd := do
      updG x fun g => { g with engqSince := none }
      writeVals x (x.lanes.headD 0) (sOut d 2) [BitVec.ofNat 32 st, BitVec.ofNat 32 n]
      pure .next
    match found with
    | none =>
      if s.wgs.any fun p => mine p && s.isDead p.2.region then answer 5 0 else answer 1 0
    | some (w, y) =>
      if y.saved != .resident then answer 2 need
      else if w == g.wg then answer 3 need
      else if room < need then answer 4 need
      else match s.saveWg w (.area s.time) with
        | none => do
          updG x fun g => { g with engqSince := some (g.engqSince.getD s.time) }
          wait .fence
        | some _ => do
          areaWrite x h (s.recordBytes w s.time)
          modS fun s => (s.saveWg w (.area s.time)).getD s
          answer 0 need) s

/-- The workgroup whose record begins with the bytes of an area, and when it was saved there (R340). -/
def State.savedIn (s : State) (head : List Byte) : Option (Nat × Nat × Workgroup) :=
  s.wgs.findSome? fun p => match p.2.saved with
    | .area since => if (s.recordBytes p.1 since).take 256 == head then some (since, p) else none
    | _ => none

/-- CTXLD (R340). -/
def execCtxld (d : BitVec 6) (s : State) : Host.Outcome State Fault Refusal :=
  uniform (.ctxld d) (fun x => do
    needSupervisor (.ctxld d) x
    let vs ← readOps x (x.lanes.headD 0) [(sIn d 3, false)]
    let v := vs.getD 0 []
    let h := wordsNat (v.take 2)
    let core := bits (v.getD 2 0#32).toNat 0 7
    let (_, room) ← saveArea x h 256
    let (head, bad) ← (if room < 256 then pure ([], true) else areaRead x h 256)
    let answer (st : Nat) : M LaneEnd := do
      writeDst x (x.lanes.headD 0) { sOut d 1 with code := 104 + d.toNat + 2 } [regWord (BitVec.ofNat 32 st)]
      pure .next
    let s ← getS
    match if bad then none else s.savedIn head with
    | none => answer 1
    | some (since, w, y) => do
      let b := basinOf y.core
      let n := s.recordSize w
      if room < n then answer 1
      else do
        let (bs, bad) ← areaRead x h n
        let s ← getS
        if bad || bs != s.recordBytes w since || (core != 0x7F && basinOf core != b) then answer 1
        else if s.isDead y.region then do
          modS fun s => (if y.exited then s else s.discardWorkgroup w).updWg w fun y => { y with saved := .pool since 0, exited := true }
          answer 5
        else if y.exited then answer 1
        else match s.poolPlace b n with
          | none => answer 2
          | some pa => do
            agentWriteN pa bs false
            modS fun s =>
              let fixed : Option Nat := if core != 0x7F then some core else if y.task then some y.core else none
              let wait : Waiting := { grid := y.launch, first := y.wix, size := 1, restore := some w, basin := b, core := fixed,
                                      since := since, woken := [], task := false }
              (s.updWg w fun y => { y with saved := .pool since pa }).updBasin b fun q => { q with waits := q.waits ++ [wait] }
            answer 0) s

end Sys2Proof.Machine
end

