-- ==== Sys2Proof/Machine/Work.lean ====
section
/-! DEFINITION. New work (R187 to R195, R388 to R391): launch queues and packets, kernel headers and buckets, continuation
records and tasks (R177 to R180). -/
namespace Sys2Proof.Machine

/-- The bytes of an object a LAUNCH, TPOST or DEFER reads as a plain load of its lowest active thread (R388).  Poison in them traps
POISON there, the instruction being their first reader (R120, log entry 83). -/
def readObject (x : Iss) (lane h n : Nat) : M Nat := do
  let parts ← M.mapEach (fun (p : Nat × Nat) => atAddr (BitVec.ofNat 64 (h + p.1)) (do
      let a ← reach x lane (h + p.1) p.2 .load [0]
      let v ← viaM x lane
      raced x lane (raceChecked a true) [] (globalLoc a.pa) p.2 0 false (loadAt v a p.2))) (pagePieces h 3 0 n)
  if parts.any (·.2) then atAddr (BitVec.ofNat 64 h) (err .poison)
  pure (bytesToNat (parts.map (·.1)).flatten)

/-- Words of a packet or record. -/
def dwords (n v : Nat) : List DWord := (List.range n).map fun i => BitVec.ofNat 64 (v / 2 ^ (64 * i))

/-- An access of a dispatcher at a virtual address of a region's own effective translation, at supervisor level (R189).  No buffer names a
key slot for a sealed frame: it is read under its own (log entry 78). -/
def vaReach (w : Who) (va n : Nat) (kind : Kind) : M Xlat := do
  let s ← getS
  let root := s.ptRoot w.region
  let f (sub : Nat) : AErr := .fault sub root va 0 kind.cls va
  let p ← leafOf { w with sup := true } root va kind f fun p => leafErr p kind true f
  let pa := ptePfn p * 4096 + va % 4096
  matCheck w pa kind
  sealCheck pa (bit p 61)
  if n == 0 then err .deny
  pure { pa := pa, h := va, dev := false, check := false, g := bit p 60, enc := bit p 61, badKey := false, por := bit p 63 }

/-- The packets queued in a launch queue (R189). -/
def Region.lqHeld (r : Region) : Nat := (r.lqPut - r.lqTake).toNat

/-- The virtual address of packet p of a launch queue (R189). -/
def State.lqSlot (s : State) (r p : Nat) : Nat :=
  let ent := s.lqEnt r
  let k := p % ((ent - 1) + s.lqOvn r)
  if k < ent - 1 then s.lqBase r + 64 * (k + 1) else s.lqOvb r + 64 * (k - (ent - 1))

/-- The dispatcher of a region's launch queue (R187). -/
def lqWho (r : Nat) : Who := Who.dispatcher r (r % 4) true
/-- A look that leaves no walk behind. -/
def Who.peek (w : Who) : Who := { w with queued := false }
def lqVia (r : Nat) : Via := engineVia (22 * (r % 4)) r 0x7C

/-- Write a packet to a launch queue and its PUT through (R189). -/
def lqWrite (r put : Nat) (packet : Nat) : M Unit := do
  let s ← getS
  let a ← vaReach (lqWho r) (s.lqSlot r put) 64 .store
  let c ← vaReach (lqWho r) (s.lqBase r) 8 .store
  engineStoreAt (lqWho r) (lqVia r) a (natToBytes 64 packet) false
  engineStoreAt (lqWho r) (lqVia r) c (natToBytes 8 (put + 1)) false

/-- Fields of a packet (R174). -/
def packetRegion (w0 : Nat) : Nat := bits w0 20 20

/-- LAUNCH (R189, R388). -/
def execLaunch (p st c : BitVec 7) (s : State) : Host.Outcome State Fault Refusal :=
  command (.launch p st c) (fun x lanes => do
    let lane := lanes.headD 0
    let vs ← readOps x lane [(oIn .sPair p 2, true)]
    commandFence x (issueScope x 2)
    let packet ← readObject x lane (wordsNat (vs.getD 0 [])) 64
    let g ← groupM x
    let s ← getS
    let region := s.regionOf g
    let owner := s.effRegion region 12
    let q := (s.region? owner).getD .fresh
    let put := q.lqPut.toNat
    let answer (st' n : Nat) : M Unit := do
      writeAll x lanes (oOut .sOneD st 1) [regWord (BitVec.ofNat 32 st')]
      writeNumber x lanes c n
    if !(s.chain 17 (packetRegion packet)).contains region then answer 3 0
    else if s.lqEnt region == 0 then answer 2 0
    else if s.lqEnt region - 1 + s.lqOvn region ≤ q.lqHeld then answer 1 0
    else match (wholeUnit (lqWrite owner put packet)).outcome s with
      | (.error (.stall _), t) => do
        modS fun _ => t
        wait .engq
      | (.error _, _) => answer 4 0
      | (.ok _, t) => do
        modS fun _ => t
        let n ← numberCommand x lanes 5
        modS fun s => s.updRegion owner fun r => { r with lqPut := r.lqPut + 1#64, lqCtx := r.lqCtx.set put (g.wg, n) }
        answer 0 n) s

/-- A record's fields (R177). -/
def Record.ofNat (v : Nat) : Record :=
  { home := 0, slot := 0, gen := 0, code := BitVec.ofNat 64 v, frame := BitVec.ofNat 64 (v / 2 ^ 64),
    affinity := BitVec.ofNat 64 (v / 2 ^ 192), join := BitVec.ofNat 32 (bits v 160 32), region := bits v 140 20,
    deferred := false, isFault := false, runnable := false, saved := none, since := 0 }

/-- What a record's posting or joining passes to its task (R132). -/
def recordLoc (id : Nat) : Loc := startLoc (2 ^ 41 + id)

/-- TPOST and DEFER (R390). -/
def postTask (i : Instr) (defer_ : Bool) (p r c : BitVec 7) (s : State) : Host.Outcome State Fault Refusal :=
  command i (fun x lanes => do
    let lane := lanes.headD 0
    let vs ← readOps x lane [(oIn .sPair p 2, true)]
    commandFence x (issueScope x 2)
    let v ← readObject x lane (wordsNat (vs.getD 0 [])) 32
    let g ← groupM x
    let s ← getS
    let rec_ := Record.ofNat v
    let refuse (st : Nat) : M Unit := do
      writeAll x lanes (oOut .sOneD r 1) [regWord (BitVec.ofNat 32 st)]
      writeNumber x lanes c 0
    if bits v 128 12 != 0 then refuse 5
    else if !(s.chain 17 rec_.region).contains (s.regionOf g) then refuse 3
    else
      let (target, t) := if defer_ then s.graceRequest rec_.region else (0, s)
      let rec_ := if defer_ then { rec_ with deferred := true, join := BitVec.ofNat 32 target } else rec_
      match t.postRecord rec_ (some g.core) with
      | (none, _) => refuse 4
      | (some id, t) => do
        modS fun _ => t
        let n ← numberCommand x lanes 5
        modS fun s => lanes.foldl (fun s l => s.releaseAt x.gid l (recordLoc id) 2 true)
          (s.completeTl g.wg 5 n stOK id (target % 2 ^ 32))
        writeAll x lanes (oOut .sPairD r 2) [regWord 0#32, regWord (BitVec.ofNat 32 id)]
        writeNumber x lanes c n) s

def execTpost (p r c : BitVec 7) (s : State) : Host.Outcome State Fault Refusal := postTask (.tpost p r c) false p r c s
def execDefer (p r c : BitVec 7) (s : State) : Host.Outcome State Fault Refusal := postTask (.defer p r c) true p r c s

/-- A TJOIN at the home bucket (R179): at 0 the record joins the tail of its bucket. -/
def State.joinRecord (s : State) (r : Record) : State :=
  let r' := { r with join := r.join - 1#32, runnable := r.join == 1#32, since := s.time }
  let s := { s with steppe := if r'.runnable then (s.steppe.erase r) ++ [r'] else s.steppe.map fun q => if q = r then r' else q }
  s.recordStore r'

/-- TJOIN (R391). -/
def execTjoin (i st c : BitVec 7) (s : State) : Host.Outcome State Fault Refusal :=
  command (.tjoin i st c) (fun x lanes => do
    let vs ← readOps x (lanes.headD 0) [(oIn .sOne i 1, false)]
    commandFence x (issueScope x 2)
    let id := wordsNat (vs.getD 0 [])
    let g ← groupM x
    let s ← getS
    let answer (st' n : Nat) : M Unit := do
      writeAll x lanes (oOut .sOneD st 1) [regWord (BitVec.ofNat 32 st')]
      writeNumber x lanes c n
    match s.steppe.find? fun r => r.id == id && r.saved.isNone with
    | none => answer 5 0
    | some r =>
      if r.runnable || r.deferred || (s.levelOf g == 0 && !(s.chain 17 r.region).contains (s.regionOf g)) then answer 5 0
      else do
        modS fun s => s.joinRecord r
        let n ← numberCommand x lanes 5
        modS fun s => lanes.foldl (fun s l => s.releaseAt x.gid l (recordLoc id) 2 true)
          (s.completeTl g.wg 5 n stOK id (r.join - 1#32).toNat)
        answer 0 n) s

/-- A kernel header as its 32 words (R233). -/
abbrev Header := List DWord
def Header.word (h : Header) (i : Nat) : Nat := (h.getD i 0#64).toNat
def Header.regs (h : Header) : Nat := bits (h.word 3) 0 7
def Header.scratch (h : Header) : Nat := bits (h.word 3) 32 32
def Header.spill (h : Header) : Nat := bits (h.word 4) 0 32
def Header.bucketOff (h : Header) : Nat := bits (h.word 4) 32 32
def Header.stream (h : Header) (i : Nat) : List DWord := (h.drop (8 + 4 * i)).take 4
def Header.hasStream (h : Header) (i : Nat) : Bool := (h.stream i).any fun w => w != 0#64

/-- R234: a header that fails its checks. -/
def Header.bad (h : Header) : Bool :=
  bits (h.word 0) 0 32 != 0x314B485A || bits (h.word 0) 32 16 != 0x0100 || bits (h.word 0) 48 16 != 0
    || bits (h.word 3) 7 25 != 0 || h.word 5 != 0 || h.word 6 != 0 || h.word 7 != 0
    || (rangeFrom 28 4).any (fun i => h.word i != 0)
    || h.regs == 0 || 96 < h.regs || 12 * 2 ^ 20 < h.scratch || h.spill % 16 != 0
    || h.bucketOff % 8 != 0 || h.bucketOff < 256
    || (List.range 4).any fun i => h.hasStream i && streamBad (h.stream i)

/-- A bucket as its six words (R192). -/
abbrev Bucket := List DWord
def Bucket.word (b : Bucket) (i : Nat) : Nat := (b.getD i 0#64).toNat
def Bucket.lo (b : Bucket) (d : Nat) : Nat := bits (b.word d) 0 32
def Bucket.hi (b : Bucket) (d : Nat) : Nat := bits (b.word d) 32 32
def Bucket.entry (b : Bucket) : Nat := bits (b.word 4) 0 32
def Bucket.per (b : Bucket) : Nat × Nat × Nat := (bits (b.word 4) 32 16, bits (b.word 5) 0 16, bits (b.word 5) 16 16)
def Bucket.groups (b : Bucket) : Nat := bits (b.word 4) 48 5 + 1

/-- Workgroups of the grid a bucket sizes (R194). -/
def Bucket.extent (b : Bucket) : Nat × Nat × Nat :=
  (max 1 (ceilDiv (b.hi 0) (b.per.1 * 32 * b.groups)), max 1 (ceilDiv (b.hi 1) b.per.2.1), max 1 (ceilDiv (b.hi 2) b.per.2.2))

/-- R192: a bad bucket. -/
def Bucket.bad (b : Bucket) : Bool :=
  let (nx, ny, nz) := b.extent
  (List.range 4).any (fun d => b.hi d < b.lo d) || b.per.1 == 0 || b.per.2.1 == 0 || b.per.2.2 == 0 || b.entry % 4 != 0
    || bits (b.word 4) 53 11 != 0 || bits (b.word 5) 32 32 != 0
    || 2 ^ 20 < nx || 2 ^ 20 < ny || 2 ^ 20 < nz || 2 ^ 32 - 1 < nx * ny * nz

/-- Read a kernel's header and bucket table (R191, R234); none when they fail. -/
def readKernel (w : Who) (h : Nat) : M (Option (Header × List Bucket)) := do
  let v := engineVia (22 * w.basin) w.region 0x7C
  let (bs, bad) ← engineRead w v h 256 .load
  let hd : Header := dwords 32 (bytesToNat bs)
  if bad || hd.bad then pure none
  else do
    let at_ ← engineAddr h hd.bucketOff
    let (cb, cbad) ← engineRead w v at_ 8 .load
    let count := bytesToNat cb
    if cbad || count == 0 || 16 < count then pure none
    else do
      let at2 ← engineAddr h (hd.bucketOff + 8 : Nat)
      let (bb, bbad) ← engineRead w v at2 (48 * count) .load
      let all : List Bucket := (List.range count).map fun j => dwords 6 (bytesToNat ((bb.drop (48 * j)).take 48))
      if bbad || all.any Bucket.bad then pure none else pure (some (hd, all))

/-- A kernel, none where it fails or cannot be read; the dispatcher never parks, and waits where the memory makes it wait. -/
def State.kernel (s : State) (w : Who) (h : Nat) : Option (Option (Header × List Bucket)) × State :=
  match (readKernel w h).outcome s with
  | (.ok r, s) => (some r, s)
  | (.error (.stall _), s) => (none, s)
  | (.error _, s) => (some none, s)

/-- R191, LFEAT. -/
def State.featBad (s : State) (h : Header) : Bool :=
  let mask := h.word 1 + h.word 2 * 2 ^ 64
  (List.range 128).any fun k => bit mask k && !bit (s.zcap (k / 32)) (k % 32)

/-- R191, LFIT: the machine with nothing resident and no move pending. -/
def State.cleared (s : State) : State :=
  { s with groups := [], wgs := []
           cores := s.cores.map fun (p : Nat × Core) => (p.1, { p.2 with moves := [], segMoves := [], mxe := .reset }) }
def State.fitBad (s : State) (n : Need) (cluster : Nat) : Bool :=
  let t := s.cleared
  let accepting (b : Nat) : Nat := ((rangeFrom (22 * b) 22).filter s.accepts).length
  !((List.range 88).any fun c => (t.fit c n true).isSome) || (List.range 4).any fun b => accepting b < cluster

/-- The streams a kernel binds at group start (R233). -/
def Header.streams (h : Header) : NMap (List DWord) := ((List.range 4).filter h.hasStream).map fun i => (i, h.stream i)

/-- A packet that is rejected whole (R174). -/
def packetBad (p : List DWord) : Bool :=
  let w0 := (p.getD 0 0#64).toNat
  bits w0 56 8 != 1 || 24 < bits w0 51 5 || bits w0 40 11 != 0 || bits w0 0 20 != 0 || bits (p.getD 7 0#64).toNat 0 32 != 0

/-- Check a packet (R191): a status, or the grid it becomes; none while the dispatcher waits for memory. -/
def State.checkPacket (s : State) (p : Option (List DWord)) (issuer : Option Nat) (basin : Nat) : Option (Except Nat Grid) × State :=
  match p with
  | none => (some (.error 3), s)
  | some p =>
    let region := packetRegion (p.getD 0 0#64).toNat
    if packetBad p then (some (.error 3), s)
    else if !s.regionUsable region || (issuer.map fun r => !(s.chain 17 region).contains r).getD false then (some (.error 4), s)
    else
      let khdr := (p.getD 1 0#64).toNat
      match s.kernel (Who.dispatcher region basin (region == 0)) khdr with
      | (none, s) => (none, s)
      | (some none, s) => (some (.error 5), s)
      | (some (some (hd, bs)), s) =>
        let sh (i : Nat) : Nat := bits (p.getD (4 + i / 2) 0#64).toNat (32 * (i % 2)) 32
        if s.featBad hd then (some (.error 1), s)
        else match bs.find? fun b => (List.range 4).all fun d => b.lo d ≤ sh d && sh d ≤ b.hi d with
        | none => (some (.error 2), s)
        | some b =>
          let (nx, ny, nz) := b.extent
          let g : Grid :=
            { region := region, packet := p, parent := none, ctx := none, hostq := none, groups := b.groups, regCount := hd.regs,
              scratch := hd.scratch, spillSize := hd.spill, entry := BitVec.ofNat 64 (khdr + b.entry), per := b.per, nx := nx,
              ny := ny, nz := nz, streams := hd.streams, left := nx * ny * nz, basin := basin, aborted := false }
          if s.fitBad g.need (bits (p.getD 0 0#64).toNat 51 5) then (some (.error 6), s) else (some (.ok g), s)

/-- The units of a grid, waiting in their basins' lists (R196, R201): the start pointer advances here, for grids that pass their checks (log
entry 90). -/
def State.enlist (s : State) (lid : Nat) (g : Grid) : State :=
  let n := g.clusterOf
  let total := g.nx * g.ny * g.nz
  let s := (List.range (ceilDiv total n)).foldl (fun s u =>
    let b := (u + s.startPtr) % 4
    s.updBasin b fun x => { x with waits := x.waits ++ [
      { grid := lid, first := u * n, size := min n (total - u * n), restore := none, basin := b, core := none, since := s.time, woken := [],
        task := false }] }) s
  { s with startPtr := (s.startPtr + 1) % 4 }

/-- A packet's source: a host queue, or the device-side queue of a region. -/
inductive Source where
  | host (n : Nat)
  | device (region : Nat)
  deriving DecidableEq, Repr

def Source.index : Source → Nat
  | .host n => n
  | .device r => 16 + r

/-- The slot a host queue's next packet lies in (R188). -/
def hostSlots (q : Nat) : Nat := 2 ^ max 6 (min 15 (bits q 52 4))
def State.hostSlot (s : State) (b n : Nat) : Nat :=
  let q := s.reg b (.hqbase n)
  bits q 12 40 * 4096 + bits (s.reg b (.hqptr n)) 32 32 % hostSlots q * 64

/-- Read the packet at the head of a source: none when its slot cannot be read. -/
def readPacket (b : Nat) (q : Source) (peek : Bool := false) : M (List DWord) := do
  let s ← getS
  match q with
  | .host n => do
    let pa := s.hostSlot b n
    matCheck (Who.dispatcher 0 b true) pa .load
    let (bs, bad) ← agentReadN pa 64
    if bad then err .poison
    pure (dwords 8 (bytesToNat bs))
  | .device r => do
    let w := if peek then (lqWho r).peek else lqWho r
    let a ← vaReach w (s.lqSlot r ((s.region? r).getD .fresh).lqTake.toNat) 64 .load
    let (bs, bad) ← engineLoadAt w (lqVia r) a 64
    if bad then err .poison
    pure (dwords 8 (bytesToNat bs))

/-- Sources of a basin's dispatcher with a packet, in index order (R187). -/
def State.sources (s : State) (b : Nat) : List Source :=
  ((List.range 16).filter fun n =>
      bit (s.reg b (.hqbase n)) 63 && bits (s.reg b (.hqptr n)) 0 32 != bits (s.reg b (.hqptr n)) 32 32).map Source.host
    ++ ((s.regions.filter fun p => p.1 % 4 == b && s.effRegion p.1 12 == p.1 && s.lqEnt p.1 != 0 && p.2.lqPut != p.2.lqTake).map
      fun p => Source.device p.1)

/-- The source the dispatcher takes from next (R187): highest class, then round-robin.  A packet that cannot be read has class 0, one of
a region that is not registered the class of region 0 (log entry 79). -/
def State.nextSource (s : State) (b : Nat) : Option Source :=
  let cls (q : Source) : Nat := match (readPacket b q true).outcome s with
    | (.ok p, _) => s.pclass (packetRegion (p.getD 0 0#64).toNat)
    | (.error _, _) => 0
  let qs := (s.sources b).map fun q => (q, cls q)
  let top := qs.foldl (fun m q => max m q.2) 0
  let best := (qs.filter fun q => q.2 == top).map (·.1)
  let least (l : List Source) : Option Source := match l with
    | [] => none
    | q :: r => some (r.foldl (fun a c => if c.index < a.index then c else a) q)
  (least (best.filter fun q => (s.basin b).queuePtr < q.index)).orElse fun _ => least best

/-- Grid descriptors a dispatcher holds (R190). -/
def State.descriptors (s : State) (b : Nat) : Nat := (s.grids.filter fun p => p.2.basin == b).length

/-- The write-through of a device-side queue's TAKE (R189): false while its memory makes it wait; one that fails is skipped. -/
def State.takeWrite (s : State) (q : Source) : Bool × State :=
  match q with
  | .host _ => (true, s)
  | .device r =>
    let take := ((s.region? r).getD .fresh).lqTake
    let write : M Unit := do
      let c ← vaReach (lqWho r) (s.lqBase r + 8) 8 .store
      engineStoreAt (lqWho r) (lqVia r) c (natToBytes 8 (take + 1#64).toNat) false
    match write.outcome s with
    | (.error (.stall _), t) => (false, t)
    | (_, t) => (true, t)

/-- TAKE of a source advances (R188, R189). -/
def State.takeSlot (s : State) (b : Nat) (q : Source) : State :=
  let s := s.updBasin b fun x => { x with queuePtr := q.index }
  match q with
  | .host n =>
    let w := s.reg b (.hqptr n)
    s.setReg b (.hqptr n) (setBits w 32 32 (bits w 32 32 + 1))
  | .device r => s.updRegion r fun x => { x with lqTake := x.lqTake + 1#64, lqCtx := x.lqCtx.del x.lqTake.toNat }

/-- The next launch id (R175): 32 bits, none that a live grid has. -/
def State.freeLid (s : State) : Nat → Nat → Nat
  | 0, n => n
  | fuel + 1, n => if (s.grids.look n).isSome then s.freeLid fuel ((n + 1) % 2 ^ 32) else n
def State.newLid (s : State) : Nat × State :=
  let lid := s.freeLid (s.grids.length + 1) (s.nextLid % 2 ^ 32)
  (lid, { s with nextLid := (lid + 1) % 2 ^ 32 })

/-- A packet that has passed its checks, or failed them, leaves its queue (R175, R188 to R191). -/
def State.takeIn (s : State) (basin : Nat) (q : Source) (ctx : Option (Nat × Nat)) (r : Except Nat Grid) : State :=
  let launcher := ctx.bind fun c => s.wgs.look c.1
  let parent := launcher.bind fun w => if w.task then none else some w.launch
  let hostq : Option (Nat × Nat) := match q with
    | .host n => some (basin, n)
    | .device _ => none
  let (lid, s) := s.newLid
  let s := s.takeSlot basin q
  match r with
  | .error code =>
    let s := match ctx, hostq with
      | some (w, n), _ => s.completeTl w 5 n stLFAIL code lid
      | none, some (b, n) => s.queueError b n code
      | none, none => s
    -- its launcher's grid may have waited for it alone
    match parent with
    | some p => s.gridTest p 64
    | none => s
  | .ok g =>
    let s := { s with grids := s.grids.set lid { g with ctx := ctx, hostq := hostq, parent := parent } }
    let s := match ctx with
      | some (w, n) => s.passOn (tlLoc w 5 n) (startLoc lid) none
      | none => s
    s.enlist lid g

/-- PACKET_TAKE (R188, R190, R191). -/
def execPacketTake (basin : Nat) (s : State) : Host.Outcome State Fault Refusal :=
  if !s.startsOn || 1024 ≤ s.descriptors basin then .next s
  else match s.nextSource basin with
  | none => .next s
  | some q =>
    match (readPacket basin q).outcome s with
    | (.error (.stall _), t) => .next t
    | (r, s) =>
      let packet : Option (List DWord) := match r with
        | .ok p => some p
        | .error _ => none
      let ctx : Option (Nat × Nat) := match q with
        | .device r => ((s.region? r).bind fun x => x.lqCtx.look x.lqTake.toNat)
        | .host _ => none
      match s.checkPacket packet ((ctx.bind fun c => s.wgs.look c.1).map (·.region)) basin with
      | (none, s) => .next s
      | (some c, s) => match s.takeWrite q with
        | (false, s) => .next s
        | (true, s) => .next (s.takeIn basin q ctx c)

/-- HQPTR_PUT (R188): PUT advances, or the queue is overfilled and disabled. -/
def execHqptrPut (basin queue put : Nat) (s : State) : Host.Outcome State Fault Refusal :=
  let q := s.reg basin (.hqbase queue)
  let w := s.reg basin (.hqptr queue)
  .next (if hostSlots q < (put + 2 ^ 32 - bits w 32 32) % 2 ^ 32 then
      (s.setReg basin (.hqbase queue) (setBits q 63 1 0)).setReg basin (.hqstat queue) (setBits (s.reg basin (.hqstat queue)) 56 8 7)
    else s.setReg basin (.hqptr queue) (setBits w 0 32 put))

/-- The region whose tables a record's CODE is read under (R159, R177): its own, or for a handler's record the region that faulted, whose
HCODE it is (log entry 60). -/
def Record.owner (r : Record) : Nat := if r.isFault then bits r.affinity.toNat 0 20 else r.region

/-- On whose behalf the dispatcher reads a record's kernel (R468). -/
def Record.who (r : Record) (core : Nat) : Who :=
  let b := basinOf core
  { Who.dispatcher r.owner b (r.region == 0) with master := (Who.dispatcher r.region b false).master }

/-- What a task needs (R67, R197). -/
def taskNeed (r : Record) (hd : Header) (b : Bucket) : Need :=
  { region := r.region, groups := b.groups, count := hd.regs, segs := ceilDiv hd.scratch 4096, mx := false }

/-- The grace period a DEFER record waited for: the last one whose number ends in its JOIN (R156, R179). -/
def State.deferTarget (s : State) (r : Record) : Nat :=
  let gseq := ((s.region? r.region).getD .fresh).gseq.toNat
  gseq - (gseq + 2 ^ 32 - r.join.toNat) % 2 ^ 32

/-- Start the task at the head of a core's bucket, restore it, or wake the banks it needs; none while it does not fit or its memory makes
it wait (R156, R177, R180, R199). -/
def State.startTask (s : State) (core : Nat) : Option State :=
  match s.bucketHead core with
  | none => none
  | some r =>
    let drop (s : State) : State := { s with steppe := s.steppe.erase r }
    let placed (s : State) (n : Need) (go : State → Fit → Option State) : Option State :=
      match s.fit core n false with
      | some f => go (drop s) f
      | none => if s.waking core then none else (s.fit core n true).map fun f => s.wakeBanks core n.region f.wakes
    match r.saved with
    | some w => placed s (s.needOf w) fun s f => s.restoreOrLose w core f
    | none =>
      match s.kernel (r.who core) r.code.toNat with
      | (some (some (hd, bs)), s) =>
        let b := bs.headD []
        let n := taskNeed r hd b
        let started := s.launchClock (recordLoc r.id)
        let clock := if r.deferred then joinClock (s.launchClock (colLoc r.region (s.deferTarget r))) started else started
        placed s n fun s f => some (s.begins core f
          { Workgroup.fresh r.region r.id core n.segs n.count with task := true, groups := b.groups }
          { sregs := [loWord r.frame, hiWord r.frame, loWord r.affinity, hiWord r.affinity], inShape := fun _ => 0xFFFFFFFF#32
            entry := BitVec.ofNat 64 (r.code.toNat + b.entry), streams := hd.streams, clock := clock })
      | _ => none

/-- Whether every live thread of a workgroup stands at a blocking wait that is not met, each for `n` ns by now (R180, R209). -/
def State.allBlocked (s : State) (w n : Nat) : Bool :=
  let gs := (s.groupsOf w).filter fun p => !p.2.exited
  !gs.isEmpty && gs.all fun p => s.blockedGroup p.2 && p.2.threads.all fun q => q.2.exited ||
    (match q.2.wait with
     | some x => x.since + n ≤ s.time
     | none => false)

/-- TASK_WAIT_SAVE (R180). -/
def execTaskWaitSave (workgroup : Nat) (s : State) : Host.Outcome State Fault Refusal :=
  .next (match s.wgs.look workgroup with
    | some x =>
      let q := s.quantum x.region
      if x.task && x.saved == .resident && !x.exited && s.allBlocked workgroup q then
        (s.saveToPool workgroup fun pa => .task (s.time + q) s.time pa).getD s
      else s
    | none => s)

/-- TASK_REQUEUE (R180): one quantum later the task is at the head of its bucket. -/
def execTaskRequeue (workgroup : Nat) (s : State) : Host.Outcome State Fault Refusal :=
  .next (match s.wgs.look workgroup with
    | some x => match x.saved with
      | .task t since _ =>
        if x.exited || s.time < t || s.steppe.any (fun r => r.saved == some workgroup) then s
        else
          let r : Record := { home := x.core, slot := 65536 + workgroup, gen := 0, code := 0#64, frame := 0#64, affinity := 0#64,
                              join := 0#32, region := x.region, deferred := false, isFault := false, runnable := true,
                              saved := some workgroup, since := since }
          { s with steppe := r :: s.steppe }
      | _ => s
    | none => s)

end Sys2Proof.Machine
end

