-- ==== Sys2Proof/Machine/Dispatcher.lean ====
section
/-! DEFINITION. The dispatchers' placement, compaction, saves and restores (R196 to R209), pipe turns (R170, R203, R204), timeouts
(R70, R185), timed starts (R211, R321) and budget periods (R210). -/
namespace Sys2Proof.Machine

/-- The cores of a basin in round-robin order from its dispatcher's pointer (R196). -/
def State.coreOrder (s : State) (b : Nat) : List Nat := (List.range 22).map fun i => 22 * b + ((s.basin b).corePtr + i) % 22

/-- The cores a waiting unit may go to (R201, R207). -/
def State.coresFor (s : State) (e : Waiting) : List Nat :=
  match e.core with
  | some c => [c]
  | none => match e.restore with
    | some w => (s.coreOrder e.basin).filter fun c => !s.barred c w
    | none => s.coreOrder e.basin

/-- A class and a time a list is ordered by (R201). -/
def State.waitClass (s : State) (e : Waiting) : Nat :=
  let task : Option Nat := if e.task then (e.core.bind s.bucketHead).map (·.region) else none
  match e.restore.bind s.wgs.look with
  | some x => s.pclass x.region
  | none => s.pclass (task.getD (((s.grids.look e.grid).map (·.region)).getD 0))
def State.waitsBefore (s : State) (a b : Waiting) : Bool :=
  s.waitClass b < s.waitClass a || (s.waitClass a == s.waitClass b && a.since < b.since)

/-- A basin's waiting units, those of its cores' lists too, in the order they are served (R201). -/
def State.waitOrder (s : State) (b : Nat) : List Waiting :=
  let rec ins (x : Waiting) : List Waiting → List Waiting
    | [] => [x]
    | y :: ys => if s.waitsBefore x y then x :: y :: ys else y :: ins x ys
  ((s.basin b).waits ++ (rangeFrom (22 * b) 22).filterMap s.taskWait).foldl (fun l x => ins x l) []

/-- Take a unit off its list, the dispatcher's pointer behind core c, its last member's (log entry 90). -/
def State.placedOn (s : State) (e : Waiting) (c : Nat) : State :=
  s.updBasin e.basin fun x => { x with waits := x.waits.erase e, corePtr := (localOf c + 1) % 22 }

/-- Place the members of a unit on distinct cores: the state and the last core, or none. -/
def State.placeMembers (s : State) (lid : Nat) (n : Need) (cores : List Nat) : List Nat → List Nat → Option (State × Nat)
  | [], used => some (s, used.headD 0)
  | wix :: rest, used =>
    match (cores.filter fun c => !used.contains c).findSome? fun c => (s.fit c n false).map (c, ·) with
    | none => none
    | some (c, f) => (s.startWg lid wix c f).placeMembers lid n cores rest (c :: used)

/-- Banks to wake so that the members would fit, by core; none when waking does not help (R199). -/
def State.wakePlan (s : State) (n : Need) (cores : List Nat) : Nat → List Nat → Option (List (Nat × List (Nat × Role)))
  | 0, _ => some []
  | k + 1, used =>
    let free := cores.filter fun c => !used.contains c && !s.waking c
    match (free.find? fun c => (s.fit c n false).isSome).orElse fun _ => free.find? fun c => (s.fit c n true).isSome with
    | none => none
    | some c => (s.wakePlan n cores k (c :: used)).map fun l =>
        match s.fit c n false with
        | some _ => l
        | none => (c, ((s.fit c n true).map (·.wakes)).getD []) :: l

/-- Wake banks for a unit, which remembers the cores: while they wake, none are woken for it elsewhere (R199). -/
def State.wakeFor (s : State) (e : Waiting) (n : Need) (cores : List Nat) (size : Nat) : Option State :=
  if e.woken.any s.waking then none
  else match s.wakePlan n cores size [] with
    | some (p :: ps) =>
      let t := (p :: ps).foldl (fun s q => s.wakeBanks q.1 n.region q.2) s
      some (t.updBasin e.basin fun x => { x with waits := x.waits.map fun q =>
        if q = e then { q with woken := (p :: ps).map (·.1) } else q })
    | _ => none

/-- Place a unit of a grid whole, or wake the banks it needs; none when neither can be done (R196, R197, R199). -/
def State.placeUnit (s : State) (e : Waiting) : Option State :=
  match s.grids.look e.grid with
  | none => none
  | some g =>
    let cores := s.coresFor e
    match s.placeMembers e.grid g.need cores (rangeFrom e.first e.size) [] with
    | some (t, c) => some (t.placedOn e c)
    | none => s.wakeFor e g.need cores e.size

/-- Restore a saved workgroup from its list, or wake the banks it needs. -/
def State.restoreUnit (s : State) (e : Waiting) (w : Nat) : Option State :=
  let n := s.needOf w
  let cores := s.coresFor e
  match cores.findSome? fun c => (s.fit c n false).map (c, ·) with
  | some (c, f) => (s.restoreOrLose w c f).map fun s => s.placedOn e c
  | none => s.wakeFor e n cores 1

/-- What serving a waiting unit would do. -/
def State.serve (s : State) (e : Waiting) : Option State :=
  if e.task then e.core.bind s.startTask
  else match e.restore with
    | some w => s.restoreUnit e w
    | none => if s.startsOn then s.placeUnit e else none

/-- The first unit of a basin's lists that can be served, and what that does (R201). -/
def State.nextUnit (s : State) (b : Nat) : Option (Waiting × State) :=
  (s.waitOrder b).findSome? fun e => (s.serve e).map (e, ·)

/-- Serve the first unit of a basin's lists, if it is one of those meant. -/
def State.serveNext (s : State) (b : Nat) (mine : Waiting → Bool) : State :=
  match s.nextUnit b with
  | some (e, t) => if mine e then t else s
  | none => s

/-- WORKGROUP_PLACE (R196 to R201): the first unit of the lists that can be placed, when it is one of a grid. -/
def execWorkgroupPlace (basin : Nat) (s : State) : Host.Outcome State Fault Refusal :=
  .next (s.serveNext basin fun e => e.restore.isNone && !e.task)

/-- WORKGROUP_RESTORE (R207): a saved workgroup whose turn it is. -/
def execWorkgroupRestore (workgroup : Nat) (s : State) : Host.Outcome State Fault Refusal :=
  .next (match s.wgs.look workgroup with
    | some x => s.serveNext (basinOf x.core) fun e => e.restore == some workgroup && !e.task
    | none => s)

/-- TASK_START (R177, R180): the record at the head of the bucket is discarded where its region or its kernel can run nothing, else started
when its turn comes among what waits for the core (R201). -/
def execTaskStart (core : Nat) (s : State) : Host.Outcome State Fault Refusal :=
  if !bit (s.reg 0 .steppecfg) 63 || !s.startsOn then .next s
  else match s.bucketHead core with
  | none => .next s
  | some r =>
    let drop (s : State) : State := { s with steppe := s.steppe.erase r }
    let turn (s : State) : State := s.serveNext (basinOf core) fun e => e.task && e.core == some core
    match r.saved with
    | some w => .next (if ((s.wgs.look w).map (·.exited)).getD true then drop s else turn s)
    | none =>
      if !s.regionUsable r.region then .next (drop s)
      else match s.kernel (r.who core) r.code.toNat with
      | (none, s) => .next s
      | (some none, s) => .next ((drop s).machineEvent (basinOf core) 8 r.region r.code.toNat)
      | (some (some _), s) => .next (turn s)

/-- Windows of a glen in ascending order of slab (R200). -/
def State.windowsIn (s : State) (c glen : Nat) : List (Nat × Group) :=
  let rec ins (x : Nat × Group) : List (Nat × Group) → List (Nat × Group)
    | [] => [x]
    | y :: ys => if x.2.slabs.headD 0 < y.2.slabs.headD 0 then x :: y :: ys else y :: ins x ys
  ((s.liveOn c).filter fun p => p.2.pipe / 16 == glen).foldl (fun l x => ins x l) []

/-- The first unit waiting for a core. -/
def State.firstFor (s : State) (c : Nat) : Option Waiting :=
  (s.waitOrder (basinOf c)).find? fun e => (s.coresFor e).contains c

/-- What a waiting unit needs of a core, where the dispatcher knows it. -/
def State.unitNeed (s : State) (e : Waiting) : Option Need :=
  match e.restore with
  | some w => some (s.needOf w)
  | none =>
    if e.task then (e.core.bind s.bucketHead).bind fun r =>
      match s.kernel ((r.who (e.core.getD 0)).peek) r.code.toNat with
      | (some (some (hd, bs)), _) => some (taskNeed r hd (bs.headD []))
      | _ => none
    else (s.grids.look e.grid).map (·.need)

/-- Whether a glen is to be compacted for n slabs (R200). -/
def State.compacts (s : State) (c glen n : Nat) : Bool :=
  let space := s.slabSpace c glen
  let used := s.slabsUsed c
  n ≤ (space.filter fun x => !used.contains x).length && (freeRuns used n space).isEmpty
    && !(s.core c).compact.contains glen && ((s.core c).sliding.look glen).isNone
    && !((s.core c).reqs.any fun q => q.banks.any fun b => b < 80 && b / 10 == glen)
    && !(s.core c).moves.any fun m => s.moveGlen m == some glen

/-- The glens of a core to be compacted, and for how many slabs: only when the first unit waiting for the core can neither be
placed nor have banks woken for it (R199, R200). -/
def State.compactable (s : State) (c : Nat) : List (Nat × Nat) :=
  match s.firstFor c with
  | none => []
  | some e => match s.unitNeed e with
    | none => []
    | some n =>
      let glens := (List.range 8).filter fun g => s.compacts c g (slabsFor n.count)
      if glens.isEmpty || s.waking c || (s.serve e).isSome then [] else glens.map fun g => (g, slabsFor n.count)

/-- Go on with an attempt to compact a glen (R200): the next window is to be moved to the lowest free slabs below it, or the attempt
ends, and is not made again when no run fits. -/
def State.slide (s : State) (c glen : Nat) (a : Slide) : State :=
  let space := s.slabSpace c glen
  let used := s.slabsUsed c
  let fits := !(freeRuns used a.want space).isEmpty
  let ended (s : State) : State := s.updCore c fun k =>
    { k with sliding := k.sliding.del glen, compact := if fits then k.compact else glen :: k.compact }
  if fits || 256 ≤ a.moved then ended s
  else match a.rest with
  | [] => ended s
  | gid :: rest =>
    let set (a : Slide) (s : State) : State := s.updCore c fun k => { k with sliding := k.sliding.set glen a }
    match (s.liveOn c).find? fun p => p.1 == gid with
    | none => set { a with rest := rest } s
    | some (_, g) => match (freeRuns used g.slabs.length space).head? with
      | some r =>
        if r.headD 0 < g.slabs.headD 0 then
          (set { a with rest := rest, moved := a.moved + g.slabs.length } s).updCore c fun k =>
            { k with moves := k.moves ++ [{ group := gid, dest := r, req := none }] }
        else set { a with rest := rest } s
      | none => set { a with rest := rest } s

/-- GLEN_COMPACTION (R200): an attempt begins, or the one in progress goes on once its last move has ended. -/
def execGlenCompaction (core glen : Nat) (s : State) : Host.Outcome State Fault Refusal :=
  .next (match (s.core core).sliding.look glen with
    | some a => if (s.core core).moves.any fun m => s.moveGlen m == some glen then s else s.slide core glen a
    | none => match (s.compactable core).find? fun p => p.1 == glen with
      | some (_, n) => s.updCore core fun k =>
          { k with sliding := k.sliding.set glen { want := n, rest := (s.windowsIn core glen).map (·.1), moved := 0 } }
      | none => s)

/-- QUANTUM_EXPIRY (R205). -/
def execQuantumExpiry (workgroup : Nat) (s : State) : Host.Outcome State Fault Refusal :=
  .next (match s.wgs.look workgroup with
    | some x =>
      if x.saved == .resident && !x.exited && !x.task && x.resident + s.quantum x.region ≤ s.time then
        s.updWg workgroup fun x => { x with yieldable := true }
      else s
    | none => s)

/-- A save of the dispatcher into its basin's pool (R206, R207): none while it waits, or when a save that found no room has not
been acknowledged.  EN gates quantum saves alone (log entry 80). -/
def State.poolSave (s : State) (w : Nat) (needEn : Bool) : Option State :=
  match s.wgs.look w with
  | none => none
  | some x =>
    let b := basinOf x.core
    let q := s.reg b .ctxpool
    if bit q 62 || (needEn && !bit q 63) then none
    else if (s.poolPlace b (s.recordSize w)).isNone then some ((s.setReg b .ctxpool (setBits q 62 1 1)).machineEvent b 7 0 0)
    else (s.saveToPool w (.pool s.time)).map fun t => t.updBasin b fun y => { y with waits := y.waits ++ [
        { grid := x.launch, first := x.wix, size := 1, restore := some w, basin := b, core := none, since := s.time, woken := [],
          task := false }] }

/-- Whether a unit waits that can neither be placed nor is having banks woken for it. -/
def State.shutOut (s : State) (e : Waiting) : Bool := !e.woken.any s.waking && (s.serve e).isNone

/-- The machine as placement would find it once workgroup w had been saved, whatever the save still has to wait for. -/
def State.without (s : State) (w : Nat) : State :=
  match s.wgs.look w with
  | none => s
  | some x =>
    let s := (s.ownershipHome w).updCore x.core fun k =>
      { k with moves := k.moves.filter fun m => m.group / 32 != w
               segMoves := k.segMoves.filter fun m => m.wg != w
               mxe := if k.mxe.holder == some w then { k.mxe with holder := none } else k.mxe }
    s.updWg w fun x => { x with saved := .pool s.time 0, segMap := [] }

/-- Whether a unit could be served once workgroup w has gone (R205). -/
def State.frees (s : State) (w : Nat) (e : Waiting) : Bool := s.shutOut e && ((s.without w).serve e).isSome

/-- The heads of the lists that a core serves (R201). -/
def State.heads (s : State) (c : Nat) : List Waiting :=
  let l := s.waitOrder (basinOf c)
  (l.find? fun e => e.core.isNone).toList ++ (l.find? fun e => e.core == some c).toList

/-- A yieldable workgroup (R205). -/
def Workgroup.mayYield (x : Workgroup) : Bool := x.yieldable && x.saved == .resident && !x.exited && !x.task

/-- Whether a yieldable workgroup is the one saved for a head (R205): of those whose going lets it be placed, the one of the lowest class,
then the one resident longest. -/
def State.yieldsTo (s : State) (w : Nat) (x : Workgroup) (e : Waiting) : Bool :=
  let before (y : Workgroup) : Bool := s.pclass y.region < s.pclass x.region
    || (s.pclass y.region == s.pclass x.region && y.resident < x.resident)
  s.frees w e && !s.wgs.any fun p =>
    p.1 != w && p.2.mayYield && basinOf p.2.core == basinOf x.core && before p.2 && s.frees p.1 e

/-- Whether a workgroup is to be saved for a head of the lists (R205), or for the engine it holds (R345). -/
def State.wantsCore (s : State) (w : Nat) : Bool :=
  match s.wgs.look w with
  | none => false
  | some x =>
    let e := (s.core x.core).mxe
    (e.holder == some w && !e.waiters.isEmpty) || (s.heads x.core).any (s.yieldsTo w x)

/-- QUANTUM_SAVE (R205, R345). -/
def execQuantumSave (workgroup : Nat) (s : State) : Host.Outcome State Fault Refusal :=
  .next (match s.wgs.look workgroup with
    | some x => if x.mayYield && s.wantsCore workgroup then (s.poolSave workgroup true).getD s else s
    | none => s)

/-- Whether a packet or unit that can be neither taken nor placed waits, for which a workgroup of region r may be yield-saved (R209). -/
def State.yieldFor (s : State) (r b : Nat) : Bool :=
  ((s.basin b).waits.any fun e => e.restore.isNone && (match s.grids.look e.grid with
      | some g => (s.chain 17 g.region).contains r
      | none => false) && s.shutOut e)
    || (List.range 4).any fun d => 1024 ≤ s.descriptors d && (s.sources d).any fun q =>
        match (readPacket d q true).outcome s with
        | (.ok p, _) => (s.chain 17 (packetRegion (p.getD 0 0#64).toNat)).contains r
        | (.error _, _) => false

/-- YIELD_SAVE (R209). -/
def execYieldSave (workgroup : Nat) (s : State) : Host.Outcome State Fault Refusal :=
  .next (match s.wgs.look workgroup with
    | some x =>
      if x.saved == .resident && !x.exited && !x.task && s.allBlocked workgroup 0 && s.yieldFor x.region (basinOf x.core) then
        (s.poolSave workgroup false).getD s
      else s
    | none => s)

/-- Change a pipe's turn; pipes are numbered core × 128 + pipe. -/
def State.updPipe (s : State) (key : Nat) (f : Pipe → Pipe) : State :=
  s.updCore (key / 128) fun k =>
    { k with pipes := k.pipes.set (key % 128) (f ((k.pipes.look (key % 128)).getD { group := none, count := 0, last := 0, busy := 0 })) }

/-- TURN_LIMIT (R203): after 64 issues the turn ends, outside a hold window. -/
def execTurnLimit (pipe : Nat) (s : State) : Host.Outcome State Fault Refusal :=
  let inWindow : Bool := (s.onPipe pipe).any fun p => p.2.window.isSome
  .next (s.updPipe pipe fun p => if 64 ≤ p.count && !inWindow then { p with group := none, count := 0 } else p)

/-- STARVED_TURN (R204): the ready group that has not issued for 65,536 cycles or more, the longest waiting of its pipe, gets the next
turn, once the present one has ended. -/
def execStarvedTurn (group : Nat) (s : State) : Host.Outcome State Fault Refusal :=
  .next (match s.group? group with
    | some g =>
      if s.starved g.pipeKey == some group && !(s.onPipe g.pipeKey).any fun p => p.2.window.isSome || s.keepsTurn g.pipeKey p then
        s.updPipe g.pipeKey fun p => { p with group := some group, count := 0 }
      else s
    | none => s)

/-- ENTRY_AGE_LIMIT (R170): the entry that has issued 1,024 times in a row gives way, in `pickThread`, to the one that has waited
longest; the count stands at its limit until that one issues. -/
def execEntryAgeLimit (group : Nat) (s : State) : Host.Outcome State Fault Refusal :=
  .next (s.updGroup group fun g => { g with row := min g.row 1024 })

/-- The lanes of the entry a lane stands in (R168). -/
def Group.entryMates (g : Group) (lane : Nat) : List Nat :=
  match g.thread? lane with
  | none => []
  | some t => (List.range 32).filter fun l => match g.thread? l with
      | some u => !u.exited && u.pc == t.pc && u.prio == t.prio
      | none => false

/-- The timeout of one lane's wait on an empty line (R70): the trap the thread takes when it next issues. -/
def State.febOver (s : State) (group lane : Nat) : State :=
  match s.group? group, (s.thread? group lane).bind (·.feb) with
  | some g, some f =>
    if s.resident g && s.lineEmpty { wg := f.wg, addr := f.addr } && f.since + s.febTimeout (s.regionOf g) < s.clockOf (s.regionOf g) then
      let sel := if f.wg == g.wg then 0xFF else s.rankOf f.wg
      let t : LaneTrap := { trapOf .febtimeout (BitVec.ofNat 64 (sel * 2 ^ 24 + f.addr)) with hold := f.hold }
      (s.updGroup group fun g => { g with stall := none }).updThread group lane fun th => { th with feb := none, failed := some t }
    else s
  | _, _ => s

/-- FEB_TIMEOUT (R70): a wait on a line that has stayed empty ends in a trap; the lanes of the entry whose time is over end theirs
with it, in one issue (R402). -/
def execFebTimeout (group lane : Nat) (s : State) : Host.Outcome State Fault Refusal :=
  .next (match s.group? group with
    | some g => (g.entryMates lane).foldl (fun s l => s.febOver group l) s
    | none => s)

/-- The timeout of one lane's blocking wait (R185), not while another lane's trap holds it. -/
def State.waitOver (s : State) (group lane : Nat) : State :=
  match s.group? group, (s.thread? group lane).bind (·.wait) with
  | some g, some w =>
    if s.overdue group lane && !s.waitMet g w then
      (s.unregister group lane).updThread group lane fun th =>
        { th with wait := none, failed := some (trapOf .waittimeout w.tval) }
    else s
  | _, _ => s

/-- WAIT_TIMEOUT (R185): a blocking wait that has lasted WAITTO ends in a trap at its instruction; the lanes of the entry whose time is
over end theirs with it, in one issue (R402). -/
def execWaitTimeout (group lane : Nat) (s : State) : Host.Outcome State Fault Refusal :=
  .next (match s.group? group with
    | some g => (g.entryMates lane).foldl (fun s l => s.waitOver group l) s
    | none => s)

/-- TIMEAT_RELEASE (R321): the waits of a group for a time that has come end. -/
def execTimeatRelease (group : Nat) (s : State) : Host.Outcome State Fault Refusal :=
  let done (w : Wait) : Bool := match w.what with
    | .time t => t ≤ s.time && w.outcome.isNone
    | _ => false
  .next (s.updGroup group fun g => { g with threads := g.threads.map fun (p : Nat × Thread) =>
    (p.1, { p.2 with wait := p.2.wait.map fun w => if done w then { w with outcome := some (0, 0#64) } else w }) })

/-- A start time that has come no longer holds its command (R211). -/
def started (now : Nat) (t : Option Nat) : Option Nat := t.bind fun x => if x ≤ now then none else some x

/-- TIMED_START (R211): the command's start time has come. -/
def execTimedStart (workgroup number : Nat) (s : State) : Host.Outcome State Fault Refusal :=
  let now := s.time
  let s := s.updWg workgroup fun x => { x with copies := x.copies.map fun q => if q.num == number then
    { q with slices := q.slices.map fun l => { l with start := started now l.start } } else q }
  .next { s with ranks := s.ranks.map fun r => { r with colls := r.colls.map fun c =>
    if c.wg == workgroup && c.num == number then { c with start := started now c.start } else c } }

/-- BUDGET_PERIOD (R210): each share is renewed, an excess carried over; what waited is tried again. -/
def execBudgetPeriod (basin : Nat) (s : State) : Host.Outcome State Fault Refusal :=
  let left (p : Nat × Nat) : Option (Nat × Nat) :=
    match s.activityShare (p.1 / 4) (p.1 % 4) with
    | some q => if q < p.2 then some (p.1, p.2 - q) else none
    | none => none
  .next (s.updBasin basin fun x => { x with spent := x.spent.filterMap left })

end Sys2Proof.Machine
end

