-- ==== Sys2Proof/Machine/Debug.lean ====
section
/-! DEFINITION. The debug unit (R433 to R444): DBGCMD, watchpoints, the check of a halt's capability, PC samples, and the trap of an
illegal encoding (R230). -/
namespace Sys2Proof.Machine

/-- Fields of a written DBGCMD word (R435). -/
def dbgCap (c : Nat) : Nat := bits c 48 8
def dbgHolder (c : Nat) : Nat := bits c 28 20
def dbgTarget (c : Nat) : Nat := bits c 8 20
def dbgArg (c : Nat) : Nat := bits c 0 8

/-- A command ends with STAT (R435). -/
def State.dbgEnd (s : State) (stat : Nat) : State := s.setReg 0 .dbgcmd (stat * 2 ^ 56)

/-- Whether a command's capability grants a right to its holder (R435). -/
def State.dbgGrants (s : State) (c right : Nat) : Bool :=
  match s.capability (dbgTarget c) (dbgCap c) with
  | some (h, rights) => h == dbgHolder c && bit rights right
  | none => false

/-- The name in DBGNAME0 to DBGNAME3 (R436). -/
def State.dbgName (s : State) : Nat := (List.range 4).foldl (fun n i => n + bits (s.reg 0 (.dbgname i)) 0 32 * 2 ^ (32 * i)) 0

/-- The live thread of a region's subtree that has a name (R433, R435): its group and lane. -/
def State.dbgThread (s : State) (region name : Nat) : Option (Nat × Nat) :=
  (s.groups.filter fun p => !p.2.exited && (s.chain 17 (s.regionOf p.2)).contains region).findSome? fun p =>
    ((p.2.lanesOf.filter fun q => !q.2.exited).find? fun q => s.logicalName p.2 q.1 == name).map fun q => (p.1, q.1)

/-- DBGCMD_HALT (R437). -/
def execDbgcmdHalt (command : Nat) (s : State) : Host.Outcome State Fault Refusal :=
  .next (s.afterTable (.dbgcmdHalt command) (dbgTarget command) [dbgCap command] (if s.dbgGrants command 0 then (s.haltRegion (dbgTarget command) (some (dbgCap command))).dbgEnd 0 else s.dbgEnd 1))

/-- End a region's halt, with those that HALT or a debugger has set below it (R437, R438): its groups that no ancestor's halt holds run
again, their first instruction raises no WATCH, and the waits of the resident ones go on from where they stood. -/
def State.resumeRegion (s : State) (r : Nat) : State :=
  let old := s
  let s := (s.subtree r).foldl (fun s q => s.updRegion q fun x => { x with halt := none }) s
  let wake (p : Nat × Group) : Nat × Group :=
    let q := old.regionOf p.2
    if !(old.chain 17 q).contains r || !old.haltedRegion q then p
    else
      let here := ((old.wgs.look p.2.wg).map fun w => w.saved == .resident).getD false
      let d := if here then s.clockOf q - old.clockOf q else 0
      let free := !s.haltedRegion q
      (p.1, { p.2 with
        stepOnce := p.2.stepOnce && !free
        threads := p.2.threads.map fun (t : Nat × Thread) => (t.1, { t.2 with
          nowatch := t.2.nowatch || free
          wait := t.2.wait.map fun w => { w with since := w.since + d }
          feb := t.2.feb.map fun f => { f with since := f.since + d } }) })
  { s with groups := s.groups.map wake }

/-- DBGCMD_RESUME (R438). -/
def execDbgcmdResume (command : Nat) (s : State) : Host.Outcome State Fault Refusal :=
  .next (s.afterTable (.dbgcmdResume command) (dbgTarget command) [dbgCap command] (if s.dbgGrants command 1 then (s.resumeRegion (dbgTarget command)).dbgEnd 0 else s.dbgEnd 1))

/-- DBGCMD_STEP (R438): the named thread's group may issue one instruction. -/
def execDbgcmdStep (command : Nat) (s : State) : Host.Outcome State Fault Refusal :=
  .next (s.afterTable (.dbgcmdStep command) (dbgTarget command) [dbgCap command] (if !s.dbgGrants command 4 then s.dbgEnd 1
    else if !s.haltedRegion (dbgTarget command) then s.dbgEnd 2
    else match s.dbgThread (dbgTarget command) s.dbgName with
    | none => s.dbgEnd 3
    | some (gid, _) => (s.updGroup gid fun g => { g with stepOnce := true }).dbgEnd 0))

/-- The register word of an ARG: the group's own, never the terrace's (R435). -/
def Group.ownV (g : Group) (lane r : Nat) : RegWord := g.regs.get zeroWord (r * 32 + lane)

/-- DBGCMD_READ (R435). -/
def execDbgcmdRead (command : Nat) (s : State) : Host.Outcome State Fault Refusal :=
  let give (v stat : Nat) : State := (s.setReg 0 .dbgdata v).dbgEnd stat
  .next (s.afterTable (.dbgcmdRead command) (dbgTarget command) [dbgCap command] (if !s.dbgGrants command 5 then s.dbgEnd 1
    else if !s.haltedRegion (dbgTarget command) then s.dbgEnd 2
    else match s.dbgThread (dbgTarget command) s.dbgName with
    | none => s.dbgEnd 3
    | some (gid, lane) =>
      match s.group? gid, s.thread? gid lane with
      | some g, some t =>
        let a := dbgArg command
        if a < 96 then
          (if g.count ≤ a then s.dbgEnd 4
           else if (g.ownV lane a).poisoned || (g.ownV lane a).bad then give 0 4
           else give (g.ownV lane a).val.toNat 0)
        else if a == 96 then give (bits t.pc.toNat 0 32) 0
        else if a == 97 then give (bits t.pc.toNat 32 32) 0
        else if a == 98 then give t.prio.toNat 0
        else s.dbgEnd 4
      | _, _ => s.dbgEnd 3))

/-- A thread that the debugger has moved: it joins the entry of its new PC and priority, no hint and no wait of the old instruction
with it (R435). -/
def Thread.moved (t : Thread) (pc : DWord) (prio : BitVec 8) : Thread :=
  { t with pc := pc, prio := prio, hint := none, wait := none, feb := none, failed := none, memwait := false, began := none }

/-- DBGCMD_WRITE (R435). -/
def execDbgcmdWrite (command : Nat) (s : State) : Host.Outcome State Fault Refusal :=
  let v := bits (s.reg 0 .dbgdata) 0 32
  .next (s.afterTable (.dbgcmdWrite command) (dbgTarget command) [dbgCap command] (if !s.dbgGrants command 6 then s.dbgEnd 1
    else if !s.haltedRegion (dbgTarget command) then s.dbgEnd 2
    else match s.dbgThread (dbgTarget command) s.dbgName with
    | none => s.dbgEnd 3
    | some (gid, lane) =>
      match s.group? gid with
      | none => s.dbgEnd 3
      | some g =>
        let a := dbgArg command
        if a < 96 then
          (if g.count ≤ a then s.dbgEnd 4
           else (s.updGroup gid fun g => { g with
             regs := g.regs.set (a * 32 + lane) (regWord (BitVec.ofNat 32 v)), vdeps := g.vdeps.del (a * 32 + lane) }).dbgEnd 0)
        else if a == 96 then (s.setReg 0 .dbgpc v).dbgEnd 0
        else if a == 97 then
          let pc := v * 2 ^ 32 + s.reg 0 .dbgpc
          if pc % 4 != 0 then s.dbgEnd 4
          else ((s.unregister gid lane).updThread gid lane fun t => t.moved (BitVec.ofNat 64 pc) t.prio).dbgEnd 0
        else if a == 98 then ((s.unregister gid lane).updThread gid lane fun t => t.moved t.pc (BitVec.ofNat 8 v)).dbgEnd 0
        else s.dbgEnd 4))

/-- DBGWPB_WRITE (R440): EN stays 0 without a valid entry that grants WATCH. -/
def execDbgwpbWrite (watchpoint value : Nat) (s : State) : Host.Outcome State Fault Refusal :=
  let ok : Bool := match s.capability (bits value 40 20) (bits value 32 8) with
    | some (_, rights) => bit rights 3
    | none => false
  .next (if watchpoint < 16 then
      s.afterTable (.dbgwpbWrite watchpoint value) (bits value 40 20) (if bit value 63 then [bits value 32 8] else [])
        (s.setReg 0 (.dbgwpb watchpoint) (if bit value 63 && !ok then setBits value 63 1 0 else value))
    else s)

/-- CAPABILITY_RECHECK (R438): a region halted under a capability that has been revoked is resumed. -/
def execCapabilityRecheck (region : Nat) (s : State) : Host.Outcome State Fault Refusal :=
  .next (match (s.region? region).bind (·.halt) with
    | some (some c, _) => s.afterTable (.capabilityRecheck region) region [c]
        (if (s.capability region c).isNone then s.resumeRegion region else s)
    | _ => s)

/-- The lowest valid entry of a region's table that grants SAMPLE: its holder (R444). -/
def State.sampler (s : State) (region : Nat) : Option Nat := (s.routeOf region 7).map (·.2)

/-- The resident groups of a core in turn: those after the last one sampled first. -/
def State.sampleOrder (s : State) (c : Nat) : List (Nat × Group) :=
  let gs := s.liveOn c
  let last := (s.core c).sampleGrp
  (gs.filter fun p => last < p.1) ++ gs.filter fun p => p.1 ≤ last

/-- PC_SAMPLE (R444): the record of one resident group of a core whose region grants samples. -/
def execPcSample (core : Nat) (s : State) : Host.Outcome State Fault Refusal :=
  if !bit (s.reg 0 .sampctl) 31 then .next s
  else match (s.sampleOrder core).findSome? fun p =>
      let r := s.regionOf p.2
      match s.tableWaits r (List.range (s.dcCount r)) with
      | some t => some (Except.error t)
      | none => (s.sampler r).map fun h => Except.ok (p, h) with
    | none => .next s
    | some (.error t) => .next (t.defer (.pcSample core))
    | some (.ok ((gid, g), holder)) =>
      let lane := match s.entry g with
        | l :: _ => l
        | [] => ((g.lanesOf.find? fun p => !p.2.exited).map (·.1)).getD 0
      let pc := ((g.thread? lane).map (·.pc.toNat)).getD 0
      let reason := (g.counted.map (·.ctorIdx)).getD 0xFF
      let r := Config.sample (s.logicalName g lane) pc reason holder (s.time % 2 ^ 32)
      .next ((s.updCore core fun x => { x with sampleGrp := gid }).ringWrite 0 .sampqbase .sampqptr 14 10 32 [r % 2 ^ 256])

/-- ILLEGAL_ENCODING (R230, R231): the entry that issues would issue an illegal word; every thread of it traps. -/
def execIllegalEncoding (word reason : Nat) (s : State) : Host.Outcome State Fault Refusal :=
  match s.issuer with
  | none => .fault .noIssuer
  | some (gid, g, lanes) =>
    let x := s.issueOf gid g lanes
    let failed := s.failedLanes gid lanes
    .next (if failed.isEmpty then s.illop gid g lanes x.first (word % 2 ^ 32) (reason % 256) else s.takeFailed x failed)

end Sys2Proof.Machine
end

