-- ==== Sys2Proof/Machine/Directory.lean ====
section
/-! DEFINITION. The region directory: registering, changing and removing a region (R158 to R162), and killing one (R163). -/
namespace Sys2Proof.Machine

/-- Bytes the part itself reads at a physical address, as a number: memory at its home, anything else as stored. Poisoned bytes
are taken as stored: the spec gives RCBUPD no outcome for them (DESIGN CHOICE, log entry 81). -/
def State.partRead (s : State) (pa n : Nat) : Nat :=
  if isMain pa then
    match (agentReadN pa n).outcome s with
    | (.ok (bs, _), _) => bytesToNat bs
    | (.error _, _) => s.paNat pa n
  else s.paNat pa n

/-- The directory entry of a region (R158). -/
def State.dirEntry (s : State) (region : Nat) : Nat := s.partRead (bits (s.reg 0 .rgndir) 23 29 * 2 ^ 23 + 8 * region) 8

/-- The words of an RCB, with the RCB's own address as word 32. -/
def State.rcbWords (s : State) (pa : Nat) : NMap DWord :=
  ((List.range 32).map fun i => (i, BitVec.ofNat 64 (s.partRead (pa + 8 * i) 8))) ++ [(32, BitVec.ofNat 64 pa)]

/-- WHY 1 (R159, R162): a reserved bit, or a field outside its stated range. -/
def rcbRange (e : Nat) (w : Nat → Nat) : Bool :=
  bits e 52 11 != 0 || bits e 0 8 != 0
    || bits (w 0) 16 25 != 0 || bits (w 0) 13 3 != 0 || bits (w 1) 52 12 != 0 || bits (w 1) 0 8 != 0
    || bits (w 2) 52 12 != 0 || bits (w 2) 0 12 != 0 || bits (w 3) 57 7 != 0 || bits (w 3) 0 5 != 0
    || bits (w 4) 42 22 != 0 || 512 < bits (w 4) 32 10 || bits (w 4) 16 16 != 0 || bits (w 5) 32 32 != 0
    || bits (w 8) 0 16 != 0 || bits (w 12) 52 4 != 0 || bits (w 12) 0 8 != 0
    || bits (w 13) 57 7 != 0 || bits (w 13) 0 12 != 0 || bits (w 14) 48 16 == 1 || bits (w 14) 32 16 != 0
    || bits (w 15) 57 7 != 0 || bits (w 15) 0 12 != 0
    || (rangeFrom 20 12).any fun i => w i != 0

/-- WHY 3 (R162): the parent, its chain of at most 16 ancestors, for the region's registered descendants too. -/
def State.rcbChain (s : State) (region parentPa : Nat) : Bool :=
  match s.regionAt parentPa with
  | none => true
  | some p =>
    let up := s.chain 40 p
    let below := (s.subtree region).foldl (fun m r => max m ((s.chain 40 r).takeWhile (· != region)).length) 0
    up.contains region || 16 < up.length + below

/-- WHY 4 (R162): what keeps a region from being unregistered. -/
def State.rcbBusy (s : State) (region : Nat) : Bool :=
  let sub := s.subtree region
  s.groups.any (fun p => !p.2.exited && sub.contains (s.regionOf p.2)) || s.steppe.any (fun r => sub.contains r.region)
    || s.grids.any (fun p => sub.contains p.2.region) || sub.any (fun r => r != region)

/-- The first reason to refuse an update, in R162's check order, whatever VALID is (log entry 32). -/
def State.rcbWhy (s : State) (region e : Nat) (words : NMap DWord) (clr : Bool) : Option Nat :=
  let w (i : Nat) : Nat := (words.get 0#64 i).toNat
  let parent := bits (w 1) 8 44 * 256
  let valid := bit e 63
  let dead : Bool := ((s.region? region).map (·.dead)).getD false
  if rcbRange e w then some 1
  else if bits (w 0) 44 20 != region || (region == 0) != (parent == 0) then some 2
  else if region != 0 && s.rcbChain region parent then some 3
  else if !valid && s.rcbBusy region then some 4
  else if (dead && !clr) || (valid && (s.region? region).isNone && (rangeFrom 16 4).any fun i => w i != 0) then some 5
  else none

/-- Clear the fault record of a DEAD region and of the descendants whose fault arose in it (R162). -/
def State.clearFault (s : State) (region : Nat) : State :=
  match s.region? region with
  | some x =>
    if x.dead then
      let mine := (s.subtree region).filter fun r =>
        r == region || ((s.region? r).map fun y => y.dead && y.origin.toNat == region).getD false
      mine.foldl (fun s r => (s.updRegion r fun y =>
        { y with dead := false, posted := false, cause := 0#8, origin := 0#20, ftime := 0#64 }).faultWrite r) s
    else s
  | none => s

/-- An update is asked for (R162): ignored while BUSY, refused with WHY, or in progress. -/
def State.rcbAsk (s : State) (region : Nat) (clr : Bool) : State :=
  if bit (s.reg 0 .rcbupd) 63 || 2 ^ 20 ≤ region then s
  else
    let e := s.dirEntry region
    let words := s.rcbWords (bits e 8 44 * 256)
    match s.rcbWhy region e words clr with
    | some why => s.setReg 0 .rcbupd (2 ^ 62 + why * 2 ^ 56)
    | none =>
      let s := if clr then s.clearFault region else s
      { s with rcbPend := some { id := region, words := words, remove := !bit e 63 } }.setReg 0 .rcbupd (2 ^ 63)

/-- RCBUPD_UPDATE (R162). -/
def execRcbupdUpdate (region : Nat) (s : State) : Host.Outcome State Fault Refusal := .next (s.rcbAsk region false)

/-- RCBUPD_CLRFAULT (R162). -/
def execRcbupdClrfault (region : Nat) (s : State) : Host.Outcome State Fault Refusal := .next (s.rcbAsk region true)

/-- RCBUPD_APPLY (R162): every basin takes the new values, and BUSY clears. -/
def execRcbupdApply (s : State) : Host.Outcome State Fault Refusal :=
  match s.rcbPend with
  | none => .next s
  | some p =>
    let s := { s with rcbPend := none }.setReg 0 .rcbupd 0
    if p.remove then .next { s with regions := s.regions.del p.id }
    else
      let x := (s.region? p.id).getD .fresh
      .next { s with regions := s.regions.set p.id { x with words := p.words } }

/-- RGNKILL (R163), of a region that is not registered without effect (log entry 89). -/
def execRgnkill (region : Nat) (s : State) : Host.Outcome State Fault Refusal := .next (s.fatalFault region 0xFF)

end Sys2Proof.Machine
end

