-- ==== Sys2Proof/Machine/Stacks.lean ====
section
/-! DEFINITION. The stacks and expanders at work: channel retirement and rebuild (R109 to R112), CXL containment (R118, R119),
sealed storage (R121 to R125). -/
namespace Sys2Proof.Machine

/-- Row segments the rebuild of k retirements places (R110, R111). -/
def rebuildSize (k : Nat) : Nat := rowsPerChannel * k

/-- Retire a channel (R109 to R112): one of the first eight starts a rebuild, a later one degrades the stack. -/
def State.retire (s : State) (stack ch : Nat) : State :=
  let t := s.stack stack
  if t.retired.contains ch then s
  else
    let retired := t.retired ++ [ch]
    let t : StackState :=
      if retired.length ≤ 8 then { t with retired := retired, remain := rebuildSize retired.length }
      else { t with retired := retired, degraded := ch :: t.degraded }
    (s.setStack stack t).machineEvent (stack / 2) 4 0 (stack * 2 ^ 9 + ch)

/-- Perform queued retirements while no rebuild runs (R109). -/
def State.retireQueued (s : State) (stack : Nat) : Nat → State
  | 0 => s
  | fuel + 1 =>
    let t := s.stack stack
    match t.queued with
    | c :: cs => if t.remain == 0 then ((s.setStack stack { t with queued := cs }).retire stack c).retireQueued stack fuel else s
    | [] => s

/-- Poison the row segments of a channel from `first` on (R111). -/
def State.loseRows (s : State) (stack ch first : Nat) : State :=
  let s := (rangeFrom first (rowsPerChannel - first)).foldl (fun s seg =>
    (List.range 32).foldl (fun s i => s.poisonStored (storageKey stack ch seg (64 * i))) s) s
  s.setStack stack { s.stack stack with lost := (ch, first, rowsPerChannel - first) :: (s.stack stack).lost }

/-- A second failure in a parity group before its rebuild ends (R105, R111): the segments not yet rebuilt are lost in both. -/
def State.secondFailure (s : State) (stack ch : Nat) : State :=
  let t := s.stack stack
  -- nothing of a queued retirement has been rebuilt
  let s := (t.queued.filter fun c => c / 32 == ch / 32 && c != ch).foldl (fun s c => (s.loseRows stack c 0).loseRows stack ch 0) s
  match t.retired.getLast? with
  | some c =>
    if t.remain != 0 && c / 32 == ch / 32 && c != ch then
      let before := (t.retired.filter fun r => r < c).length * rowsPerChannel
      let done := rebuildSize t.retired.length - t.remain
      let first := min rowsPerChannel (done - before)
      (s.loseRows stack c first).loseRows stack ch first
    else s
  | none => s

/-- A retirement arises (R109): performed, or queued behind a rebuild, whose group may lose data by it (R111). -/
def State.retireAsk (s : State) (stack ch : Nat) : State :=
  let t := s.stack stack
  if 8 ≤ stack || 512 ≤ ch || t.retired.contains ch || t.queued.contains ch then s
  else
    let s := s.secondFailure stack ch
    if t.remain == 0 then s.retire stack ch
    else s.setStack stack { s.stack stack with queued := t.queued ++ [ch] }

/-- HBMCTL_RETIRE (R109, R112). -/
def execHbmctlRetire (stack channel : Nat) (s : State) : Host.Outcome State Fault Refusal := .next (s.retireAsk stack channel)

/-- CHANNEL_TRAINING_FAIL (R109). -/
def execChannelTrainingFail (stack channel : Nat) (s : State) : Host.Outcome State Fault Refusal :=
  .next (s.retireAsk stack channel)

/-- The repairs counted against a channel within the last second (R106, R109). -/
def State.repairsOf (s : State) (stack ch : Nat) : Nat :=
  (((s.stack stack).repairs.get [] ch).filter fun t => s.time < t + 1000000000).length

/-- A channel whose repairs have reached 64 within a second is retired (R109). -/
def State.repairLimit (s : State) (stack ch : Nat) : State := if 64 ≤ s.repairsOf stack ch then s.retireAsk stack ch else s

/-- A burst of a stack that on-die ECC cannot correct, if one strikes (R106): repaired from its parity group and counted against the
channel, or delivered as a poisoned sector where the repair fails too. -/
def State.burst (s : State) (stack : Nat) : State :=
  let (k, s) := s.takeFree
  let n := Config.bursts k
  let ch := n / 4 % 512
  match n % 4 with
  | 0 =>
    let t := s.stack stack
    (s.setStack stack { t with repairs := t.repairs.set ch ((s.time :: t.repairs.get [] ch).take 64) }).repairLimit stack ch
  | 1 => s.poisonStored (storageKey stack ch (n / 2048 % rowsPerChannel) (64 * (n / 2048 / rowsPerChannel % 32)))
  | _ => s

/-- In each ms a burst of a stack may fail. -/
def State.bursts (s : State) : State :=
  if s.time % 1000000 == 0 && s.time != 0 then (List.range 8).foldl State.burst s else s

/-- REPAIR_LIMIT (R109). -/
def execRepairLimit (stack channel : Nat) (s : State) : Host.Outcome State Fault Refusal := .next (s.repairLimit stack channel)

/-- REBUILD_SEGMENT (R111): one row segment is placed; after the last, a queued retirement is performed. -/
def execRebuildSegment (stack : Nat) (s : State) : Host.Outcome State Fault Refusal :=
  let t := s.stack stack
  let s := s.setStack stack { t with remain := t.remain - 1 }
  .next (s.retireQueued stack (t.queued.length + 1))

/-- The lines of a port's window that any basin holds. -/
def State.windowLines (s : State) (port : Nat) : List Nat :=
  ((List.range 4).map fun b => ((s.basin b).rdc.keys ++ (s.basin b).dir.keys).filter fun l => cxlPortOf l == some port).flatten.eraseDups

/-- A port enters containment (R119): outstanding requests end, cached copies of its window are lost, instruction lines too, the event
is raised.  A viral received while it is contained is still noted. -/
def State.contain (s : State) (port cause : Nat) : State :=
  let b := port / 4
  let w := s.reg b (.cxlctl (port % 4))
  if bit w 30 then (if cause == 4 then s.setReg b (.cxlctl (port % 4)) (setBits w 29 1 1) else s)
  else
    let w := setBits w 30 1 1
    let w := if cause == 4 then setBits w 29 1 1 else w
    let lines := s.windowLines port
    let s := (s.setReg b (.cxlctl (port % 4)) w)
    let s := lines.foldl (fun s l => (List.range 4).foldl (fun s h => s.loseLine h l) s) s
    let s := s.updBasin b fun x => { x with leases := x.leases.filter fun g => cxlPortOf g.line != some port }
    -- outstanding requests end with LINKDOWN, which each that waits has still to take
    let s := { s with cxlReqs := s.cxlReqs.map fun (q : CxlReq) => if q.port == port then { q with down := true } else q
                      cores := s.cores.map fun (p : Nat × Core) =>
                        (p.1, { p.2 with icache := p.2.icache.filter fun q => cxlPortOf q.1 != some port }) }
    s.machineEvent b 3 0 (port + cause * 2 ^ 8)

/-- The completion timeout of a port in ns (R119). -/
def State.portTimeout (s : State) (port : Nat) : Nat := 1000 * bits (s.reg (port / 4) (.cxlctl (port % 4))) 0 10

/-- The link of a port goes down: both its registers say so, and the speed and width are gone (R411). -/
def State.linkLost (s : State) (port : Nat) : State :=
  let b := port / 4
  let w := s.reg b (.rpctl (port % 4))
  (s.setReg b (.rpctl (port % 4)) (setBits (setBits w 30 1 0) 10 10 0)).setReg b (.cxlctl (port % 4))
    (setBits (s.reg b (.cxlctl (port % 4))) 28 1 0)

/-- CXL_TIMEOUT (R119). -/
def execCxlTimeout (port : Nat) (s : State) : Host.Outcome State Fault Refusal :=
  if s.cxlReqs.any fun q => q.port == port && !q.ready && !q.down && q.since + s.portTimeout port ≤ s.time then .next (s.contain port 1) else .next s

/-- CXL_LINK_EVENT (R119): cause 2 link down, 3 DPC, 4 viral, 5 a fatal AER error. -/
def execCxlLinkEvent (port cause : Nat) (s : State) : Host.Outcome State Fault Refusal :=
  if 16 ≤ port || cause < 2 || 5 < cause then .next s
  else
    let s := if cause == 2 || cause == 3 then s.linkLost port else s
    let b := port / 4
    let s := if cause == 3 then s.setReg b (.rpctl (port % 4)) (setBits (s.reg b (.rpctl (port % 4))) 29 1 1) else s
    .next (s.contain port cause)

/-- CXLCTL_RESUME (R119). -/
def execCxlctlResume (port : Nat) (s : State) : Host.Outcome State Fault Refusal :=
  let w := s.reg (port / 4) (.cxlctl (port % 4))
  if port < 16 && bit w 30 && bit w 28 then .next (s.setReg (port / 4) (.cxlctl (port % 4)) (setBits w 29 2 0)) else .next s

/-- A completion of a port's device answers its oldest request, or one that containment has completed already, which discards it: where
both stand, which of them it answers is free (R119). -/
def State.cxlAnswered (s : State) (port : Nat) : Option CxlReq × State :=
  let mine := s.cxlReqs.filter fun q => q.port == port && !q.ready
  match mine.find? (·.down), mine.find? (fun q => !q.down) with
  | some q, some r =>
    let (n, s) := s.takeFree
    (some (if Config.arrival n % 2 == 0 then q else r), s)
  | some q, none => (some q, s)
  | none, r => (r, s)

/-- CXL_MEM_COMPLETION (R118, R119): a request of the port has its line, poisoned or not; a contained port discards it. -/
def execCxlMemCompletion (port poisoned : Nat) (s : State) : Host.Outcome State Fault Refusal :=
  match s.cxlAnswered port with
  | (none, s) => .next s
  | (some q, s) =>
    if q.down then
      let rest := s.cxlReqs.map fun (r : CxlReq) => if r = q then { r with ready := true } else r
      .next { s with cxlReqs := rest.filter fun r => !(r.down && r.ready && r.askers.isEmpty) }
    else if s.contained port then .next s
    else
    let s := if poisoned != 0 then (s.poisonSector (lineKey q.line)).poisonSector (lineKey q.line + 64) else s
    if q.dev then .next { s with cxlReqs := s.cxlReqs.map fun (r : CxlReq) => if r = q then { r with ready := true } else r }
    else
      let s := { s with cxlReqs := s.cxlReqs.filter fun r => !(r.port == port && r.line == q.line && !r.dev && !r.down) }
      let s := s.rdcRoom (port / 4) q.line
      let line : RdcLine := { data := 0#1024, dirty := 0#128, poison := 0#128, write := false, expiry := 0, len := 0, region := 0 }
      .next (s.updBasin (port / 4) fun x => { x with rdc := x.rdc.set q.line line })

/-- The lines of a frame of a stack's view-3 eighth. -/
def sealLines (stack frame : Nat) : List Nat := frameLines ((3 * 2 ^ 40 + stack * 2 ^ 37) / 4096 + frame)

/-- KEY_SLOT_LOAD (R121, R122): the slot's generation rises; frames written under its old key no longer match their tags. -/
def execKeySlotLoad (slot : Nat) (s : State) : Host.Outcome State Fault Refusal :=
  if 256 ≤ slot || !s.firmware then .next s
  else
    let s := { s with keyGen := s.keyGen.set slot (s.keyGen.get 0#16 slot + 1#16) }
    .next ((List.range 8).foldl (fun s k =>
      let q := s.seal k
      let old := (q.frames.filter fun f => f.2.slot == slot).map fun f => sealLines k f.1
      s.setSeal k { q with badTag := old.flatten.foldl insertNat q.badTag }) s)

/-- Zero the data of a frame: copies and leases are given up, no sector is poisoned, no tag mismatched. -/
def State.zeroFrame (s : State) (stack frame : Nat) : State :=
  let ls := sealLines stack frame
  let s := ls.foldl (fun s l => (List.range 4).foldl (fun s h => (List.range 22).foldl (fun s i => s.dropCopy (22 * h + i) l)
    (s.updBasin h fun x => { x with dir := x.dir.del l, rdc := x.rdc.del l,
                                    leases := x.leases.filter fun g => g.line != l })) s) s
  let s := ls.foldl (fun s l => ((s.rawWrite (lineKey l) (natToBytes 128 0)).cleanSector (lineKey l)).cleanSector (lineKey l + 64)) s
  s.setSeal stack { s.seal stack with badTag := (s.seal stack).badTag.filter fun l => !ls.contains l }

/-- Begin a SEALCTL command: BUSY, with ERR as it ends. -/
def State.sealBusy (s : State) (stack : Nat) (refused : Bool) : State :=
  s.setReg (stack / 2) (.sealctl (stack % 2)) (2 ^ 59 + if refused then 2 ^ 58 else 0)

/-- Whether a SEALCTL command is in progress. -/
def State.sealIsBusy (s : State) (stack : Nat) : Bool := bit (s.reg (stack / 2) (.sealctl (stack % 2))) 59

/-- SEALCTL_REINIT (R125). -/
def execSealctlReinit (stack frame slot : Nat) (s : State) : Host.Outcome State Fault Refusal :=
  if 8 ≤ stack || s.sealIsBusy stack then .next s
  else
    let q := s.seal stack
    let w := s.reg (stack / 2) (.sealpool (stack % 2))
    let gen := (s.keyGen.get 0#16 (slot % 256)).toNat
    let same : Bool := ((q.frames.look frame).map fun f => f.slot == slot % 256 && f.gen == gen).getD false
    let inPool : Bool := bit w 63 && bits w 0 24 ≤ frame && frame < bits w 0 24 + bits w 24 24
    if same || q.nodeExhausted frame || !inPool then .next (s.sealBusy stack true)
    else
      let s := s.zeroFrame stack frame
      let q := s.seal stack
      .next ((s.setSeal stack { q with frames := q.frames.set frame { major := 0, minors := [], slot := slot % 256, gen := gen }
                                       reenc := q.reenc.erase frame }).sealBusy stack false)

/-- SEALCTL_POOLINIT (R125): the epoch rises, every frame and node of the pool is zeroed. -/
def execSealctlPoolinit (stack : Nat) (s : State) : Host.Outcome State Fault Refusal :=
  if 8 ≤ stack || s.sealIsBusy stack then .next s
  else
    let w := s.reg (stack / 2) (.sealpool (stack % 2))
    let frames := if bit w 63 then rangeFrom (bits w 0 24) (bits w 24 24) else []
    let s := frames.foldl (fun s f => s.zeroFrame stack f) s
    let q := s.seal stack
    .next ((s.setSeal stack { q with epoch := q.epoch + 1#17, frames := [], nodes := [], reenc := [], initing := true }).sealBusy stack false)

/-- SEAL_COMMAND_DONE (R125): BUSY clears, and accesses to a pool that was being initialised go on. -/
def execSealCommandDone (stack : Nat) (s : State) : Host.Outcome State Fault Refusal :=
  .next ((s.setSeal stack { s.seal stack with initing := false }).setReg (stack / 2) (.sealctl (stack % 2))
    (setBits (s.reg (stack / 2) (.sealctl (stack % 2))) 59 1 0))

end Sys2Proof.Machine
end

