-- ==== Sys2Proof/Machine/Fabric.lean ====
section
/-! DEFINITION. Root ports and endpoints (R411 to R417, R466), interrupt messages (R385, R386), NTB peers (R418). -/
namespace Sys2Proof.Machine

/-- The value that stands for no PASID in an endpoint event. -/
def noPasid : Nat := 2 ^ 20

/-- The master id of an endpoint's request (R40). -/
def endpointMaster (port requester pasid : Nat) : Nat :=
  3 * 2 ^ 44 + (if pasid < noPasid then 2 ^ 40 + pasid else 0) + port % 16 * 2 ^ 36 + requester % 2 ^ 16 * 2 ^ 20

/-- The PASID table entry that binds a request (R414): none is answered Unsupported Request, one with a reserved bit set is none (R6). -/
def State.pasidEntry (s : State) (port pasid : Nat) : Option Nat :=
  let b := port / 4
  let e : Option Nat :=
    if pasid < noPasid then
      let t := s.reg b (.pasidtab (port % 4))
      if bit t 63 && pasid < 2 ^ min 20 (bits t 0 5) then some (s.paNat (bits t 12 40 * 4096 + 8 * pasid) 8) else none
    else some (s.reg b (.pasidnone (port % 4)))
  e.filter fun e => bit e 63 && bits e 20 41 == 0

/-- On whose behalf an endpoint's request is checked (R40, R415). -/
def endpointWho (port requester pasid region : Nat) : Who :=
  { region := region, master := endpointMaster port requester pasid, basin := port / 4, core := none, sup := region == 0, queued := true }
def endpointVia (port requester pasid region : Nat) : Via :=
  engineVia (22 * (port / 4)) region (2 ^ 41 + endpointMaster port requester pasid)

/-- A root port's AER logs an error (R412). -/
def State.aerLog (s : State) (port rid status : Nat) : State := { s with aer := s.aer ++ [{ port := port, rid := rid, status := status }] }

/-- Reply to an endpoint or a peer; AER logs an endpoint's Unsupported Request or Completer Abort (R414, R415). -/
def State.reply (s : State) (port rid status data : Nat) : State :=
  let s := { s with replies := s.replies ++ [{ port := port, rid := rid, status := status, data := data }] }
  if port < 16 && (status == 1 || status == 2) then s.aerLog port rid status else s

/-- An outstanding non-posted request ends: a store that its group's release waits for is complete, or lost with a late trap (R46, R87,
R120); anything else has its completion, a refusal by an endpoint logged by AER (R466). -/
def State.finishReq (s : State) (q : BarReq) (status data : Nat) : State :=
  if q.op == storeOp then
    let s := { s with barReqs := s.barReqs.filter fun r => r.id != q.id }
    let h := BitVec.ofNat 64 q.cmp
    if status == 0 then s
    else if status == 3 then (s.fabricLog (basinOf q.core) q.pa 0).lateTrap q.group q.lanes .accessdeny h q.id
    else s.lateTrap q.group q.lanes .linkdown h q.id
  else
    let s := if status == 1 && q.peer.isNone then s.aerLog q.port 0 3 else s
    { s with barReqs := s.barReqs.map fun r => if r.id == q.id then { r with result := some (status, data) } else r }

/-- A port loses its link (R413, R466): requests outstanding there complete LINKDOWN, and it enters containment. -/
def State.portDown (s : State) (port : Nat) (dpc : Bool) : State :=
  let b := port / 4
  let s := s.linkLost port
  let s := if dpc then s.setReg b (.rpctl (port % 4)) (setBits (s.reg b (.rpctl (port % 4))) 29 1 1) else s
  let s := (s.barReqs.filter fun q => q.port == port && q.result.isNone).foldl (fun s q => s.finishReq q 2 0) s
  s.contain port (if dpc then 3 else 2)

/-- A request that no PASID entry binds is answered Unsupported Request and logged by AER (R414), and its port enters DPC (R412). -/
def State.unbound (s : State) (port requester : Nat) : State := (s.reply port requester 1 0).portDown port true

/-- An access of an endpoint or a peer at a translated address (R415, R418): kind 0 a read, 1 a write, 2 FetchAdd, 3 Swap, 4
Compare-and-Swap with the swap value in the high 64 bits of `value` (its compare value in the low). -/
def outsideAccess (w : Who) (v : Via) (x : Xlat) (kind size value : Nat) : M Nat := do
  if kind == 0 then do
    let (bs, bad) ← engineLoadAt w v x size
    if bad then err .poison
    pure (bytesToNat bs)
  else if kind == 1 then do
    engineStoreAt w v x (natToBytes size value) false
    pure 0
  else do
    modS fun s => s.breakChain false 0 (keyOf x.pa) size
    let op := if kind == 2 then 0 else if kind == 3 then 6 else 7
    let typ := if size == 8 then 3 else 1
    let home : Bool := match targetOf x.pa with
      | .hbm _ => true
      | _ => false
    match ← atomicAt v { x with dev := x.dev || home } op typ (if kind == 4 then value / 2 ^ 64 else value) (value % 2 ^ 64) with
    | some old => pure old
    | none => err .poison

/-- A request by physical address carries no seal flag, so a pool frame denies it (R121). -/
def unsealed (pa : Nat) : M Unit := do
  let s ← getS
  if isMain pa && (s.poolFrame (keyOf pa)).isSome then err .deny

/-- The access kind of R14 of a request. -/
def outsideKind (kind : Nat) : Kind := if kind == 0 then .load else if kind == 1 then .store else .atomic

/-- A request as PCI Express forms it (log entry 51): atomics of 4 or 8 aligned bytes, reads and writes of up to 4,096 bytes that cross no
4,096-byte boundary of their own address. -/
def outsideOk (kind addr size : Nat) : Bool :=
  if 2 ≤ kind then kind ≤ 4 && (size == 4 || size == 8) && addr % size == 0 else size != 0 && addr % 4096 + size ≤ 4096

/-- ENDPOINT_REQUEST (R414 to R416): kinds 0 to 4 carry a handle address, 8 to 12 are translated and carry a physical one. -/
def execEndpointRequest (port requester pasid kind handle size value : Nat) (s : State) : Host.Outcome State Fault Refusal :=
  if 16 ≤ port || !outsideOk (kind % 8) handle size then .next s
  else match s.pasidEntry port pasid with
  | none => .next (s.unbound port requester)
  | some e =>
    let region := bits e 0 20
    let w := endpointWho port requester pasid region
    let v := endpointVia port requester pasid region
    let go : M Nat := do
      if kind < 8 then do
        if (s.region? region).isNone then trapM .bufowner
        -- VBASE is 256-byte aligned: every page of virtual memory that the range meets is translated (R17, R18)
        let parts ← M.mapEach (fun (p : Nat × Nat × Xlat) => do
            let d ← outsideAccess w v p.2.2 kind p.2.1 (value / 2 ^ (8 * p.1))
            pure (d * 2 ^ (8 * p.1))) (← reachPieces w handle size (outsideKind kind))
        pure (parts.foldl (· + ·) 0)
      else do
        matCheck w handle (outsideKind (kind % 8))
        unsealed handle
        let x : Xlat := { pa := handle, h := handle, dev := !isMain handle, check := false, g := false, enc := false, badKey := false,
                          por := false }
        outsideAccess w v x (kind % 8) size value
    match (wholeUnit go).outcome s with
    | (.ok d, t) => .next (if kind % 8 == 1 then t else t.reply port requester 0 d)
    | (.error (.stall _), t) | (.error (.feb _ _), t) =>
      .next (t.defer (.endpointRequest port requester pasid kind handle size value))
    | (.error _, t) => .next (t.reply port requester 2 0)

/-- The rights and the page a Translation Request gives (R416): bit 0 R, bit 1 W, bits 51:12 the frame. -/
def atsAnswer (w : Who) (handle : Nat) : M Nat := do
  let s ← getS
  let i := handle / 2 ^ 48
  if i == 0 || i > s.btCount w.region || (s.region? w.region).isNone then trapM .nullbuf
  let e ← bteOf w i handle
  let va := bteVbase e + handle % 2 ^ 48
  let first := va / 4096 * 4096
  if !bteValid e || first < bteVbase e || bteVbase e + bteLength e < first + 4096 then trapM .bufbound
  let h := i * 2 ^ 48 + (first - bteVbase e)
  let rd := bit e 153
  let x ← (if rd then translate w h 4096 .load else translate w h 4096 .store)
  let s ← getS
  let wr : Bool := if !bit e 154 then false else match (translate w h 4096 .store).outcome s with
    | (.ok _, _) => true
    | (.error _, _) => false
  pure (x.pa / 4096 * 4096 + (if rd then 1 else 0) + (if wr then 2 else 0))

/-- ATS_TRANSLATION_REQUEST (R416): the endpoint then holds a translation of the region. -/
def execAtsTranslationRequest (port requester pasid handle : Nat) (s : State) : Host.Outcome State Fault Refusal :=
  if 16 ≤ port then .next s
  else if (s.pasidEntry port pasid).isNone then .next (s.unbound port requester)
  else match (s.pasidEntry port pasid).filter fun e => bit e 62 with
  | none => .next (s.reply port requester 1 0)
  | some e =>
    match (atsAnswer (endpointWho port requester pasid (bits e 0 20)) handle).outcome s with
    | (.ok d, t) =>
      let h := (port, requester, bits e 0 20)
      .next ({ t with atsHeld := if t.atsHeld.contains h then t.atsHeld else t.atsHeld ++ [h] }.reply port requester 0 d)
    | (.error (.stall _), t) => .next (t.defer (.atsTranslationRequest port requester pasid handle))
    | (.error _, t) => .next (t.reply port requester 0 0)

/-- The page requests of a function that are not answered yet (R412): 64 may be. -/
def State.pagesOut (s : State) (port requester : Nat) : Nat :=
  ((s.basin (port / 4)).pfq.map fun r => (r.pages.filter fun p => p == (port, requester)).length).foldl (· + ·) 0

/-- The virtual address a page request names (R416): from the buffer's entry, or the offset alone where there is none to read (log entry
51). -/
def pageVa (w : Who) (handle : Nat) : M Nat := fun s =>
  match bteOf w (handle / 2 ^ 48) handle s with
  | .ok e t => .ok (bteVbase e + handle % 2 ^ 48) t
  | .error (.stall r) t => .error (.stall r) t
  | .error _ t => .ok (handle % 2 ^ 48) t

/-- PRI_PAGE_REQUEST (R416): a page-fault record with the endpoint as its master, which the record's response answers; a request that
would not fault has a record too, its subcode free, and each request counts in WAITERS (log entry 51). -/
def execPriPageRequest (port requester pasid handle write : Nat) (s : State) : Host.Outcome State Fault Refusal :=
  if 16 ≤ port then .next s
  else if (s.pasidEntry port pasid).isNone then .next (s.unbound port requester)
  else match (s.pasidEntry port pasid).filter fun e => bit e 61 with
  | none => .next (s.reply port requester 1 0)
  | some e =>
    let region := bits e 0 20
    let w := endpointWho port requester pasid region
    let later (s : State) : State := s.defer (.priPageRequest port requester pasid handle write)
    let record (s : State) (root va bufidx cls sub : Nat) : State :=
      let (id, t) := s.park w.basin region w.master root va bufidx cls sub
      t.updBasin w.basin fun x => { x with pfq := x.pfq.map fun r =>
        if r.id == id then { r with pages := r.pages ++ [(port, requester)] } else r }
    let kind : Kind := if write != 0 then .store else .load
    let go : M Nat := do
      if (s.region? region).isNone then trapM .bufowner
      let _ ← translate w handle 1 kind
      pageVa w handle
    if 64 ≤ s.pagesOut port requester then .next (later s)
    else match go.outcome s with
    | (.error (.fault sub root va bufidx cls _), t) => .next (record t root va bufidx cls sub)
    | (.error (.stall _), t) => .next (later t)
    | (_, t) => match pageVa w handle t with
      | .ok va t =>
        let (d, t) := t.detail
        .next (record t (t.ptRoot region) va (handle / 2 ^ 48) kind.cls (d % 2 ^ 8))
      | .error _ t => .next (later t)

/-- ATS_INVAL_TIMEOUT (R417): the endpoint is cut off, and the fences that wait for it count it as done. -/
def execAtsInvalTimeout (port requester : Nat) (s : State) : Host.Outcome State Fault Refusal :=
  if s.atsWaits.any fun q => q.port == port && q.rid == requester && q.since + 1000000 ≤ s.time then
    .next ({ s with atsWaits := s.atsWaits.filter fun q => !(q.port == port && q.rid == requester) }.portDown port true)
  else .next s

/-- ATS_INVALIDATION_COMPLETION (R38). -/
def execAtsInvalidationCompletion (port requester : Nat) (s : State) : Host.Outcome State Fault Refusal :=
  .next { s with atsWaits := s.atsWaits.filter fun q => !(q.port == port && q.rid == requester) }

/-- Complete an outstanding non-posted request. -/
def State.barDone (s : State) (request status data : Nat) : State :=
  match s.barReqs.find? fun q => q.id == request && q.result.isNone with
  | some q => s.finishReq q status data
  | none => s

/-- BAR_REQUEST_TIMEOUT (R413). -/
def execBarRequestTimeout (request : Nat) (s : State) : Host.Outcome State Fault Refusal :=
  if s.barReqs.any fun q => q.id == request && q.since + s.portTimeout q.port ≤ s.time then .next (s.barDone request 2 0) else .next s

/-- ROOT_PORT_COMPLETION (R466): status 0 a success, 1 Unsupported Request or Completer Abort, 2 LINKDOWN, 3 an address that
nothing forwards. -/
def execRootPortCompletion (request status data : Nat) (s : State) : Host.Outcome State Fault Refusal :=
  .next (s.barDone request (min status 3) data)

/-- PCIE_LINK_DOWN (R413, R466). -/
def execPcieLinkDown (port dpc : Nat) (s : State) : Host.Outcome State Fault Refusal :=
  if 16 ≤ port then .next s else .next (s.portDown port (dpc != 0))

/-- LINK_TRAINED (R411): an enabled port that is not in containment; FLIT mode only at 64 and 128 GT/s (R412). -/
def execLinkTrained (port speed width flit : Nat) (s : State) : Host.Outcome State Fault Refusal :=
  let b := port / 4
  let w := s.reg b (.rpctl (port % 4))
  if 16 ≤ port || !bit w 31 || bit w 29 || speed == 0 || 7 < speed || width == 0 || 16 < width then .next s
  else
    let w := setBits (setBits (setBits (setBits w 30 1 1) 16 4 speed) 11 5 width) 10 1 (if flit == 0 || speed < 6 then 0 else 1)
    .next ((s.setReg b (.rpctl (port % 4)) w).setReg b (.cxlctl (port % 4)) (setBits (s.reg b (.cxlctl (port % 4))) 28 1 1))

/-- RPCTL_DPC_RELEASE (R411): the link retrains afterwards. -/
def execRpctlDpcRelease (port : Nat) (s : State) : Host.Outcome State Fault Refusal :=
  if 16 ≤ port then .next s
  else .next (s.setReg (port / 4) (.rpctl (port % 4)) (setBits (s.reg (port / 4) (.rpctl (port % 4))) 29 1 0))

/-- A message is dropped and counted in DROPS (R385, R386). -/
def State.iatDrop (s : State) : State :=
  let w := s.reg 0 .iatbase
  s.setReg 0 .iatbase (setBits w 0 21 (min (2 ^ 21 - 1) (bits w 0 21 + 1)))

/-- An entry that cannot be used for a message (R385, R386). -/
def iatBad (e requester : Nat) : Bool :=
  !bit e 127 || bits e 124 2 != 0 || bits e 64 7 != 0 || bits e 0 32 != 0 || bits e 108 16 == 0
    || (bit e 126 && (bits e 224 32 != 0 || bits e 216 8 != 0xFF)) || (bit e 71 && bits e 72 16 != requester)

/-- The barrier of a global entry (R385, R386), checked with atomic rights under the entry's region; of the target's access table, which
R446 has admit a requester's reads and writes, it asks those two (log entry 70). -/
def iatReach (w : Who) (addr : Nat) : M Loc := do
  let s ← getS
  if (s.region? w.region).isNone then trapM .bufowner
  if addr % 16 != 0 then trapM .misalign
  let x ← locate w addr 16 .atomic
  matCheck w x.pa .nmu
  sealCheck x.pa x.enc
  M.whenB (isMain x.pa) (lapseGate w.basin (lineOf (keyOf x.pa)) w.region)
  match targetOf x.pa with
  | .hbm _ => pure (globalLoc x.pa)
  | .cxl _ | .sysmem => if x.dev then trapM .bufrights else pure (globalLoc x.pa)
  | _ => trapM .bufrights

/-- MSIX_ARRIVAL (R386): port 16 stands for the part's own store or load to the window, which its target's MAT has admitted. -/
def execMsixArrival (port requester offset size : Nat) (s : State) : Host.Outcome State Fault Refusal :=
  let pa := 0xFFFFF00000000 + offset % 2 ^ 32
  let master := endpointMaster port requester noPasid
  -- the requester's earlier writes come first (R152)
  if port < 16 && (s.later ++ s.agenda).any (fun e => match e with
      | .endpointRequest p r pasid kind _ _ _ => p == port && r == requester && noPasid ≤ pasid && kind % 8 == 1
      | _ => false) then .next (s.defer (.msixArrival port requester offset size))
  else if port < 16 && !s.matAdmits 0 13 master pa 2 then .next (s.logDenial 0 13 master pa 1)
  else if !bit (s.reg 0 .iatbase) 63 || size != 4 || offset % 4 != 0 || 2 ^ 18 ≤ offset then .next s.iatDrop
  else
    let i := offset / 4
    let e := s.paNat (s.iatBase + 32 * i) 32
    if iatBad e requester then .next s.iatDrop
    else
      let count := bits e 108 16
      let region := bits e 88 20
      if bit e 126 then
        let h : Held := { entry := i, launch := bits e 160 32, wix := bits e 128 32, addr := bits e 192 24, count := count,
                          region := region }
        match s.heldTry h with
        | some t => .next t
        | none =>
          let b := basinOf (((s.wgs.find? fun p => p.2.launch == h.launch && p.2.wix == h.wix).map (·.2.core)).getD 0)
          if (s.basin b).held.length < 4096 then .next (s.updBasin b fun x => { x with held := x.held ++ [h] })
          else .next (s.iatLost i count)
      else
        let w : Who := { region := region, master := if port < 16 then master else Who.dispatcher region 0 false |>.master, basin := 0,
                         core := none, sup := region == 0, queued := true }
        let go : M (Option Nat) := do
          let l ← iatReach w (bits e 192 64)
          barArrive l count
        match go.outcome s with
        | (.ok (some _), t) => .next t
        | (.error (.stall _), t) => .next (t.defer (.msixArrival port requester offset size))
        | (.ok none, t) | (.error _, t) => .next (t.iatLost i count)

/-- The length of a lease that a peer module asks for (R92): its own region's, within the range (log entry 48). -/
def State.peerLen (s : State) (write : Bool) : Nat × State :=
  let (k, s) := s.takeFree
  (if write then clampTime (Config.peerLease k) 1000 10000000 20000 else clampTime (Config.peerLease k) 100 1000000 2000, s)

/-- Grant a peer module a lease on a line, if the home grants any (R92, R98): whether it did. -/
def peerLease (peer l : Nat) (write : Bool) : M Bool := do
  let home := homeOf (lineKey l)
  clearLeases l write (some (4, peer))
  modS fun s => s.recallAll home l (!write)
  let s ← getS
  let held := (s.basin home).leases.any fun q => q.hclass == 4 && q.holder == peer && q.line == l
  if s.drifting home || (!held && s.leasesFull l) || (write && s.watched l) then pure false
  else do
    M.whenB write (dxGate l)
    M.whenB write (exhaustGate (lineKey l))
    let (len, t) := (← getS).peerLen write
    modS fun _ => t
    let g : Lease := { hclass := 4, holder := peer, line := l, write := write, expiry := s.time + len + bits (s.reg home .lguard) 0 14,
                       region := 0 }
    modS fun s =>
      let s := if write then s.dirtyForExecute l else s
      s.updBasin home fun x => { x with leases := g :: x.leases.filter fun q => !(q.hclass == 4 && q.holder == peer && q.line == l) }
    pure true

/-- NTB_PEER_REQUEST (R40, R92, R418): kinds 0 to 4 as for an endpoint, 5 a read lease, 6 a write lease of the line.  A refusal is an
error completion (R46), without a target entered in the error log of the address's home, basin 0 where it has none (log entry 69); a line
without a lease is answered with status 5. -/
def execNtbPeerRequest (peer address kind size value : Nat) (s : State) : Host.Outcome State Fault Refusal :=
  let size := if 5 ≤ kind then 128 else size
  let home := homeOf (keyOf address)
  if 6 < kind || (if 5 ≤ kind then address % 128 != 0 || !isMain address else !outsideOk kind address size) then .next s
  else
    let w : Who := { region := 0, master := 4 * 2 ^ 44 + peer % 2 ^ 18, basin := home, core := none, sup := true }
    let v := { engineVia (22 * home) 0 (2 ^ 42 + peer) with peer := some (peer % 2 ^ 18) }
    let go : M (Nat × Nat) := do
      matCheck w address (if kind == 5 then .load else if kind == 6 then .store else outsideKind kind)
      let s ← getS
      unsealed address
      if s.lapsedFor home 4 (peer % 2 ^ 18) 0 then err .down
      if 5 ≤ kind then do
        let granted ← peerLease (peer % 2 ^ 18) (lineOf (keyOf address)) (kind == 6)
        let (bs, bad) ← agentReadN address 128 v.except
        if bad then err .poison
        pure (if granted then 0 else 5, bytesToNat bs)
      else do
        let x : Xlat := { pa := address, h := address, dev := !isMain address, check := false, g := false, enc := false, badKey := false,
                          por := false }
        let d ← outsideAccess w v x kind size value
        pure (0, d)
    match (wholeUnit go).outcome s with
    | (.ok (st, d), t) => .next (if kind == 1 then t else t.reply 16 peer st d)
    | (.error (.stall _), t) | (.error (.feb _ _), t) =>
      .next (t.defer (.ntbPeerRequest peer address kind size value))
    | (.error _, t) => .next (t.reply 16 peer 2 0)

end Sys2Proof.Machine
end

