-- ==== Sys2Proof/Machine/Homes.lean ====
section
/-! DEFINITION. The home's side of coherence as events of its own: misses, atomics, write-backs and recalls (R84, R86), scratchpad
operations and transfers (R90, R91), leases and what their end does (R92 to R98). -/
namespace Sys2Proof.Machine

/-- Whether a line is HBM4E or CXL memory, the memory that homes keep directories for. -/
def coherentLine (l : Nat) : Bool := isHbmKey (lineKey l) || (cxlPortOf l).isSome

/-- The operator and type pairs a U line may hold (R85, R310). -/
def redPair (op typ : Nat) : Bool := op ≤ 5 && typ ≤ 5 && (typ < 4 || op == 0)

/-- HOME_LOAD_MISS (R84). -/
def execHomeLoadMiss (core line : Nat) (s : State) : Host.Outcome State Fault Refusal :=
  if core < 88 && coherentLine line then .next ((homeLoadMiss core line 0).exec s) else .next s

/-- HOME_STORE_MISS (R84). -/
def execHomeStoreMiss (core line : Nat) (s : State) : Host.Outcome State Fault Refusal :=
  if core < 88 && coherentLine line then .next ((homeStoreMiss core line 0).exec s) else .next s

/-- HOME_RED_MISS (R84). -/
def execHomeRedMiss (core line op typ : Nat) (s : State) : Host.Outcome State Fault Refusal :=
  if core < 88 && coherentLine line && redPair op typ then .next ((homeRedMiss core line 0 op typ).exec s) else .next s

/-- An atomic of a core at the home of an aligned unit (R84, R309). -/
def homeAtomicBody (core key op typ value compare : Nat) : M Unit := do
  let b := basinOf core
  let z := typSize typ
  atHome b (lineOf key) true 0
  let (o, bad) ← backBytes b (lineOf key) (key % 128) z
  M.whenB (!bad) (backWrite b (lineOf key) (key % 128) (natToBytes z (atomicNew op typ (bytesToNat o) value compare)) false)

/-- HOME_ATOMIC (R84, R309). -/
def execHomeAtomic (core key op typ value compare : Nat) (s : State) : Host.Outcome State Fault Refusal :=
  if core < 88 && coherentLine (lineOf key) && op ≤ 7 && typ ≤ 5 && key % typSize typ == 0 then
    .next ((homeAtomicBody core key op typ value compare).exec s)
  else .next s

/-- WRITE_BACK (R84, R86): a core evicts its M or U copy, which the home merges or combines. -/
def execWriteBack (core line : Nat) (s : State) : Host.Outcome State Fault Refusal :=
  match (s.core core).cch.look line with
  | some x => .next (if x.state == .modified || x.state == .update then s.evict core line else s)
  | none => .next s

/-- RECALL (R84, R86): a core answers the home with its copy, or with none, and keeps no copy. -/
def execRecall (core line : Nat) (s : State) : Host.Outcome State Fault Refusal := .next (s.evict core line)

/-- An operation of the SHU that owns the segment (R90): op 0 to 7 an atomic, 8 a store of the type's size. -/
def shuBody (workgroup address op typ value compare : Nat) : M Unit := do
  let a ← scrResolve workgroup (0xFF000000 + address % 2 ^ 24) (typSize typ)
  if op == 8 then modS fun s => s.scrWrite a (natToBytes (typSize typ) value)
  else do
    let _ ← scrAtomic a op typ value compare
    pure ()

/-- SHU_OPERATION (R90). -/
def execShuOperation (workgroup address op typ value compare : Nat) (s : State) : Host.Outcome State Fault Refusal :=
  if op ≤ 8 && typ ≤ 5 && (typ < 4 || op == 0 || op == 8) && address % typSize typ == 0 then
    .next ((shuBody workgroup address op typ value compare).exec s)
  else .next s

/-- SEGMENT_TRANSFER (R91): steps 1 to 4 end, the directory names the new owner. -/
def execSegmentTransfer (workgroup segment : Nat) (s : State) : Host.Outcome State Fault Refusal :=
  .next (s.segTransfer workgroup segment)

/-- LEASE_REQUEST (R92 to R94): a basin asks for a read or write lease; it waits, is granted one, or is served without. -/
def execLeaseRequest (basin line write : Nat) (s : State) : Host.Outcome State Fault Refusal :=
  if basin < 4 && coherentLine line && homeOf (lineKey line) != basin then .next ((leaseRequest basin line (write != 0) 0).exec s)
  else .next s

/-- Holders as the lease events number them: a basin by its number, a peer module by 4 × 2^18 + its id. -/
def holderOf (n : Nat) : Nat × Nat := if n < 4 * 2 ^ 18 then (1, n) else (4, n - 4 * 2 ^ 18)

/-- Remove a holder's lease at the home. -/
def State.dropLease (s : State) (hclass holder l : Nat) : State :=
  s.updBasin (homeOf (lineKey l)) fun x =>
    { x with leases := x.leases.filter fun g => !(g.hclass == hclass && g.holder == holder && g.line == l) }

/-- LEASE_RELEASE_REQUEST (R93, R94): a basin writes back its dirty bytes and releases; a peer module is left to do so. -/
def execLeaseReleaseRequest (holder line : Nat) (s : State) : Host.Outcome State Fault Refusal :=
  if holder < 4 && homeOf (lineKey line) != holder then .next (s.holderRelease holder line) else .next s

/-- LEASE_RELEASE (R93): a holder's release arrives at the home. -/
def execLeaseRelease (holder line : Nat) (s : State) : Host.Outcome State Fault Refusal :=
  let (c, h) := holderOf holder
  if c == 1 && h < 4 && homeOf (lineKey line) != h then .next (s.holderRelease h line) else .next (s.dropLease c h line)

/-- HOLDER_LEASE_EXPIRY (R93, R95): a copy whose lease has ended on the holder's GTB is no longer used. -/
def execHolderLeaseExpiry (basin line : Nat) (s : State) : Host.Outcome State Fault Refusal := .next (s.dropExpired basin line)

/-- When the home lets go of a lease (R93, R98): with its own guard band doubled while it is beyond it. -/
def State.homeEnd (s : State) (b : Nat) (g : Lease) : Nat :=
  g.expiry + (if s.drifting b then bits (s.reg b .lguard) 0 14 else 0)

/-- A write lease that lapsed (R96): the holder's data is lost, the lapse counted and reported. -/
def State.lapse (s : State) (b : Nat) (g : Lease) : State :=
  let s := if g.hclass == 1 then s.loseLine g.holder g.line else s
  let x := s.basin b
  let arr : List (Nat × Nat) := if x.lapsers.contains (g.hclass, g.holder) then x.lapsers else (g.hclass, g.holder) :: x.lapsers
  let s := s.updBasin b fun x => { x with lapsers := arr }
  let idx : Option Nat := (x.lapses.find? fun p => p.2.hclass == g.hclass && p.2.holder == g.holder && p.2.region == g.region).map (·.1)
  let free : Option Nat := (List.range 64).find? fun k => (x.lapses.look k).isNone
  match idx.orElse fun _ => free with
  | some k =>
    let e : Lapse := (x.lapses.look k).getD { hclass := g.hclass, holder := g.holder, region := g.region, lines := 0 }
    (s.updBasin b fun x => { x with lapses := x.lapses.set k { e with lines := min (2 ^ 17 - 1) (e.lines + 1) } }).machineEvent b 2
      g.region (g.hclass * 2 ^ 36 + g.holder * 2 ^ 18 + k)
  | none =>
    -- no entry, so the index of the event is not stated
    let (k, s) := s.detail
    (s.setReg b .lapsectl (setBits (s.reg b .lapsectl) 63 1 1)).machineEvent b 2 g.region
      (g.hclass * 2 ^ 36 + g.holder * 2 ^ 18 + k % 64)

/-- HOME_LEASE_EXPIRY (R94, R96): the leases of a line that have ended at the home. -/
def execHomeLeaseExpiry (basin line : Nat) (s : State) : Host.Outcome State Fault Refusal :=
  let ended := (s.basin basin).leases.filter fun g => g.line == line && s.homeEnd basin g ≤ s.time
  let s := ended.foldl (fun s g => s.dropLease g.hclass g.holder g.line) s
  .next (ended.foldl (fun s g => if g.write then s.lapse basin g else s) s)

/-- An agent's uncertainty (R98): beyond the guard band it discards what it holds under leases. -/
def State.drift (s : State) (basin uncertainty : Nat) : State :=
  let s := s.updBasin basin fun x => { x with uncert := uncertainty }
  if s.drifting basin then
    let held := (s.basin basin).rdc.keys.filter fun l => homeOf (lineKey l) != basin
    (held.foldl (fun s l => s.loseLine basin l) s).machineEvent basin 1 0 (min uncertainty (2 ^ 64 - 1))
  else s

/-- LEASE_DRIFT (R98). -/
def execLeaseDrift (basin uncertainty : Nat) (s : State) : Host.Outcome State Fault Refusal :=
  .next (if basin < 4 then s.drift basin uncertainty else s)

/-- LAPSE_ENTRY_CLEAR (R96): VALID cleared. -/
def execLapseEntryClear (basin entry : Nat) (s : State) : Host.Outcome State Fault Refusal :=
  .next (s.updBasin basin fun x => { x with lapses := x.lapses.del entry })

/-- LAPSECTL_CLEAR (R97): ALLLAPSED cleared; valid entries keep theirs, and who has lapsed stays known. -/
def execLapsectlClear (basin : Nat) (s : State) : Host.Outcome State Fault Refusal :=
  .next (s.setReg basin .lapsectl (setBits (s.reg basin .lapsectl) 63 1 0))

end Sys2Proof.Machine
end

