-- ==== Sys2Proof/Machine/Range.lean ====
section
/-! DEFINITION. Prefetch, range operations, publication, full/empty control and segment ownership (R91, R101, R103, R304 to R306,
R311). -/
namespace Sys2Proof.Machine

/-- A request that waits as any does and that a failing check drops. -/
def dropped (m : M Unit) : M Unit := fun s =>
  match m s with
  | .error (.stall r) t => .error (.stall r) t
  | .ok _ t | .error _ t => .ok () t

/-- PREF (R304): as a load would bring the line (R33), a failing check dropping the request. -/
def execPref (p : BitVec 6) (s : State) : Host.Outcome State Fault Refusal :=
  perThread (.pref p) (fun x lane => do
    dropped (do
      let vs ← readOps x lane [(oAddr p false, true)]
      let h := wordsNat (vs.getD 0 []) / 128 * 128
      let s ← getS
      let g ← groupM x
      let a ← translate (s.whoOf g) h 128 .load
      if isMain a.pa && !a.dev && !a.por && !a.badKey then do
        let _ ← cchLoad g.core (lineOf (keyOf a.pa)) 0 1 (s.regionOf g)
        pure ())
    pure .next) s

/-- What a range operation does with the copies it sweeps (R103). -/
inductive Sweep where
  | wbr | invr | invd
  deriving DecidableEq, Repr

/-- INVD's discard in a core's copy: dirty bytes in the range, and touched U elements that meet it. -/
def State.discardCopy (s : State) (c l : Nat) (mask : BitVec 128) : State :=
  s.updCore c fun k => { k with cch := k.cch.upd l fun x =>
    let z := typSize x.typ
    let keep := (List.range (128 / z)).foldl (fun n i =>
      if bits mask.toNat (z * i) z == 0 then n + 2 ^ i else n) 0
    { x with dirty := x.dirty &&& ~~~mask, touched := x.touched &&& BitVec.ofNat 32 keep } }

/-- Sweep the copy of a line in one core's CCH. -/
def State.sweepCore (s : State) (op : Sweep) (c l : Nat) (mask : BitVec 128) : State :=
  match op with
  | .wbr => s.flushCopy (basinOf c) c l
  | .invr => s.evict c l
  | .invd => (s.discardCopy c l mask).evict c l

/-- Sweep a line in every CCH of a basin, and in its RDC. -/
def State.sweepBasin (s : State) (op : Sweep) (b l : Nat) (mask : BitVec 128) : State :=
  let s := s.dropExpired b l
  let s := (List.range 22).foldl (fun s i => s.sweepCore op (22 * b + i) l mask) s
  if homeOf (lineKey l) == b then
    -- the RDC of its home keeps the lines a CXL device has returned (R118)
    if op == .wbr then s else s.updBasin b fun x => { x with rdc := x.rdc.del l }
  else match op with
    | .wbr => (s.rdcFlush b l).settled b l
    | .invr => s.holderRelease b l
    | .invd => (s.updBasin b fun x => { x with rdc := x.rdc.upd l fun r => { r with dirty := r.dirty &&& ~~~mask } }).holderRelease b l

/-- Whether a copy of a line in core c's CCH has something to write back. -/
def State.copyDirty (s : State) (c l : Nat) : Bool :=
  match (s.core c).cch.look l with
  | some x => (x.state == .modified && x.dirty != 0#128) || (x.state == .update && x.touched != 0#32)
  | none => false

/-- Whether sweeping a line in the caches of a scope, 0 .wg to 3 .sys, sends data to its target (R14). -/
def State.writesBack (s : State) (scope core l : Nat) : Bool :=
  let b := basinOf core
  let home := homeOf (lineKey l)
  let basin (b : Nat) : Bool := (List.range 22).any (fun i => s.copyDirty (22 * b + i) l)
    || (((s.basin b).rdc.look l).map fun r => r.dirty != 0#128).getD false
  match scope with
  | 0 => home == b && s.copyDirty core l
  | 1 => basin b
  | _ => (List.range 4).any basin

/-- Sweep a line in the caches of a scope, 0 .wg to 3 .sys (R103). -/
def sweepLine (op : Sweep) (scope core l : Nat) (mask : BitVec 128) : M Unit := do
  match scope with
  | 0 => modS fun s => s.sweepCore op core l mask
  | 1 => modS fun s => s.sweepBasin op (basinOf core) l mask
  | _ => modS fun s => (List.range 4).foldl (fun s b => s.sweepBasin op b l mask) s
  let s ← getS
  M.whenB (scope == 3) (if s.peerConflict l true none then wait .memdep else pure ())

/-- The lines of a page piece with the bytes of the range in each. -/
def pieceLines (pa n : Nat) : List (Nat × BitVec 128) :=
  (paPieces pa n).map fun p => (p.2.1, maskOf p.2.2.1 p.2.2.2)

/-- Walk a range of handle addresses (R18, R103): the buffer's checks of the whole range, then every page's, in ascending order,
before the first page is acted on (R299). -/
def overRange (x : Iss) (h len : Nat) (kind : Kind) (f : Who → Xlat → Nat → M Unit) : M Unit := do
  let s ← getS
  let g ← groupM x
  let who := s.whoOf g
  let first ← atAddr (BitVec.ofNat 64 h) (translate who h len kind)
  let pieces := pagePieces first.pa (len / 4096 + 2) 0 len
  let xs ← M.mapEach (fun (p : Nat × Nat) => atAddr (BitVec.ofNat 64 (h + p.1)) (translate who (h + p.1) p.2 kind)) pieces
  M.forEach (fun (p : (Nat × Nat) × Xlat) => atAddr (BitVec.ofNat 64 (h + p.1.1)) (f who p.2 p.1.2)) (pieces.zip xs)

/-- Dirty data that a range operation writes back is written with the right of a store at its target, WR (R14). -/
def backCheck (who : Who) (a : Xlat) (n scope core : Nat) : M Unit := do
  let s ← getS
  M.whenB ((pieceLines a.pa n).any fun q => s.writesBack scope core q.1) (matCheck who a.pa .store)

/-- A range operation for a lane (R304). -/
def rangeOp (op : Sweep) (kind : Kind) (l : BitVec 7) (p : BitVec 6) (c : BitVec 2) (x : Iss) (lane : Nat) : M LaneEnd := do
  let vs ← readOps x lane [(oIn .len l 1, false), (oAddr p false, true)]
  let len := wordsNat (vs.getD 0 [])
  let h := wordsNat (vs.getD 1 [])
  let g ← groupM x
  M.whenB (len != 0) (overRange x h len kind fun who a n =>
    M.whenB (isMain a.pa) (do
      M.whenB (op != .invd) (backCheck who a n c.toNat g.core)
      M.forEach (fun (q : Nat × BitVec 128) => sweepLine op c.toNat g.core q.1 q.2) (pieceLines a.pa n)))
  pure .next

def execWbr (l : BitVec 7) (p : BitVec 6) (c : BitVec 2) (s : State) : Host.Outcome State Fault Refusal :=
  perThread (.wbr l p c) (rangeOp .wbr .wbr l p c) s
def execInvr (l : BitVec 7) (p : BitVec 6) (c : BitVec 2) (s : State) : Host.Outcome State Fault Refusal :=
  perThread (.invr l p c) (rangeOp .invr .wbr l p c) s
def execInvd (l : BitVec 7) (p : BitVec 6) (c : BitVec 2) (s : State) : Host.Outcome State Fault Refusal :=
  perThread (.invd l p c) (rangeOp .invd .invd l p c) s

/-- Instruction copies of a line given up by the cores of a basin, or of every basin (R101). -/
def State.dropFetched (s : State) (l : Nat) (basin : Option Nat) : State :=
  { s with cores := s.cores.map fun (p : Nat × Core) =>
      if basin.all fun b => b == basinOf p.1 then (p.1, { p.2 with icache := p.2.icache.del l }) else p }

/-- The home's step for one line of a publication (R101): every M and U copy and write lease written back, then the line is
published to the basin, or to all. -/
def publishLine (l : Nat) (basin : Option Nat) : M Unit := do
  let home := homeOf (lineKey l)
  clearLeases l false none
  modS fun s =>
    let s := s.recallAll home l true
    let s := match basin with
      | none => s.setMem { s.mem with dx := s.mem.dx.erase l, pub := s.mem.pub.del l }
      | some b => if isHbmKey (lineKey l) then
          s.setMem { s.mem with pub := s.mem.pub.set l (s.mem.pub.get 0#4 l ||| BitVec.ofNat 4 (2 ^ b)) }
        else s
    s.dropFetched l basin

/-- Report a wait of the parts of an operation under a stall reason of its own. -/
def asStall {α : Type} (r : Stall) (m : M α) : M α := fun s =>
  match m s with
  | .error (.stall _) t => .error (.stall r) t
  | o => o

/-- XPUB (R101, R311): a range outside HBM4E is written back and given up by the instruction caches only (R99). -/
def execXpub (l : BitVec 7) (p : BitVec 6) (c : BitVec 2) (s : State) : Host.Outcome State Fault Refusal :=
  perThread (.xpub l p c) (fun x lane => do
    let vs ← readOps x lane [(oIn .len l 1, false), (oAddr p false, true)]
    let len := wordsNat (vs.getD 0 [])
    let h := wordsNat (vs.getD 1 [])
    let scope := max 1 c.toNat
    let g ← groupM x
    M.whenB (len != 0) (asStall .xpub (do
      atAddr (BitVec.ofNat 64 h) (waitRelease x.gid scope)
      overRange x h len .wbr fun who a n =>
        M.whenB (isMain a.pa) (do
          backCheck who a n 2 g.core
          M.forEach (fun (q : Nat × BitVec 128) =>
            publishLine q.1 (if scope == 1 then some (basinOf g.core) else none)) (pieceLines a.pa n))))
    pure .next) s

/-- The scratchpad line of SETF and CLRF (R305): a displacement in lines. -/
def lineOperand (p : BitVec 6) (disp : BitVec 7) (x : Iss) (lane : Nat) : M Nat := do
  let vs ← readOps x lane [(oAddr p true, false)]
  pure (scrAddr (wordsNat (vs.getD 0 [])) (disp.toInt * 128) / 128 * 128)

def execSetf (p : BitVec 6) (c : BitVec 2) (d : BitVec 7) (s : State) : Host.Outcome State Fault Refusal :=
  perThread (.setf p c d) (fun x lane => do
    let a ← lineOperand p d x lane
    atAddr (BitVec.ofNat 64 a) (do
      let g ← groupM x
      let at_ ← scrResolve g.wg a 128
      waitRelease x.gid c.toNat
      modS fun s => s.setFull at_ true)
    pure .next) s

def execClrf (p : BitVec 6) (d : BitVec 7) (s : State) : Host.Outcome State Fault Refusal :=
  perThread (.clrf p d) (fun x lane => do
    let a ← lineOperand p d x lane
    atAddr (BitVec.ofNat 64 a) (do
      let g ← groupM x
      let at_ ← scrResolve g.wg a 128
      modS fun s => s.setFull at_ false)
    pure .next) s

/-- The segment of OWNSEG and DROPSEG (R306). -/
def segOperand (p : BitVec 6) (x : Iss) (lane : Nat) : M (Nat × ScrAt) := do
  let vs ← readOps x lane [(oAddr p true, false)]
  let a := wordsNat (vs.getD 0 []) / 4096 * 4096
  let g ← groupM x
  let at_ ← atAddr (BitVec.ofNat 64 a) (scrResolve g.wg a 1)
  pure (g.wg, at_)

/-- OWNSEG (R91, R306): waits until the transfer it starts has ended; NOSPACE without a free copy slot, which the segment's home and a core
that holds an S copy already have (log entry 75). -/
def execOwnseg (d : BitVec 7) (p : BitVec 6) (s : State) : Host.Outcome State Fault Refusal :=
  perThread (.ownseg d p) (fun x lane => do
    let (w, a) ← segOperand p x lane
    let s ← getS
    if s.ownsSeg w a then do
      writeVals x lane (oOut .own d 1) [0#32]
      pure .next
    else if !(a.wg == w || s.holdsSeg w a || s.copySlot w) then do
      writeVals x lane (oOut .own d 1) [1#32]
      pure .next
    else do
      let seg := a.addr / 4096
      modS fun s => match s.wgs.look a.wg with
        | some v => s.setSeg a.wg seg { v.dirOf seg with moving := some (s.rankOf w) }
        | none => s
      wait .memdep) s

/-- DROPSEG (R91, R306): a copy is dropped, an owner's segment goes home. -/
def execDropseg (d : BitVec 7) (p : BitVec 6) (s : State) : Host.Outcome State Fault Refusal :=
  perThread (.dropseg d p) (fun x lane => do
    let (w, a) ← segOperand p x lane
    let s ← getS
    let seg := a.addr / 4096
    let home := s.rankOf a.wg
    if s.ownsSeg w a && s.rankOf w != home then do
      modS fun s => match s.wgs.look a.wg with
        | some v => s.setSeg a.wg seg { v.dirOf seg with moving := some home }
        | none => s
      wait .memdep
    else do
      modS fun s => match s.wgs.look a.wg with
        | some v =>
          let e := v.dirOf seg
          let h := e.holders &&& ~~~(BitVec.ofNat 24 (2 ^ s.rankOf w))
          if h == e.holders then s else s.setSeg a.wg seg { e with holders := h }
        | none => s
      writeVals x lane (oOut .own d 1) [0#32]
      pure .next) s

end Sys2Proof.Machine
end

