-- ==== Sys2Proof/Machine/RegisterWrite.lean ====
section
/-! DEFINITION. A write to a basin's register space (R29): the fields that take a written value, those that a written 1 clears, and
the commands that are events of their own. -/
namespace Sys2Proof.Machine

/-- Put an event that a register write asks for next on the agenda. -/
def State.ask (s : State) (e : Event) : State := { s with agenda := e :: s.agenda }

/-- Replace the bits of `mask` of a word by those of another. -/
def merge (old mask v : Nat) : Nat := (old ^^^ (old &&& mask)) ||| (v &&& mask)

/-- A field of a word held within a range. -/
def clampField (v lo n least most : Nat) : Nat := setBits v lo n (max least (min most (bits v lo n)))

/-- A mask of bits lo to lo + n - 1. -/
def ones (lo n : Nat) : Nat := (2 ^ n - 1) * 2 ^ lo

/-- Store the bits of a mask in a register. -/
def State.regFields (s : State) (b : Nat) (r : BReg) (mask v : Nat) : State := s.setReg b r (merge (s.reg b r) mask v)

/-- A ring's base register (R407, R442): EN and BASE stored, OVF cleared by 1. -/
def State.ringBase (s : State) (b : Nat) (r : BReg) (lo v : Nat) : State :=
  let w := merge (s.reg b r) (2 ^ 63 + ones lo (52 - lo)) v
  s.setReg b r (if bit v 62 then setBits w 62 1 0 else w)

/-- A write of LGUARD (R93): an agent whose uncertainty the new guard band does not cover is beyond it from then on (R98). -/
def State.writeLguard (s : State) (b v : Nat) : State :=
  let t := s.regFields b .lguard (ones 0 14) (clampField v 0 14 10 10000)
  if t.drifting b && !s.drifting b then t.drift b (t.basin b).uncert else t

/-- A write of RPCTL (R411): BIF only while EN is 0; a port that is disabled has no link until it has trained again. -/
def State.writeRpctl (s : State) (b i v : Nat) : State :=
  let r : BReg := .rpctl i
  let was := s.reg b r
  let v := if 5 ≤ bits v 26 3 then setBits v 26 3 0 else v
  let s := s.regFields b r (2 ^ 31 + 2 ^ 9 + if bit was 31 then 0 else ones 26 3) v
  let s := if bit was 31 && !bit v 31 then s.linkLost (4 * b + i) else s
  if bit v 29 && bit was 29 then s.ask (.rpctlDpcRelease (4 * b + i)) else s

/-- A write of HBMCTL (R112). -/
def State.writeHbmctl (s : State) (b i v : Nat) : State :=
  let s := s.regFields b (.hbmctl i) (ones 52 9) v
  if bit v 63 then s.ask (.hbmctlRetire (2 * b + i) (bits v 52 9)) else s

/-- A write of SEALPOOL (R125). -/
def State.writeSealpool (s : State) (b i v : Nat) : State :=
  s.regFields b (.sealpool i) (if bit (s.reg b (.sealpool i)) 63 then 2 ^ 63 else 2 ^ 63 + ones 0 48) v

/-- A write of SEALCTL (R125). -/
def State.writeSealctl (s : State) (b i v : Nat) : State :=
  if bit (s.reg b (.sealctl i)) 59 then s
  else match bits v 60 4 with
    | 1 => s.ask (.sealctlReinit (2 * b + i) (bits v 0 24) (bits v 48 8))
    | 2 => s.ask (.sealctlPoolinit (2 * b + i))
    | _ => s

/-- A write of CXLCTL (R119). -/
def State.writeCxlctl (s : State) (b i v : Nat) : State :=
  let s := s.regFields b (.cxlctl i) (ones 0 10) (clampField v 0 10 10 1000)
  if bit v 31 then s.ask (.cxlctlResume (4 * b + i)) else s

/-- A write of HQSTAT (R187): a 1 in bit 0 clears ERRCNT. -/
def State.writeHqstat (s : State) (b n v : Nat) : State :=
  if bit v 0 then s.setReg b (.hqstat n) (setBits (s.reg b (.hqstat n)) 0 32 0) else s

/-- A write of PFQRESP (R37). -/
def State.writePfqresp (s : State) (b v : Nat) : State :=
  let answer (s : State) : State := match bits v 62 2 with
    | 1 => s.ask (.pfqrespRetry b (bits v 0 16))
    | 2 => s.ask (.pfqrespFail b (bits v 0 16))
    | 3 => s.ask (.pfqrespIgnored b)
    | _ => if bit v 61 then s else s.ask (.pfqrespIgnored b)
  let s := answer s
  if bit v 61 then s.ask (.pfqrespClearErr b) else s

/-- A write of RCBUPD (R162). -/
def State.writeRcbupd (s : State) (v : Nat) : State :=
  if bit (s.reg 0 .rcbupd) 63 then s
  else s.ask (if bit v 20 then .rcbupdClrfault (bits v 0 20) else .rcbupdUpdate (bits v 0 20))

/-- A write of IATBASE (R385): a 1 in bit 0 clears DROPS. -/
def State.writeIatbase (s : State) (v : Nat) : State :=
  let w := merge (s.reg 0 .iatbase) (2 ^ 63 + ones 21 31) v
  s.setReg 0 .iatbase (if bit v 0 then setBits w 0 21 0 else w)

/-- A write of COMMCMD (R422). -/
def State.writeCommcmd (s : State) (v : Nat) : State :=
  if bit (s.reg 0 .commcmd) 61 then s
  else
    let pa := bits v 6 46 * 64
    match bits v 62 2 with
    | 1 => s.ask (.commcmdCreate pa)
    | 2 => s.ask (.commcmdReform pa)
    | 3 => s.ask (.commcmdDestroy pa)
    | _ => s

/-- A write of DBGCMD (R435). -/
def State.writeDbgcmd (s : State) (v : Nat) : State :=
  match bits v 60 4 with
  | 1 => s.ask (.dbgcmdHalt v)
  | 2 => s.ask (.dbgcmdResume v)
  | 3 => s.ask (.dbgcmdStep v)
  | 4 => s.ask (.dbgcmdRead v)
  | 5 => s.ask (.dbgcmdWrite v)
  | _ => s

/-- A write of CTXPOOL (R206): FULL is cleared by 1. -/
def State.writeCtxpool (s : State) (b v : Nat) : State :=
  let w := merge (s.reg b .ctxpool) (2 ^ 63 + ones 21 31 + ones 0 16) v
  s.setReg b .ctxpool (if bit v 62 then setBits w 62 1 0 else w)

/-- A write of MATCTL (R43, R45): DENYLOG, cleared by 1, empties the first-denial record. -/
def State.writeMatctl (s : State) (b t v : Nat) : State :=
  let w := merge (s.reg b (.matctl t)) 1 v
  if bit v 1 then (s.setReg b (.matctl t) (setBits w 1 1 0)).updBasin b fun x => { x with denial := x.denial.del t }
  else s.setReg b (.matctl t) w

/-- The writable bits of a piece of a MAT entry (R41). -/
def matMask (piece : Nat) : Nat := match piece with
  | 0 | 1 => ones 0 48
  | 2 => ones 0 64
  | _ => ones 0 22

/-- A write of a 64-bit piece of a MAT entry. -/
def State.writeMatEntry (s : State) (b t i piece v : Nat) : State :=
  s.updBasin b fun x =>
    let e := (x.mat.get 0#256 (t * 256 + i)).toNat
    let new := merge (bits e (64 * piece) 64) (matMask piece) v
    { x with mat := x.mat.set (t * 256 + i) (BitVec.ofNat 256 (setBits e (64 * piece) 64 new)) }

/-- A write of a register that keeps its fields, commands apart (R29 and the register tables). -/
def State.writePlain (s : State) (b : Nat) (r : BReg) (v : Nat) : State :=
  match r with
  | .lguard => s.writeLguard b v
  | .lapsectl => if bit v 63 then s.ask (.lapsectlClear b) else s
  | .ctxpool => s.writeCtxpool b v
  | .evqbase => s.ringBase b r 14 v
  | .dbgqbase => s.ringBase b r 14 v
  | .profqbase => s.ringBase b r 14 v
  | .sampqbase => s.ringBase b r 14 v
  | .evqptr | .dbgqptr | .profqptr | .sampqptr | .pfqptr => s.regFields b r (ones 32 32) v
  | .pfqbase => s.regFields b r (2 ^ 63 + ones 17 35) v
  | .pfqresp => s.writePfqresp b v
  | .hbmctl i => s.writeHbmctl b i v
  | .sealpool i => s.writeSealpool b i v
  | .sealctl i => s.writeSealctl b i v
  | .rpctl i => s.writeRpctl b i v
  | .cxlctl i => s.writeCxlctl b i v
  | .pasidtab _ => s.regFields b r (2 ^ 63 + ones 12 40 + ones 0 5) (clampField v 0 5 0 20)
  | .pasidnone _ => s.regFields b r (ones 61 3 + ones 0 20) v
  | .hqbase _ => s.regFields b r (2 ^ 63 + ones 52 4 + ones 12 40) (clampField v 52 4 6 15)
  | .hqptr n => s.ask (.hqptrPut b n (bits v 0 32))
  | .hqstat n => s.writeHqstat b n v
  | .rgndir => s.regFields b r (2 ^ 63 + ones 23 29) v
  | .rcbupd => s.writeRcbupd v
  | .iatbase => s.writeIatbase v
  | .steppecfg => s.regFields b r (2 ^ 63 + ones 52 4 + ones 21 31) (clampField v 52 4 4 15)
  | .tvecp | .tvecs | .dbgwpa _ => s.regFields b r (ones 0 64) v
  | .gtbsync => s.ask (.gtbsyncSrc (bits v 60 3))
  | .commcmd => s.writeCommcmd v
  | .pwrlimit => s.regFields b r (ones 0 12) (clampField v 0 12 1000 3400)
  | .sampctl => s.regFields b r (2 ^ 31 + ones 0 5) (clampField v 0 5 10 24)
  | .dbgcmd => s.writeDbgcmd v
  | .dbgdata | .dbgname _ => s.regFields b r (ones 0 32) v
  | .dbgwpb n => s.ask (.dbgwpbWrite n v)
  | .ntbap _ => s.regFields b r (2 ^ 63 + ones 36 22 + ones 0 22) v
  | .matctl t => s.writeMatctl b t v
  | .denycount t => if bit v 0 then s.setReg b (.denycount t) 0 else s
  | .bootstat | .secfetch | .secuse | .retmap _ _ | .dbgpc => s

/-- A write of a whole slot (R29). -/
def State.slotWrite (s : State) (b : Nat) (slot : Slot) (v : Nat) : State :=
  match slot with
  | .pinit c => if bit v 31 then s.ask (.pinitStart (22 * b + c)) else s
  | .xframe => s.ask (if bit v 63 then .xframeSet (bits v 0 40) else .xframeClear (bits v 0 40))
  | .plain r => s.writePlain b r v
  | .lapse k => if bit v 63 then s.ask (.lapseEntryClear b k) else s
  | .rcbupd => s.writeRcbupd v
  | .rgnkill => s.ask (.rgnkill (bits v 0 20))
  | .svcup => if bit v 0 then s.ask .svcupUp else s
  | .matEntry t i piece => s.writeMatEntry b t i piece v
  | .matctl t => s.writePlain b (.matctl t) v
  | .denycount t => s.writePlain b (.denycount t) v
  | .meas _ _ | .denial _ _ | .none => s

/-- Registers of 32 bits, which occupy the low half of their slots (R29). -/
def Slot.narrow : Slot → Bool
  | .pinit _ | .rgnkill | .svcup => true
  | .plain r => match r with
    | .lguard | .rpctl _ | .cxlctl _ | .pwrlimit | .bootstat | .sampctl => true
    | _ => false
  | _ => false

/-- The fields of a slot that a half write leaves alone: as they read, with every bit that a 1 would act on left 0. -/
def State.slotKept (s : State) (b : Nat) : Slot → Nat
  | .plain r => match r with
    | .lguard | .hqbase _ | .sealpool _ | .pasidtab _ | .pasidnone _ | .rgndir | .steppecfg | .tvecp | .tvecs | .dbgwpa _
    | .dbgdata | .dbgname _ | .dbgwpb _ | .ntbap _ | .pfqbase | .evqptr | .pfqptr | .dbgqptr | .profqptr | .sampqptr | .gtbsync
    | .hqptr _ => s.reg b r
    | .hbmctl _ => s.reg b r &&& ones 52 9
    | .ctxpool | .evqbase | .dbgqbase | .profqbase | .sampqbase => setBits (s.reg b r) 62 1 0
    | .iatbase => setBits (s.reg b r) 0 21 0
    | _ => 0
  | .matEntry t i piece => s.slotRead b (.matEntry t i piece)
  | .matctl t => s.reg b (.matctl t) &&& 1
  | _ => 0

/-- REGISTER_WRITE (R29): a whole slot, or half of one; the high half of a 32-bit register ignores writes, that of RCBUPD names
no region. -/
def execRegisterWrite (basin offset size value : Nat) (s : State) : Host.Outcome State Fault Refusal :=
  let off := offset / 8 * 8
  let slot := slotOf basin off
  if 4 ≤ basin || !regSizeOk basin offset size then .next s
  else if size == 8 then .next (s.slotWrite basin slot value)
  else if size == 4 then
    (if offset % 8 == 0 then
      .next (s.slotWrite basin slot (if slot.narrow then value % 2 ^ 32 else setBits (s.slotKept basin slot) 0 32 value))
     else if slot.narrow || slot == .rcbupd then .next s
     else .next (s.slotWrite basin slot (setBits (s.slotKept basin slot) 32 32 value)))
  else .next s

end Sys2Proof.Machine
end

