-- ==== Sys2Proof/Machine/Shake.lean ====
section
/-! DEFINITION. SHAKE256 of a message of one block, for the extension of measurement registers (R425). -/
namespace Sys2Proof.Machine

/-- The round constants of Keccak-f[1600]. -/
def keccakRc : List Nat :=
  [0x0000000000000001, 0x0000000000008082, 0x800000000000808A, 0x8000000080008000, 0x000000000000808B, 0x0000000080000001,
   0x8000000080008081, 0x8000000000008009, 0x000000000000008A, 0x0000000000000088, 0x0000000080008009, 0x000000008000000A]
  ++ [0x000000008000808B, 0x800000000000008B, 0x8000000000008089, 0x8000000000008003, 0x8000000000008002, 0x8000000000000080,
   0x000000000000800A, 0x800000008000000A, 0x8000000080008081, 0x8000000000008080, 0x0000000080000001, 0x8000000080008008]

/-- The rotation of lane x + 5 y. -/
def keccakRot : List Nat :=
  [0, 1, 62, 28, 27, 36, 44, 6, 55, 20, 3, 10, 43] ++ [25, 39, 41, 45, 15, 21, 8, 18, 2, 61, 56, 14]

/-- One round on 25 lanes of 64 bits. -/
def keccakRound (a : List DWord) (rc : Nat) : List DWord :=
  let at_ (l : List DWord) (x y : Nat) : DWord := l.getD (x % 5 + 5 * (y % 5)) 0#64
  let c := (List.range 5).map fun x => (List.range 5).foldl (fun v y => v ^^^ at_ a x y) 0#64
  let d := (List.range 5).map fun x => c.getD ((x + 4) % 5) 0#64 ^^^ (c.getD ((x + 1) % 5) 0#64).rotateLeft 1
  let a := a.zipIdx.map fun p => p.1 ^^^ d.getD (p.2 % 5) 0#64
  -- lane (x, y) moves to (y, 2 x + 3 y): lane (u, v) comes from (u + 3 v, u)
  let b := (List.range 25).map fun i =>
    let x := (i % 5 + 3 * (i / 5)) % 5
    let y := i % 5
    (at_ a x y).rotateLeft (keccakRot.getD (x + 5 * y) 0)
  let e := (List.range 25).map fun i => at_ b (i % 5) (i / 5) ^^^ (~~~(at_ b (i % 5 + 1) (i / 5)) &&& at_ b (i % 5 + 2) (i / 5))
  match e with
  | x :: xs => (x ^^^ BitVec.ofNat 64 rc) :: xs
  | [] => []

/-- SHAKE256 of fewer than 136 bytes: the first 64 bytes of its output. -/
def shake256 (msg : List Byte) : List Byte :=
  let v := bytesToNat msg + 0x1F * 2 ^ (8 * msg.length) + 0x80 * 2 ^ (8 * 135)
  let a := (List.range 25).map fun i => BitVec.ofNat 64 (v / 2 ^ (64 * i))
  let r := keccakRc.foldl keccakRound a
  ((r.take 8).map fun w => natToBytes 8 w.toNat).flatten

/-- M := SHAKE256(M ‖ d), truncated to 512 bits (R425). -/
def extendMeas (m : BitVec 512) (d : Nat) : BitVec 512 :=
  BitVec.ofNat 512 (bytesToNat (shake256 (natToBytes 64 m.toNat ++ natToBytes 64 d)))

end Sys2Proof.Machine
end

