-- ==== Sys2Proof/Machine/Service.lean ====
section
/-! DEFINITION. Boot and measurement (R425), reduced service (R429), the power controller (R430) and the GTB's source (R420, R421). -/
namespace Sys2Proof.Machine

/-- MODULE_RESET (R425): the whole module at its reset state; BOOTSTAT holds the failure code, or firmware has started and the
digest of its image extends MEAS0.  R427 gives a boot no other code than 0 to 4. -/
def execModuleReset (code digest : Nat) (s : State) : Host.Outcome State Fault Refusal :=
  let t := { State.reset with freeCount := s.freeCount }
  .next (if 4 < code then s
    else if code == 0 then
      { t with firmware := true, meas := t.meas.set 0 (extendMeas 0#512 digest) }.setReg 0 .bootstat (2 ^ 31)
    else t.setReg 0 .bootstat code)

/-- MEAS_EXTEND (R425): firmware extends MEAS1 to MEAS7. -/
def execMeasExtend (register digest : Nat) (s : State) : Host.Outcome State Fault Refusal :=
  .next (if s.firmware && 1 ≤ register && register ≤ 7 then
      { s with meas := s.meas.set register (extendMeas (s.meas.get 0#512 register) digest) }
    else s)

/-- HBM_TRAINING_DONE (R429). -/
def execHbmTrainingDone (s : State) : Host.Outcome State Fault Refusal := .next { s with trained := true }

/-- SVCUP_UP (R429): ignored before training has ended. -/
def execSvcupUp (s : State) : Host.Outcome State Fault Refusal := .next (if s.trained then { s with full := true } else s)

/-- POWER_STEP (R430): one sixteenth toward the reduction asked for, at most 8; CAPPED only at that floor. -/
def execPowerStep (step capped : Nat) (s : State) : Host.Outcome State Fault Refusal :=
  let w := s.reg 0 .pwrlimit
  let now := bits w 28 4
  let want := min 8 step
  let new := if now < want then now + 1 else if want < now then now - 1 else now
  .next (s.setReg 0 .pwrlimit (setBits (setBits w 28 4 new) 27 1 (if new == 8 && capped != 0 then 1 else 0)))

/-- GTBSYNC_SRC (R420, R421): the value is kept, a change of source unlocks the GTB. -/
def execGtbsyncSrc (source : Nat) (s : State) : Host.Outcome State Fault Refusal :=
  let w := s.reg 0 .gtbsync
  let src := if source ≤ 2 then source else 0
  let w' := setBits w 60 3 src
  .next (s.setReg 0 .gtbsync (if bits w 60 3 == src then w' else setBits w' 63 1 0))

/-- GTB_DISCIPLINE (R98, R420, R421): the uncertainty is known anew, on every agent of the module. -/
def execGtbDiscipline (uncertainty : Nat) (s : State) : Host.Outcome State Fault Refusal :=
  let u := min uncertainty (2 ^ 32 - 1)
  let w := s.reg 0 .gtbsync
  let locked := bits w 60 3 != 0 && u ≤ 50
  let s := s.setReg 0 .gtbsync (setBits (setBits w 0 32 u) 63 1 (if locked then 1 else 0))
  .next ((List.range 4).foldl (fun s b =>
    if s.drifting b then s.updBasin b fun x => { x with uncert := u } else s.drift b u) s)

end Sys2Proof.Machine
end

