-- ==== Sys2Proof/Machine/Transcend.lean ====
section
/-! DEFINITION. The functions whose results the spec bounds and does not fix (R253, R254): a value close to the exact one, and the
code the part gives, a free choice among those within the bound. -/
namespace Sys2Proof.Machine

/-- Fixed point with 1,400 fraction bits: every finite f32 and f64 is a whole number of units. -/
def fxp : Nat := 1400
def fxOne : Nat := 2 ^ fxp
def fxTimes (a b : Nat) : Nat := a * b / fxOne
def fxOver (a b : Nat) : Nat := a * fxOne / b

/-- A magnitude as fixed point. -/
def fixOf (m : Nat) (e : Int) : Nat := if 0 ≤ e + fxp then m * 2 ^ (e + fxp).toNat else m / 2 ^ (-(e + fxp)).toNat

/-- Σ t / (2 k + 1) over terms t, t z², t z⁴, …: atanh when `alt` is false, arctan when it is true. -/
def arcSum (alt : Bool) (z2 : Nat) : Nat → Nat → Nat → Int
  | 0, _, _ => 0
  | fuel + 1, t, k => (t / (2 * k + 1) : Nat) + (if alt then -1 else 1) * arcSum alt z2 fuel (fxTimes t z2) (k + 1)

/-- atanh(1/n) and arctan(1/n) in fixed point. -/
def arcInv (alt : Bool) (n : Nat) : Nat := (arcSum alt (fxOne / (n * n)) 900 (fxOne / n) 0).toNat

def ln2Fix : Nat := 2 * arcInv false 3
/-- Machin: π = 16 arctan(1/5) − 4 arctan(1/239). -/
def piFix : Nat := 16 * arcInv true 5 - 4 * arcInv true 239

/-- Σ x^k / k! from the term t = x^k / k!. -/
def expSum (x : Nat) : Nat → Nat → Nat → Nat
  | 0, _, _ => 0
  | fuel + 1, t, k => t + expSum x fuel (fxTimes t x / (k + 1)) (k + 1)

/-- e^x for 0 ≤ x < 1 in fixed point, and e^x − 1. -/
def expFix (x : Nat) : Nat := expSum x 300 fxOne 0
def expm1Fix (x : Nat) : Nat := expSum x 300 x 1

/-- 2^x for x = q + f with f in [0, 1): a value with the fraction bits of `fxp`. -/
def exp2FX (q : Int) (f : Nat) : FX := .num false (expFix (fxTimes f ln2Fix)) (max (-20000) (min 20000 q) - fxp) true

/-- Integer and fraction parts of ± a fixed-point magnitude. -/
def splitFix (neg : Bool) (a : Nat) : Int × Nat :=
  let v : Int := if neg then -(a : Int) else a
  (v / (fxOne : Int), (v % (fxOne : Int)).toNat)

/-- sin and cos of r in [0, 1) by their series: the term t, sign alternating. -/
def trigSum (r2 : Nat) : Nat → Nat → Nat → Int
  | 0, _, _ => 0
  | fuel + 1, t, k => (t : Int) - trigSum r2 fuel (fxTimes t r2 / ((k + 1) * (k + 2))) (k + 2)

/-- Σ 2^k x^(2k+1) / (2k+1)!! from the term t. -/
def erfSum (x2 : Nat) : Nat → Nat → Nat → Nat
  | 0, _, _ => 0
  | fuel + 1, t, k => t + erfSum x2 fuel (2 * fxTimes t x2 / (2 * k + 3)) (k + 1)

/-- e^(−x) for any fixed-point x ≥ 0, as a fixed-point number; zero beyond its last bit. -/
def expNegFix (x : Nat) : Nat :=
  let t := fxOver x ln2Fix
  let (q, f) := splitFix true t
  expFix (fxTimes f ln2Fix) / 2 ^ (-q).toNat

/-- ± a fixed-point number that is not exact. -/
def near (neg : Bool) (a : Nat) : FX := .num neg a (-(fxp : Int)) true

/-- An exact power of two or integer. -/
def exactly (neg : Bool) (m : Nat) (e : Int) : FX := .num neg m e false

/-- A number just below 1. -/
def belowOne (neg : Bool) : FX := near neg (fxOne - 1)

/-- m without its trailing zero bits, and the exponent they leave. -/
def oddPart (m : Nat) (e : Int) : Nat × Int :=
  let z := ((List.range 64).find? fun i => bit m i).getD 0
  (m / 2 ^ z, e + z)

/-- 1/a and 1/√a (R253, R254). -/
def fnRcp (x : FX) : FX × Nat := fxDiv (exactly false 1 0) x
def fnRsq (x : FX) : FX × Nat :=
  match x with
  | .nan => (.nan, 0)
  | .inf s => if s then (.nan, flagNV) else (exactly false 0 0, 0)
  | .num s m e _ =>
    if m == 0 then (.inf s, flagDZ)
    else if s then (.nan, flagNV)
    else
      let (m, e) := oddPart m e
      let (m, e) := if e % 2 == 0 then (m, e) else (2 * m, e - 1)
      if m == 1 then (exactly false 1 (-e / 2), 0)
      else (.num false (Nat.sqrt (2 ^ 1200 / m)) (-600 - e / 2) true, 0)

def fnExp2 (x : FX) : FX × Nat :=
  match x with
  | .nan => (.nan, 0)
  | .inf s => (if s then exactly false 0 0 else .inf false, 0)
  | .num s m e _ =>
    if m == 0 then (exactly false 1 0, 0)
    else
      let big : Bool := (Nat.log2 m : Int) + e ≥ 20
      if big then (exp2FX (if s then -20000 else 20000) 0, 0)
      else
        let (q, f) := splitFix s (fixOf m e)
        if f == 0 then (exactly false 1 q, 0) else (exp2FX q f, 0)

def fnLog2 (x : FX) : FX × Nat :=
  match x with
  | .nan => (.nan, 0)
  | .inf s => if s then (.nan, flagNV) else (.inf false, 0)
  | .num s m e _ =>
    if m == 0 then (.inf true, flagDZ)
    else if s then (.nan, flagNV)
    else
      let (m, e) := oddPart m e
      let top : Int := (Nat.log2 m : Int) + e
      if m == 1 then (exactly (top < 0) top.natAbs 0, 0)
      else
        -- y in [1, 2), halved from 3/2 on so that nothing cancels near 1
        let y0 := fixOf m (-(Nat.log2 m : Int))
        let (y, top, up) := if 3 * fxOne ≤ 2 * y0 then (y0 / 2, top + 1, false) else (y0, top, true)
        let z := fxOver (if up then y - fxOne else fxOne - y) (y + fxOne)
        let l := fxOver (2 * (arcSum false (fxTimes z z) 900 z 0).toNat) ln2Fix
        let v : Int := top * fxOne + (if up then (l : Int) else -(l : Int))
        (near (v < 0) v.natAbs, 0)

/-- sin (`quarter` 0) and cos (`quarter` 1) with exact reduction by π/2. -/
def fnTrig (quarter : Nat) (x : FX) : FX × Nat :=
  match x with
  | .nan => (.nan, 0)
  | .inf _ => (.nan, flagNV)
  | .num s m e _ =>
    if m == 0 then (if quarter == 0 then exactly s 0 0 else exactly false 1 0, 0)
    else
      -- reduce |x| by π/2 to [−π/4, π/4], π to the bits that 2^1024 needs being in piFix
      let a := fixOf m e
      let half := piFix / 2
      let n := (a + half / 2) / half
      let r : Int := (a : Int) - n * half
      let ra := r.natAbs
      let r2 := fxTimes ra ra
      -- sin a < a and cos a < 1, however little
      let sin_ := min (trigSum r2 400 ra 1) (ra - 1 : Nat)
      let cos_ := min (trigSum r2 400 fxOne 0) (fxOne - 1 : Nat)
      -- sin(−a) = −sin a, cos(−a) = cos a
      let k := (n + quarter) % 4
      let v : Int := match k with
        | 0 => if r < 0 then -sin_ else sin_
        | 1 => cos_
        | 2 => if r < 0 then sin_ else -sin_
        | _ => -cos_
      let v := if s && quarter == 0 then -v else v
      (near (v < 0) v.natAbs, 0)

def fnTanh (x : FX) : FX × Nat :=
  match x with
  | .nan => (.nan, 0)
  | .inf s => (exactly s 1 0, 0)
  | .num s m e _ =>
    if m == 0 then (exactly s 0 0, 0)
    else
      let a := if (Nat.log2 m : Int) + e ≥ 7 then 128 * fxOne else fixOf m e
      -- (1 − e^(−2a)) / (1 + e^(−2a)), with e^(2a) − 1 where a is small
      let v := if 4 * a < fxOne then
          let p := expm1Fix (2 * a)
          fxOver p (p + 2 * fxOne)
        else
          let n := expNegFix (2 * a)
          fxOver (fxOne - n) (fxOne + n)
      (near s v, 0)

def fnSigm (x : FX) : FX × Nat :=
  match x with
  | .nan => (.nan, 0)
  | .inf s => (if s then exactly false 0 0 else exactly false 1 0, 0)
  | .num s m e _ =>
    if m == 0 then (exactly false 1 (-1), 0)
    else
      let a := if (Nat.log2 m : Int) + e ≥ 11 then 2048 * fxOne else fixOf m e
      -- 1/2 ± (a/4 − a³/48), just below for a negative operand and just above for a positive one
      let d := a / 4 - fxTimes (fxTimes a a) a / 48
      if a < fxOne / 2 ^ 60 then (near false (if s then fxOne / 2 - d - 1 else fxOne / 2 + d), 0)
      else if !s then (near false (min (fxOne - 1) (fxOver fxOne (fxOne + expNegFix a))), 0)
      else
        -- e^(−a) / (1 + e^(−a)) = g 2^q / (1 + g 2^q) with g in [1, 2)
        let (q, f) := splitFix true (fxOver a ln2Fix)
        let g := expFix (fxTimes f ln2Fix)
        let d := fxOne * 2 ^ (-q).toNat + g
        (.num false (g * (fxOne * 2 ^ (-q).toNat) / d) (q - fxp) true, 0)

def fnErf (x : FX) : FX × Nat :=
  match x with
  | .nan => (.nan, 0)
  | .inf s => (exactly s 1 0, 0)
  | .num s m e _ =>
    if m == 0 then (exactly s 0 0, 0)
    else if (Nat.log2 m : Int) + e ≥ 3 then (belowOne s, 0)
    else
      let a := fixOf m e
      let x2 := fxTimes a a
      let root := Nat.sqrt (piFix * fxOne)
      let v := fxOver (2 * fxTimes (expNegFix x2) (erfSum x2 900 a 0)) root
      (near s (min v (fxOne - 1)), 0)

/-- The signed value of a code in units of 2^−1100, and the units in the last place of an exact value near it (R253). -/
def codeUnits (f : Fmt) (c : Nat) : Int :=
  match decodeF f c with
  | .num s m e _ => let v : Int := (m * 2 ^ (e + 1100).toNat : Nat); if s then -v else v
  | _ => 0
def exactUnits : FX → Int
  | .num s m e _ =>
    let v : Int := (if 0 ≤ e + 1100 then m * 2 ^ (e + 1100).toNat else m / 2 ^ (-(e + 1100)).toNat : Nat)
    if s then -v else v
  | _ => 0
def ulpUnits (f : Fmt) : FX → Nat
  | .num _ m e _ =>
    let top : Int := (Nat.log2 m : Int) + e
    2 ^ (max (top - f.frac) (1 - (f.bias : Int) - f.frac) + 1100).toNat
  | _ => 1

/-- Codes in the order of their values. -/
def codeShift (f : Fmt) (c : Nat) (k : Int) : Nat :=
  let half := 2 ^ (f.bits - 1)
  let v : Int := (if c < half then (c : Int) else -(((c - half : Nat) : Int))) + k
  if v < 0 then half + v.natAbs else v.natAbs

/-- Whether a code lies within the bound of R253: `ulps` ulps of the exact value, or `slack` units where that is more. -/
def admissible (f : Fmt) (x : FX) (ulps slack : Nat) (c : Nat) : Bool :=
  c % 2 ^ (f.bits - 1) ≤ maxFiniteCode f && (codeUnits f c - exactUnits x).natAbs < max (ulps * ulpUnits f x) slack

/-- The code the part gives for an inexact result: the part's own choice within the bound (R253), a fixed function of
function, format, mode and operand; exact results are exact. -/
def bounded (f : Fmt) (fn ulps : Nat) (slack : Nat) (code : Nat) (rd : Rnd) (r : FX × Nat) : Nat × Nat :=
  match r.1 with
  | .num _ _ _ true =>
    let (c, fl) := rounded f rd r
    let fl := fl ||| flagNX
    if fl &&& flagOF != 0 then (c, fl)
    else
      let c' := codeShift f c (Config.nudge fn f.bits rd.mode code)
      let pick := if admissible f r.1 ulps slack c' then c' else c
      if rd.ftz && ftzApplies f && isSub f pick then (signCode f (bit pick (f.bits - 1)), fl ||| flagUF) else (pick, fl)
  | _ => rounded f rd r

/-- FLOG2's absolute bound, where the operand lies in [0.5, 2] (R253). -/
def logSlack (f : Fmt) (x : FX) : Nat :=
  let lo : FX := .num false 1 (-1) false
  let hi : FX := .num false 2 0 false
  if !fxLess x lo && !fxLess hi x then 2 ^ (1100 - (if f.bits == 32 then 22 else 51)) else 0

def opFn (f : Fmt) (fn ulps : Nat) (g : FX → FX × Nat) (slack : FX → Nat) (rd : Rnd) (l : List Nat) : Nat × Nat :=
  let x := decodeF f (arg l 0)
  bounded f fn ulps (slack x) (arg l 0) rd (g x)

def execFrcp (w : BitVec 2) (d a : BitVec 7) (s : State) : Host.Outcome State Fault Refusal :=
  fpOp (.frcp w d a) (fmtW w) (opFn (fmtW w) 0 1 fnRcp fun _ => 0) s
def execFrsq (w : BitVec 2) (d a : BitVec 7) (s : State) : Host.Outcome State Fault Refusal :=
  fpOp (.frsq w d a) (fmtW w) (opFn (fmtW w) 1 1 fnRsq fun _ => 0) s
def execFexp2 (w : BitVec 2) (d a : BitVec 7) (s : State) : Host.Outcome State Fault Refusal :=
  fpOp (.fexp2 w d a) (fmtW w) (opFn (fmtW w) 2 2 fnExp2 fun _ => 0) s
def execFlog2 (w : BitVec 2) (d a : BitVec 7) (s : State) : Host.Outcome State Fault Refusal :=
  fpOp (.flog2 w d a) (fmtW w) (opFn (fmtW w) 3 2 fnLog2 (logSlack (fmtW w))) s
def execFsin (w : BitVec 2) (d a : BitVec 7) (s : State) : Host.Outcome State Fault Refusal :=
  fpOp (.fsin w d a) (fmtW w) (opFn (fmtW w) 4 2 (fnTrig 0) fun _ => 0) s
def execFcos (w : BitVec 2) (d a : BitVec 7) (s : State) : Host.Outcome State Fault Refusal :=
  fpOp (.fcos w d a) (fmtW w) (opFn (fmtW w) 5 2 (fnTrig 1) fun _ => 0) s
def execFtanh (w : BitVec 2) (d a : BitVec 7) (s : State) : Host.Outcome State Fault Refusal :=
  fpOp (.ftanh w d a) (fmtW w) (opFn (fmtW w) 6 2 fnTanh fun _ => 0) s
def execFsigm (w : BitVec 2) (d a : BitVec 7) (s : State) : Host.Outcome State Fault Refusal :=
  fpOp (.fsigm w d a) (fmtW w) (opFn (fmtW w) 7 2 fnSigm fun _ => 0) s
def execFerf (w : BitVec 2) (d a : BitVec 7) (s : State) : Host.Outcome State Fault Refusal :=
  fpOp (.ferf w d a) (fmtW w) (opFn (fmtW w) 8 2 fnErf fun _ => 0) s

end Sys2Proof.Machine
end

