-- ==== Sys2Proof/Machine/Walks.lean ====
section
/-! DEFINITION. Translation at work: buffer table fetches (R465), the walk queue (R33), page-fault records and their responses
(R35 to R37), execute frames (R99), instruction-cache fills (R102) and forced publication (R100). -/
namespace Sys2Proof.Machine

/-- BTE_FETCH (R465): an entry of a region's table is read into a core's cache; one that cannot be read is not cached, and the
access that needs it finds out itself. -/
def execBteFetch (core region index : Nat) (s : State) : Host.Outcome State Fault Refusal :=
  if core < 88 && index != 0 && index ≤ s.btCount region then
    .next ((bteOf { Who.thread region core true with queued := false } index (index * 2 ^ 48)).exec s)
  else .next s

/-- WALK_START (R33): the first queued walk starts while one of the 64 walkers is free. -/
def execWalkStart (basin : Nat) (s : State) : Host.Outcome State Fault Refusal :=
  let ws := (s.basin basin).walks
  match ws.find? fun q => !q.started with
  | some q =>
    if (ws.filter (·.started)).length < 64 then
      .next (s.updBasin basin fun x => { x with walks := x.walks.map fun p =>
        if p.root == q.root && p.vpn == q.vpn then { p with started := true } else p })
    else .next s
  | none => .next s

/-- On whose behalf a walk is made (R34, R40). -/
def Walk.who (q : Walk) (basin : Nat) : Who :=
  { region := q.region, master := q.master, basin := basin, core := q.core, sup := true }

/-- The walk itself (R19, R24, R99): the leaf, its A and, for a write, its D set before the checks that need the buffer entry (log entry 30),
the frame of an executable leaf marked. -/
def walkBody (w : Who) (q : Walk) : M Unit := do
  let va := q.vpn * 4096
  let f (sub : Nat) : AErr := .fault sub q.root va 0 0 va
  let leaf ← descend w va f 5 q.root
  let leaf ← markAD w leaf (q.write && bit leaf.pte 1)
  modS fun s => if bit leaf.pte 2 then s.setXf (ptePfn leaf.pte) else s
  modS fun s => s.tlbFill w { root := q.root, vpn := q.vpn, pte := BitVec.ofNat 64 leaf.pte }

/-- WALK_COMPLETE (R24, R33): the oldest started walk returns its leaf; one that finds none leaves that to the access. -/
def execWalkComplete (basin : Nat) (s : State) : Host.Outcome State Fault Refusal :=
  match (s.basin basin).walks.find? fun q => q.started && !q.failed with
  | none => .next s
  | some q =>
    let mine (p : Walk) : Bool := p.root == q.root && p.vpn == q.vpn
    match (walkBody (q.who basin) q).outcome s with
    | (.ok _, t) => .next (t.updBasin basin fun x => { x with walks := x.walks.filter fun p => !mine p })
    | (.error (.stall _), t) => .next t
    | (.error _, t) =>
      .next (t.updBasin basin fun x => { x with walks := x.walks.map fun p => if mine p then { p with failed := true } else p })

/-- IFETCH_MISS (R102): the line a group's entry needs is fetched into its core's instruction cache. -/
def execIfetchMiss (group : Nat) (s : State) : Host.Outcome State Fault Refusal :=
  match s.group? group with
  | none => .next s
  | some g =>
    match s.entry g with
    | [] => .next s
    | l :: _ =>
      let pc := ((g.thread? l).map (·.pc)).getD 0#64
      .next ((fetchWord { s.whoOf g with queued := false } (s.viaOf g group l) pc.toNat).exec s)

/-- PAGE_FAULT_RECORD (R35, R37): the oldest record that waits for room is written. -/
def execPageFaultRecord (basin : Nat) (s : State) : Host.Outcome State Fault Refusal :=
  let p := s.reg basin .pfqptr
  let put := bits p 0 32
  match (s.basin basin).pfq.find? fun r => r.seq.isNone with
  | none => .next s
  | some r =>
    if !bit (s.reg basin .pfqbase) 63 || 4096 ≤ (put + 2 ^ 32 - bits p 32 32) % 2 ^ 32 then .next s
    else
      let r := { r with seq := some (put % 2 ^ 16) }
      let s := s.updBasin basin fun x => { x with pfq := x.pfq.map fun q => if q.id == r.id then r else q }
      .next (((s.setReg basin .pfqptr (setBits p 0 32 (put + 1))).pfWrite basin r).raiseIrq basin 0)

/-- The pending record a response names (R37). -/
def State.pfFind (s : State) (b seq : Nat) : Option PfRec := (s.basin b).pfq.find? fun r => r.seq == some seq

/-- A record is answered: it is pending no more, and the page requests attached to it have their answer (R36, R416). -/
def State.pfAnswer (s : State) (b : Nat) (r : PfRec) (status : Nat) : State :=
  let s := s.updBasin b fun x => { x with pfq := x.pfq.filter fun q => q.id != r.id }
  { s with replies := s.replies ++ r.pages.map fun p => { port := p.1, rid := p.2, status := status, data := 0 } }

/-- ERR of PFQRESP (R37). -/
def State.pfErr (s : State) (b : Nat) (set : Bool) : State := s.setReg b .pfqresp (if set then 2 ^ 61 else 0)

/-- Change every engine command parked on a record: matrix commands, streams, copies, near-memory commands, doorbells. -/
def State.unparkEngines (s : State) (id : Nat) (fail : Bool) : State :=
  let mine (p : Option Nat) : Bool := p == some id
  let mx (q : MxCmd) : MxCmd :=
    if mine q.park then { q with park := none, status := if fail then some stENGFAULT else q.status } else q
  let cp (q : CopyCmd) : CopyCmd :=
    if mine q.park then { q with park := none, outcome := if fail then some (stENGFAULT, q.stopDetails) else q.outcome } else q
  let s := { s with cores := s.cores.map fun (p : Nat × Core) =>
    (p.1, { p.2 with mxe := { p.2.mxe with queue := p.2.mxe.queue.map mx } }) }
  let s := { s with mxSaved := s.mxSaved.map fun (p : Nat × Mxe) => (p.1, { p.2 with queue := p.2.queue.map mx }) }
  -- a near-memory command stopped at its status word keeps its result, one stopped before has none
  let s := s.wgs.foldl (fun s p => p.2.nmus.foldl (fun s q =>
    if mine q.park then s.updNmu p.1 q.num fun q =>
      { q with park := none
               status := if fail then execNmuExecute.keep s p.2.core q else q.status
               result := if fail && q.result.isNone then some (stENGFAULT, 0, 0, 0)
                         else if fail then q.result.map fun r => (if r.1 == stOK then stENGFAULT else r.1, r.2) else q.result }
    else s) s) s
  let s := { s with wgs := s.wgs.map fun (p : Nat × Workgroup) => (p.1, { p.2 with copies := p.2.copies.map cp }) }
  let s := (s.bells.filter fun d => mine d.park).foldl (fun s d =>
    if fail then s.bellDone d stENGFAULT else s.updBell d fun d => { d with park := none }) s
  s.groups.foldl (fun s p => p.2.queues.foldl (fun s q =>
    match q.2.stream with
    | some t =>
      if mine t.park then
        (if fail then s.streamEnd p.1 q.1 stENGFAULT false
         else s.updQueue p.1 q.1 fun k => { k with stream := some { t with park := none } })
      else s
    | none => s) s) s

/-- Change every thread parked on a record: it replays its instruction, or takes its PAGEFAULT when it next issues (R36). -/
def State.unparkThreads (s : State) (id : Nat) (fail : Bool) : State :=
  let back (t : Thread) : Thread :=
    match t.park with
    | some (k, trap) => if k == id then { t with park := none, failed := if fail then some trap else t.failed } else t
    | none => t
  { s with groups := s.groups.map fun (p : Nat × Group) =>
      (p.1, { p.2 with threads := p.2.threads.map fun (q : Nat × Thread) => (q.1, back q.2) }) }

/-- PFQRESP_RETRY (R36): everything parked on the record replays. -/
def execPfqrespRetry (basin seq : Nat) (s : State) : Host.Outcome State Fault Refusal :=
  match s.pfFind basin seq with
  | some r => .next (((s.unparkThreads r.id false).unparkEngines r.id false).pfAnswer basin r 3)
  | none => .next (s.pfErr basin true)

/-- PFQRESP_FAIL (R36): parked lanes trap PAGEFAULT, parked commands complete ENGFAULT. -/
def execPfqrespFail (basin seq : Nat) (s : State) : Host.Outcome State Fault Refusal :=
  match s.pfFind basin seq with
  | some r => .next (((s.unparkThreads r.id true).unparkEngines r.id true).pfAnswer basin r 4)
  | none => .next (s.pfErr basin true)

/-- PFQRESP_CLEAR_ERR (R37). -/
def execPfqrespClearErr (basin : Nat) (s : State) : Host.Outcome State Fault Refusal := .next (s.pfErr basin false)

/-- PFQRESP_IGNORED (R37). -/
def execPfqrespIgnored (basin : Nat) (s : State) : Host.Outcome State Fault Refusal := .next (s.pfErr basin true)

/-- XFRAME_SET (R99). -/
def execXframeSet (frame : Nat) (s : State) : Host.Outcome State Fault Refusal := .next (s.setXf frame)

/-- XFRAME_CLEAR (R99). -/
def execXframeClear (frame : Nat) (s : State) : Host.Outcome State Fault Refusal := .next (s.clearXf frame)

/-- DX_FORCED_PUBLISH (R100): the home publishes the dirty-for-execute units of a line's L2 line as an XPUB.sys would, and counts it. -/
def execDxForcedPublish (line : Nat) (s : State) : Host.Outcome State Fault Refusal :=
  if s.mem.dx.contains line then
    let s := (s.mem.dx.filter fun l => l2Line l == l2Line line).foldl (fun s l => (publishLine l none).exec s) s
    .next (s.updBasin (homeOf (lineKey line)) fun x => { x with dxForced := x.dxForced + 1 })
  else .next s

end Sys2Proof.Machine
end

