-- ==== Sys2Proof/Machine/Dispatch.lean ====
section
/-! DEFINITION. One arm per constructor of Instr: its meaning, or a refusal by name. -/
namespace Sys2Proof.Machine

def exec (i : Instr) (s : State) : Host.Outcome State Fault Refusal :=
  match i with
  | .iadd w d a b => Sys2Proof.Machine.execIadd w d a b s
  | .isub w d a b => Sys2Proof.Machine.execIsub w d a b s
  | .iadds w d a b => Sys2Proof.Machine.execIadds w d a b s
  | .isubs w d a b => Sys2Proof.Machine.execIsubs w d a b s
  | .imul w d a b => Sys2Proof.Machine.execImul w d a b s
  | .imulhI32 w d a b => Sys2Proof.Machine.execImulhI32 w d a b s
  | .imulhN32 w d a b => Sys2Proof.Machine.execImulhN32 w d a b s
  | .imad w d a b => Sys2Proof.Machine.execImad w d a b s
  | .idiv w d a b src => Sys2Proof.Machine.execIdiv w d a b src s
  | .irem w d a b src => Sys2Proof.Machine.execIrem w d a b src s
  | .imin w d a b src => Sys2Proof.Machine.execImin w d a b src s
  | .imax w d a b src => Sys2Proof.Machine.execImax w d a b src s
  | .andR w d a b => Sys2Proof.Machine.execAndR w d a b s
  | .orR w d a b => Sys2Proof.Machine.execOrR w d a b s
  | .xorR w d a b => Sys2Proof.Machine.execXorR w d a b s
  | .andn w d a b => Sys2Proof.Machine.execAndn w d a b s
  | .shl w d a b => Sys2Proof.Machine.execShl w d a b s
  | .shr w d a b => Sys2Proof.Machine.execShr w d a b s
  | .sar w d a b => Sys2Proof.Machine.execSar w d a b s
  | .rotl w d a b => Sys2Proof.Machine.execRotl w d a b s
  | .popc w d a => Sys2Proof.Machine.execPopc w d a s
  | .clz w d a => Sys2Proof.Machine.execClz w d a s
  | .ctz w d a => Sys2Proof.Machine.execCtz w d a s
  | .brev w d a => Sys2Proof.Machine.execBrev w d a s
  | .bfx w d a b src => Sys2Proof.Machine.execBfx w d a b src s
  | .bfi w d a b => Sys2Proof.Machine.execBfi w d a b s
  | .bytsel w d a b => Sys2Proof.Machine.execBytsel w d a b s
  | .icmp w c m a b o => Sys2Proof.Machine.execIcmp w c m a b o s
  | .sel w d a b t => Sys2Proof.Machine.execSel w d a b t s
  | .iabs w d a => Sys2Proof.Machine.execIabs w d a s
  | .ineg w d a => Sys2Proof.Machine.execIneg w d a s
  | .mov w d a => Sys2Proof.Machine.execMov w d a s
  | .notR w d a => Sys2Proof.Machine.execNotR w d a s
  | .dp4 w d a b src => Sys2Proof.Machine.execDp4 w d a b src s
  | .dp2 w d a b src => Sys2Proof.Machine.execDp2 w d a b src s
  | .lea d a b => Sys2Proof.Machine.execLea d a b s
  | .leas d a b src => Sys2Proof.Machine.execLeas d a b src s
  | .iaddi d a imm => Sys2Proof.Machine.execIaddi d a imm s
  | .andi d a imm => Sys2Proof.Machine.execAndi d a imm s
  | .ori d a imm => Sys2Proof.Machine.execOri d a imm s
  | .xori d a imm => Sys2Proof.Machine.execXori d a imm s
  | .shli d a imm => Sys2Proof.Machine.execShli d a imm s
  | .shri d a imm => Sys2Proof.Machine.execShri d a imm s
  | .sari d a imm => Sys2Proof.Machine.execSari d a imm s
  | .rotli d a imm => Sys2Proof.Machine.execRotli d a imm s
  | .movi d imm => Sys2Proof.Machine.execMovi d imm s
  | .imuli d a imm => Sys2Proof.Machine.execImuli d a imm s
  | .icmpi o c m a imm => Sys2Proof.Machine.execIcmpi o c m a imm s
  | .imini src d a imm => Sys2Proof.Machine.execImini src d a imm s
  | .imaxi src d a imm => Sys2Proof.Machine.execImaxi src d a imm s
  | .lxch w d a b v => Sys2Proof.Machine.execLxch w d a b v s
  | .ballot w d a => Sys2Proof.Machine.execBallot w d a s
  | .lanesAll w d a => Sys2Proof.Machine.execLanesAll w d a s
  | .lanesAny w d a => Sys2Proof.Machine.execLanesAny w d a s
  | .peers w d a => Sys2Proof.Machine.execPeers w d a s
  | .rank d a => Sys2Proof.Machine.execRank d a s
  | .mpopc d a => Sys2Proof.Machine.execMpopc d a s
  | .lfold w d a o k => Sys2Proof.Machine.execLfold w d a o k s
  | .fadd w d a b => Sys2Proof.Machine.execFadd w d a b s
  | .fsub w d a b => Sys2Proof.Machine.execFsub w d a b s
  | .fmul w d a b => Sys2Proof.Machine.execFmul w d a b s
  | .fmac w d a b => Sys2Proof.Machine.execFmac w d a b s
  | .fmin w d a b => Sys2Proof.Machine.execFmin w d a b s
  | .fmax w d a b => Sys2Proof.Machine.execFmax w d a b s
  | .fminm w d a b => Sys2Proof.Machine.execFminm w d a b s
  | .fcpysgn w d a b => Sys2Proof.Machine.execFcpysgn w d a b s
  | .fcmp w c m a b o => Sys2Proof.Machine.execFcmp w c m a b o s
  | .fdiv w d a b => Sys2Proof.Machine.execFdiv w d a b s
  | .fsqrt w d a => Sys2Proof.Machine.execFsqrt w d a s
  | .frcp w d a => Sys2Proof.Machine.execFrcp w d a s
  | .frsq w d a => Sys2Proof.Machine.execFrsq w d a s
  | .fexp2 w d a => Sys2Proof.Machine.execFexp2 w d a s
  | .flog2 w d a => Sys2Proof.Machine.execFlog2 w d a s
  | .fsin w d a => Sys2Proof.Machine.execFsin w d a s
  | .fcos w d a => Sys2Proof.Machine.execFcos w d a s
  | .ftanh w d a => Sys2Proof.Machine.execFtanh w d a s
  | .fsigm w d a => Sys2Proof.Machine.execFsigm w d a s
  | .ferf w d a => Sys2Proof.Machine.execFerf w d a s
  | .fclass w d a => Sys2Proof.Machine.execFclass w d a s
  | .hadd2 w d a b => Sys2Proof.Machine.execHadd2 w d a b s
  | .hsub2 w d a b => Sys2Proof.Machine.execHsub2 w d a b s
  | .hmul2 w d a b => Sys2Proof.Machine.execHmul2 w d a b s
  | .hmac2 w d a b => Sys2Proof.Machine.execHmac2 w d a b s
  | .badd2 w d a b => Sys2Proof.Machine.execBadd2 w d a b s
  | .bsub2 w d a b => Sys2Proof.Machine.execBsub2 w d a b s
  | .bmul2 w d a b => Sys2Proof.Machine.execBmul2 w d a b s
  | .bmac2 w d a b => Sys2Proof.Machine.execBmac2 w d a b s
  | .hmin2 w d a b => Sys2Proof.Machine.execHmin2 w d a b s
  | .hmax2 w d a b => Sys2Proof.Machine.execHmax2 w d a b s
  | .bmin2 w d a b => Sys2Proof.Machine.execBmin2 w d a b s
  | .bmax2 w d a b => Sys2Proof.Machine.execBmax2 w d a b s
  | .frnd w d a => Sys2Proof.Machine.execFrnd w d a s
  | .frndNx w d a => Sys2Proof.Machine.execFrndNx w d a s
  | .cvtIntToFloat d a imm f => Sys2Proof.Machine.execCvtIntToFloat d a imm f s
  | .cvtFloatToInt d a imm f => Sys2Proof.Machine.execCvtFloatToInt d a imm f s
  | .cvtFloat d a src f => Sys2Proof.Machine.execCvtFloat d a src f s
  | .pack8 d a f k => Sys2Proof.Machine.execPack8 d a f k s
  | .unpack8 d a f k => Sys2Proof.Machine.execUnpack8 d a f k s
  | .pack4 w d a k => Sys2Proof.Machine.execPack4 w d a k s
  | .unpack4 w d a k => Sys2Proof.Machine.execUnpack4 w d a k s
  | .scaleb w d a b => Sys2Proof.Machine.execScaleb w d a b s
  | .xval d a b => Sys2Proof.Machine.execXval d a b s
  | .sadd d a k y => Sys2Proof.Machine.execSadd d a k y s
  | .ssub d a k y => Sys2Proof.Machine.execSsub d a k y s
  | .smul d a k y => Sys2Proof.Machine.execSmul d a k y s
  | .smin d a k y => Sys2Proof.Machine.execSmin d a k y s
  | .smax d a k y => Sys2Proof.Machine.execSmax d a k y s
  | .sminn d a k y => Sys2Proof.Machine.execSminn d a k y s
  | .smaxn d a k y => Sys2Proof.Machine.execSmaxn d a k y s
  | .sand d a k y => Sys2Proof.Machine.execSand d a k y s
  | .sor d a k y => Sys2Proof.Machine.execSor d a k y s
  | .sxor d a k y => Sys2Proof.Machine.execSxor d a k y s
  | .sshl d a k y => Sys2Proof.Machine.execSshl d a k y s
  | .sshr d a k y => Sys2Proof.Machine.execSshr d a k y s
  | .ssar d a k y => Sys2Proof.Machine.execSsar d a k y s
  | .srotl d a k y => Sys2Proof.Machine.execSrotl d a k y s
  | .smov d b => Sys2Proof.Machine.execSmov d b s
  | .smovi d imm => Sys2Proof.Machine.execSmovi d imm s
  | .scmp d a k y => Sys2Proof.Machine.execScmp d a k y s
  | .ssel d a b => Sys2Proof.Machine.execSsel d a b s
  | .vrd d a j => Sys2Proof.Machine.execVrd d a j s
  | .vwr d a j => Sys2Proof.Machine.execVwr d a j s
  | .slea c d a k y => Sys2Proof.Machine.execSlea c d a k y s
  | .ld w d p n imm => Sys2Proof.Machine.execLd w d p n imm s
  | .st w d p n imm => Sys2Proof.Machine.execSt w d p n imm s
  | .lds w d p n imm => Sys2Proof.Machine.execLds w d p n imm s
  | .sts w d p n imm => Sys2Proof.Machine.execSts w d p n imm s
  | .ldu w d p imm => Sys2Proof.Machine.execLdu w d p imm s
  | .stu w d p imm => Sys2Proof.Machine.execStu w d p imm s
  | .ldx d p imm => Sys2Proof.Machine.execLdx d p imm s
  | .stx d p imm => Sys2Proof.Machine.execStx d p imm s
  | .ldacq w d p c src x => Sys2Proof.Machine.execLdacq w d p c src x s
  | .strel w d p c src x => Sys2Proof.Machine.execStrel w d p c src x s
  | .pref p => Sys2Proof.Machine.execPref p s
  | .wbr l p c => Sys2Proof.Machine.execWbr l p c s
  | .invr l p c => Sys2Proof.Machine.execInvr l p c s
  | .invd l p c => Sys2Proof.Machine.execInvd l p c s
  | .setf p c x => Sys2Proof.Machine.execSetf p c x s
  | .clrf p x => Sys2Proof.Machine.execClrf p x s
  | .ownseg d p => Sys2Proof.Machine.execOwnseg d p s
  | .dropseg d p => Sys2Proof.Machine.execDropseg d p s
  | .aadd w d p src f c t => Sys2Proof.Machine.execAadd w d p src f c t s
  | .amin w d p src f c t => Sys2Proof.Machine.execAmin w d p src f c t s
  | .amax w d p src f c t => Sys2Proof.Machine.execAmax w d p src f c t s
  | .aand w d p src f c t => Sys2Proof.Machine.execAand w d p src f c t s
  | .aor w d p src f c t => Sys2Proof.Machine.execAor w d p src f c t s
  | .axor w d p src f c t => Sys2Proof.Machine.execAxor w d p src f c t s
  | .axchg w d p src f c t => Sys2Proof.Machine.execAxchg w d p src f c t s
  | .acas w d p src f c t => Sys2Proof.Machine.execAcas w d p src f c t s
  | .red w d p src f t o => Sys2Proof.Machine.execRed w d p src f t o s
  | .fence c => Sys2Proof.Machine.execFence c s
  | .xpub l p c => Sys2Proof.Machine.execXpub l p c s
  | .barinit d p src c => Sys2Proof.Machine.execBarinit d p src c s
  | .bararr d p src c => Sys2Proof.Machine.execBararr d p src c s
  | .barwait d p src c => Sys2Proof.Machine.execBarwait d p src c s
  | .barkill d p src c => Sys2Proof.Machine.execBarkill d p src c s
  | .waitaddr w d p k src c => Sys2Proof.Machine.execWaitaddr w d p k src c s
  | .tlwait t n d => Sys2Proof.Machine.execTlwait t n d s
  | .tlread t d => Sys2Proof.Machine.execTlread t d s
  | .rsect => Sys2Proof.Machine.execRsect s
  | .rsecx => Sys2Proof.Machine.execRsecx s
  | .qpass => Sys2Proof.Machine.execQpass s
  | .gpwait t d => Sys2Proof.Machine.execGpwait t d s
  | .timeat t => Sys2Proof.Machine.execTimeat t s
  | .timerd d => Sys2Proof.Machine.execTimerd d s
  | .bra m p o => Sys2Proof.Machine.execBra m p o s
  | .brx a => Sys2Proof.Machine.execBrx a s
  | .call => Sys2Proof.Machine.execCall s
  | .callx a => Sys2Proof.Machine.execCallx a s
  | .ret => Sys2Proof.Machine.execRet s
  | .join m => Sys2Proof.Machine.execJoin m s
  | .leave m => Sys2Proof.Machine.execLeave m s
  | .waitm m => Sys2Proof.Machine.execWaitm m s
  | .mset d src => Sys2Proof.Machine.execMset d src s
  | .mand d a b => Sys2Proof.Machine.execMand d a b s
  | .mor d a b => Sys2Proof.Machine.execMor d a b s
  | .mxor d a b => Sys2Proof.Machine.execMxor d a b s
  | .mnot d a => Sys2Proof.Machine.execMnot d a s
  | .mmov d a => Sys2Proof.Machine.execMmov d a s
  | .prio n => Sys2Proof.Machine.execPrio n s
  | .nop => Sys2Proof.Machine.execNop s
  | .exitI => Sys2Proof.Machine.execExitI s
  | .trap k => Sys2Proof.Machine.execTrap k s
  | .bkpt k => Sys2Proof.Machine.execBkpt k s
  | .csrr d c => Sys2Proof.Machine.execCsrr d c s
  | .csrw d c => Sys2Proof.Machine.execCsrw d c s
  | .csrs d c => Sys2Proof.Machine.execCsrs d c s
  | .csrc d c => Sys2Proof.Machine.execCsrc d c s
  | .role d a => Sys2Proof.Machine.execRole d a s
  | .pstat d src => Sys2Proof.Machine.execPstat d src s
  | .sysc k => Sys2Proof.Machine.execSysc k s
  | .eret => Sys2Proof.Machine.execEret s
  | .halt => Sys2Proof.Machine.execHalt s
  | .btinv d c l => Sys2Proof.Machine.execBtinv d c l s
  | .tfence d c l k => Sys2Proof.Machine.execTfence d c l k s
  | .ctxsv d => Sys2Proof.Machine.execCtxsv d s
  | .ctxld d => Sys2Proof.Machine.execCtxld d s
  | .xw p => Sys2Proof.Machine.execXw p s
  | .xh c => Sys2Proof.Machine.execXh c s
  | .xm r src n a m b p l o c => Sys2Proof.Machine.execXm r src n a m b p l o c s
  | .wload t d b c => Sys2Proof.Machine.execWload t d b c s
  | .wswap c => Sys2Proof.Machine.execWswap c s
  | .mma h v src c => Sys2Proof.Machine.execMma h v src c s
  | .mmax h v src c => Sys2Proof.Machine.execMmax h v src c s
  | .aclr c => Sys2Proof.Machine.execAclr c s
  | .aclrRows a c => Sys2Proof.Machine.execAclrRows a c s
  | .ard d imm => Sys2Proof.Machine.execArd d imm s
  | .awr d imm => Sys2Proof.Machine.execAwr d imm s
  | .ast h v src c => Sys2Proof.Machine.execAst h v src c s
  | .mxcfg a => Sys2Proof.Machine.execMxcfg a s
  | .mxstat src d => Sys2Proof.Machine.execMxstat src d s
  | .mxres c => Sys2Proof.Machine.execMxres c s
  | .strm q b c => Sys2Proof.Machine.execStrm q b c s
  | .strq q d => Sys2Proof.Machine.execStrq q d s
  | .strqEnd q => Sys2Proof.Machine.execStrqEnd q s
  | .cpy b v c => Sys2Proof.Machine.execCpy b v c s
  | .cpym b v c => Sys2Proof.Machine.execCpym b v c s
  | .cpst d n t => Sys2Proof.Machine.execCpst d n t s
  | .gath b v c => Sys2Proof.Machine.execGath b v c s
  | .scat b v c => Sys2Proof.Machine.execScat b v c s
  | .dbw h v c => Sys2Proof.Machine.execDbw h v c s
  | .dbwX2 h v c => Sys2Proof.Machine.execDbwX2 h v c s
  | .nmc b w c => Sys2Proof.Machine.execNmc b w c s
  | .launch p src c => Sys2Proof.Machine.execLaunch p src c s
  | .tpost p r c => Sys2Proof.Machine.execTpost p r c s
  | .tjoin imm src c => Sys2Proof.Machine.execTjoin imm src c s
  | .defer p r c => Sys2Proof.Machine.execDefer p r c s
  | .coll b c => Sys2Proof.Machine.execColl b c s
  | .cabort m c => Sys2Proof.Machine.execCabort m c s
  | .cstat m d => Sys2Proof.Machine.execCstat m d s
  | .bteFetch core region index => Sys2Proof.Machine.execBteFetch core region index s
  | .walkStart basin => Sys2Proof.Machine.execWalkStart basin s
  | .walkComplete basin => Sys2Proof.Machine.execWalkComplete basin s
  | .pageFaultRecord basin => Sys2Proof.Machine.execPageFaultRecord basin s
  | .pfqrespRetry basin seq => Sys2Proof.Machine.execPfqrespRetry basin seq s
  | .pfqrespFail basin seq => Sys2Proof.Machine.execPfqrespFail basin seq s
  | .pfqrespClearErr basin => Sys2Proof.Machine.execPfqrespClearErr basin s
  | .pfqrespIgnored basin => Sys2Proof.Machine.execPfqrespIgnored basin s
  | .pinitStart core => Sys2Proof.Machine.execPinitStart core s
  | .poolInitDone core => Sys2Proof.Machine.execPoolInitDone core s
  | .bankWake core bank => Sys2Proof.Machine.execBankWake core bank s
  | .windowMove core => Sys2Proof.Machine.execWindowMove core s
  | .segmentMove core => Sys2Proof.Machine.execSegmentMove core s
  | .cchBankDrain core bank => Sys2Proof.Machine.execCchBankDrain core bank s
  | .bankClear core bank => Sys2Proof.Machine.execBankClear core bank s
  | .patrolScrub core bank word => Sys2Proof.Machine.execPatrolScrub core bank word s
  | .homeLoadMiss core line => Sys2Proof.Machine.execHomeLoadMiss core line s
  | .homeStoreMiss core line => Sys2Proof.Machine.execHomeStoreMiss core line s
  | .homeRedMiss core line op typ => Sys2Proof.Machine.execHomeRedMiss core line op typ s
  | .homeAtomic core key op typ value compare => Sys2Proof.Machine.execHomeAtomic core key op typ value compare s
  | .writeBack core line => Sys2Proof.Machine.execWriteBack core line s
  | .recall core line => Sys2Proof.Machine.execRecall core line s
  | .shuOperation workgroup address op typ value compare => Sys2Proof.Machine.execShuOperation workgroup address op typ value compare s
  | .segmentTransfer workgroup segment => Sys2Proof.Machine.execSegmentTransfer workgroup segment s
  | .leaseRequest basin line write => Sys2Proof.Machine.execLeaseRequest basin line write s
  | .leaseReleaseRequest holder line => Sys2Proof.Machine.execLeaseReleaseRequest holder line s
  | .leaseRelease holder line => Sys2Proof.Machine.execLeaseRelease holder line s
  | .holderLeaseExpiry basin line => Sys2Proof.Machine.execHolderLeaseExpiry basin line s
  | .homeLeaseExpiry basin line => Sys2Proof.Machine.execHomeLeaseExpiry basin line s
  | .leaseDrift basin uncertainty => Sys2Proof.Machine.execLeaseDrift basin uncertainty s
  | .ifetchMiss group => Sys2Proof.Machine.execIfetchMiss group s
  | .dxForcedPublish line => Sys2Proof.Machine.execDxForcedPublish line s
  | .xframeSet frame => Sys2Proof.Machine.execXframeSet frame s
  | .xframeClear frame => Sys2Proof.Machine.execXframeClear frame s
  | .hbmctlRetire stack channel => Sys2Proof.Machine.execHbmctlRetire stack channel s
  | .channelTrainingFail stack channel => Sys2Proof.Machine.execChannelTrainingFail stack channel s
  | .repairLimit stack channel => Sys2Proof.Machine.execRepairLimit stack channel s
  | .rebuildSegment stack => Sys2Proof.Machine.execRebuildSegment stack s
  | .nmuExecute workgroup => Sys2Proof.Machine.execNmuExecute workgroup s
  | .nmuComplete workgroup => Sys2Proof.Machine.execNmuComplete workgroup s
  | .cxlTimeout port => Sys2Proof.Machine.execCxlTimeout port s
  | .cxlLinkEvent port cause => Sys2Proof.Machine.execCxlLinkEvent port cause s
  | .cxlctlResume port => Sys2Proof.Machine.execCxlctlResume port s
  | .keySlotLoad slot => Sys2Proof.Machine.execKeySlotLoad slot s
  | .sealctlReinit stack frame slot => Sys2Proof.Machine.execSealctlReinit stack frame slot s
  | .sealctlPoolinit stack => Sys2Proof.Machine.execSealctlPoolinit stack s
  | .sealCommandDone stack => Sys2Proof.Machine.execSealCommandDone stack s
  | .rcbupdUpdate region => Sys2Proof.Machine.execRcbupdUpdate region s
  | .rcbupdClrfault region => Sys2Proof.Machine.execRcbupdClrfault region s
  | .rcbupdApply => Sys2Proof.Machine.execRcbupdApply s
  | .rgnkill region => Sys2Proof.Machine.execRgnkill region s
  | .hqptrPut basin queue put => Sys2Proof.Machine.execHqptrPut basin queue put s
  | .packetTake basin => Sys2Proof.Machine.execPacketTake basin s
  | .workgroupPlace basin => Sys2Proof.Machine.execWorkgroupPlace basin s
  | .glenCompaction core glen => Sys2Proof.Machine.execGlenCompaction core glen s
  | .taskStart core => Sys2Proof.Machine.execTaskStart core s
  | .taskWaitSave workgroup => Sys2Proof.Machine.execTaskWaitSave workgroup s
  | .taskRequeue workgroup => Sys2Proof.Machine.execTaskRequeue workgroup s
  | .quantumExpiry workgroup => Sys2Proof.Machine.execQuantumExpiry workgroup s
  | .quantumSave workgroup => Sys2Proof.Machine.execQuantumSave workgroup s
  | .yieldSave workgroup => Sys2Proof.Machine.execYieldSave workgroup s
  | .workgroupRestore workgroup => Sys2Proof.Machine.execWorkgroupRestore workgroup s
  | .turnLimit pipe => Sys2Proof.Machine.execTurnLimit pipe s
  | .starvedTurn group => Sys2Proof.Machine.execStarvedTurn group s
  | .entryAgeLimit group => Sys2Proof.Machine.execEntryAgeLimit group s
  | .febTimeout group lane => Sys2Proof.Machine.execFebTimeout group lane s
  | .waitTimeout group lane => Sys2Proof.Machine.execWaitTimeout group lane s
  | .timeatRelease group => Sys2Proof.Machine.execTimeatRelease group s
  | .timedStart workgroup number => Sys2Proof.Machine.execTimedStart workgroup number s
  | .budgetPeriod basin => Sys2Proof.Machine.execBudgetPeriod basin s
  | .engineClaim core => Sys2Proof.Machine.execEngineClaim core s
  | .matrixUnit core => Sys2Proof.Machine.execMatrixUnit core s
  | .matrixComplete core => Sys2Proof.Machine.execMatrixComplete core s
  | .streamWord group queue => Sys2Proof.Machine.execStreamWord group queue s
  | .cqbusyTimeout group => Sys2Proof.Machine.execCqbusyTimeout group s
  | .copyStart workgroup number => Sys2Proof.Machine.execCopyStart workgroup number s
  | .copyComplete workgroup number => Sys2Proof.Machine.execCopyComplete workgroup number s
  | .doorbellSend port => Sys2Proof.Machine.execDoorbellSend port s
  | .msixArrival port requester offset size => Sys2Proof.Machine.execMsixArrival port requester offset size s
  | .endpointRequest port requester pasid kind handle size value => Sys2Proof.Machine.execEndpointRequest port requester pasid kind handle size value s
  | .atsTranslationRequest port requester pasid handle => Sys2Proof.Machine.execAtsTranslationRequest port requester pasid handle s
  | .priPageRequest port requester pasid handle write => Sys2Proof.Machine.execPriPageRequest port requester pasid handle write s
  | .atsInvalTimeout port requester => Sys2Proof.Machine.execAtsInvalTimeout port requester s
  | .barRequestTimeout request => Sys2Proof.Machine.execBarRequestTimeout request s
  | .ntbPeerRequest peer address kind size value => Sys2Proof.Machine.execNtbPeerRequest peer address kind size value s
  | .linkTrained port speed width flit => Sys2Proof.Machine.execLinkTrained port speed width flit s
  | .rpctlDpcRelease port => Sys2Proof.Machine.execRpctlDpcRelease port s
  | .collStep comm sender rank data => Sys2Proof.Machine.execCollStep comm sender rank data s
  | .collStepTimeout comm rank sender => Sys2Proof.Machine.execCollStepTimeout comm rank sender s
  | .abortNotice comm rank culprit cause => Sys2Proof.Machine.execAbortNotice comm rank culprit cause s
  | .commcmdCreate descriptor => Sys2Proof.Machine.execCommcmdCreate descriptor s
  | .commcmdReform descriptor => Sys2Proof.Machine.execCommcmdReform descriptor s
  | .commcmdDestroy descriptor => Sys2Proof.Machine.execCommcmdDestroy descriptor s
  | .reformAck comm => Sys2Proof.Machine.execReformAck comm s
  | .reformAckTimeout comm => Sys2Proof.Machine.execReformAckTimeout comm s
  | .exclusionNotice comm rank epoch => Sys2Proof.Machine.execExclusionNotice comm rank epoch s
  | .stepRejection comm rank epoch => Sys2Proof.Machine.execStepRejection comm rank epoch s
  | .moduleReset code digest => Sys2Proof.Machine.execModuleReset code digest s
  | .measExtend register digest => Sys2Proof.Machine.execMeasExtend register digest s
  | .svcupUp => Sys2Proof.Machine.execSvcupUp s
  | .powerStep step capped => Sys2Proof.Machine.execPowerStep step capped s
  | .gtbsyncSrc source => Sys2Proof.Machine.execGtbsyncSrc source s
  | .lapseEntryClear basin entry => Sys2Proof.Machine.execLapseEntryClear basin entry s
  | .lapsectlClear basin => Sys2Proof.Machine.execLapsectlClear basin s
  | .dbgcmdHalt command => Sys2Proof.Machine.execDbgcmdHalt command s
  | .dbgcmdResume command => Sys2Proof.Machine.execDbgcmdResume command s
  | .dbgcmdStep command => Sys2Proof.Machine.execDbgcmdStep command s
  | .dbgcmdRead command => Sys2Proof.Machine.execDbgcmdRead command s
  | .dbgcmdWrite command => Sys2Proof.Machine.execDbgcmdWrite command s
  | .dbgwpbWrite watchpoint value => Sys2Proof.Machine.execDbgwpbWrite watchpoint value s
  | .capabilityRecheck region => Sys2Proof.Machine.execCapabilityRecheck region s
  | .pcSample core => Sys2Proof.Machine.execPcSample core s
  | .registerWrite basin offset size value => Sys2Proof.Machine.execRegisterWrite basin offset size value s
  | .illegalEncoding word reason => Sys2Proof.Machine.execIllegalEncoding word reason s
  | .atsInvalidationCompletion port requester => Sys2Proof.Machine.execAtsInvalidationCompletion port requester s
  | .rootPortCompletion request status data => Sys2Proof.Machine.execRootPortCompletion request status data s
  | .cxlMemCompletion port poisoned => Sys2Proof.Machine.execCxlMemCompletion port poisoned s
  | .pcieLinkDown port dpc => Sys2Proof.Machine.execPcieLinkDown port dpc s
  | .hbmTrainingDone => Sys2Proof.Machine.execHbmTrainingDone s
  | .gtbDiscipline uncertainty => Sys2Proof.Machine.execGtbDiscipline uncertainty s

end Sys2Proof.Machine
end

