-- ==== Sys2Proof/Machine/Run.lean ====
section
/-! DEFINITION. Performing an event of the agenda: the meaning its instruction has in Machine/Dispatch.lean. -/
namespace Sys2Proof.Machine

/-- A module whose boot has failed is halted until it is reset (R425). -/
def State.bootFailed (s : State) : Bool := !s.firmware && s.reg 0 .bootstat != 0

/-- Perform an event of a module that runs. -/
def Event.perform (e : Event) (s : State) : Host.Outcome State Fault Refusal :=
  match e with
  | .bteFetch core region index => execBteFetch core region index s
  | .walkStart basin => execWalkStart basin s
  | .walkComplete basin => execWalkComplete basin s
  | .pageFaultRecord basin => execPageFaultRecord basin s
  | .pfqrespRetry basin seq => execPfqrespRetry basin seq s
  | .pfqrespFail basin seq => execPfqrespFail basin seq s
  | .pfqrespClearErr basin => execPfqrespClearErr basin s
  | .pfqrespIgnored basin => execPfqrespIgnored basin s
  | .pinitStart core => execPinitStart core s
  | .poolInitDone core => execPoolInitDone core s
  | .bankWake core bank => execBankWake core bank s
  | .windowMove core => execWindowMove core s
  | .segmentMove core => execSegmentMove core s
  | .cchBankDrain core bank => execCchBankDrain core bank s
  | .bankClear core bank => execBankClear core bank s
  | .patrolScrub core bank word => execPatrolScrub core bank word s
  | .homeLoadMiss core line => execHomeLoadMiss core line s
  | .homeStoreMiss core line => execHomeStoreMiss core line s
  | .homeRedMiss core line op typ => execHomeRedMiss core line op typ s
  | .homeAtomic core key op typ value compare => execHomeAtomic core key op typ value compare s
  | .writeBack core line => execWriteBack core line s
  | .recall core line => execRecall core line s
  | .shuOperation workgroup address op typ value compare => execShuOperation workgroup address op typ value compare s
  | .segmentTransfer workgroup segment => execSegmentTransfer workgroup segment s
  | .leaseRequest basin line write => execLeaseRequest basin line write s
  | .leaseReleaseRequest holder line => execLeaseReleaseRequest holder line s
  | .leaseRelease holder line => execLeaseRelease holder line s
  | .holderLeaseExpiry basin line => execHolderLeaseExpiry basin line s
  | .homeLeaseExpiry basin line => execHomeLeaseExpiry basin line s
  | .leaseDrift basin uncertainty => execLeaseDrift basin uncertainty s
  | .ifetchMiss group => execIfetchMiss group s
  | .dxForcedPublish line => execDxForcedPublish line s
  | .xframeSet frame => execXframeSet frame s
  | .xframeClear frame => execXframeClear frame s
  | .hbmctlRetire stack channel => execHbmctlRetire stack channel s
  | .channelTrainingFail stack channel => execChannelTrainingFail stack channel s
  | .repairLimit stack channel => execRepairLimit stack channel s
  | .rebuildSegment stack => execRebuildSegment stack s
  | .nmuExecute workgroup => execNmuExecute workgroup s
  | .nmuComplete workgroup => execNmuComplete workgroup s
  | .cxlTimeout port => execCxlTimeout port s
  | .cxlLinkEvent port cause => execCxlLinkEvent port cause s
  | .cxlctlResume port => execCxlctlResume port s
  | .keySlotLoad slot => execKeySlotLoad slot s
  | .sealctlReinit stack frame slot => execSealctlReinit stack frame slot s
  | .sealctlPoolinit stack => execSealctlPoolinit stack s
  | .sealCommandDone stack => execSealCommandDone stack s
  | .rcbupdUpdate region => execRcbupdUpdate region s
  | .rcbupdClrfault region => execRcbupdClrfault region s
  | .rcbupdApply => execRcbupdApply s
  | .rgnkill region => execRgnkill region s
  | .hqptrPut basin queue put => execHqptrPut basin queue put s
  | .packetTake basin => execPacketTake basin s
  | .workgroupPlace basin => execWorkgroupPlace basin s
  | .glenCompaction core glen => execGlenCompaction core glen s
  | .taskStart core => execTaskStart core s
  | .taskWaitSave workgroup => execTaskWaitSave workgroup s
  | .taskRequeue workgroup => execTaskRequeue workgroup s
  | .quantumExpiry workgroup => execQuantumExpiry workgroup s
  | .quantumSave workgroup => execQuantumSave workgroup s
  | .yieldSave workgroup => execYieldSave workgroup s
  | .workgroupRestore workgroup => execWorkgroupRestore workgroup s
  | .turnLimit pipe => execTurnLimit pipe s
  | .starvedTurn group => execStarvedTurn group s
  | .entryAgeLimit group => execEntryAgeLimit group s
  | .febTimeout group lane => execFebTimeout group lane s
  | .waitTimeout group lane => execWaitTimeout group lane s
  | .timeatRelease group => execTimeatRelease group s
  | .timedStart workgroup number => execTimedStart workgroup number s
  | .budgetPeriod basin => execBudgetPeriod basin s
  | .engineClaim core => execEngineClaim core s
  | .matrixUnit core => execMatrixUnit core s
  | .matrixComplete core => execMatrixComplete core s
  | .streamWord group queue => execStreamWord group queue s
  | .cqbusyTimeout group => execCqbusyTimeout group s
  | .copyStart workgroup number => execCopyStart workgroup number s
  | .copyComplete workgroup number => execCopyComplete workgroup number s
  | .doorbellSend port => execDoorbellSend port s
  | .msixArrival port requester offset size => execMsixArrival port requester offset size s
  | .endpointRequest port requester pasid kind handle size value => execEndpointRequest port requester pasid kind handle size value s
  | .atsTranslationRequest port requester pasid handle => execAtsTranslationRequest port requester pasid handle s
  | .priPageRequest port requester pasid handle write => execPriPageRequest port requester pasid handle write s
  | .atsInvalTimeout port requester => execAtsInvalTimeout port requester s
  | .barRequestTimeout request => execBarRequestTimeout request s
  | .ntbPeerRequest peer address kind size value => execNtbPeerRequest peer address kind size value s
  | .linkTrained port speed width flit => execLinkTrained port speed width flit s
  | .rpctlDpcRelease port => execRpctlDpcRelease port s
  | .collStep comm sender rank data => execCollStep comm sender rank data s
  | .collStepTimeout comm rank sender => execCollStepTimeout comm rank sender s
  | .abortNotice comm rank culprit cause => execAbortNotice comm rank culprit cause s
  | .commcmdCreate descriptor => execCommcmdCreate descriptor s
  | .commcmdReform descriptor => execCommcmdReform descriptor s
  | .commcmdDestroy descriptor => execCommcmdDestroy descriptor s
  | .reformAck comm => execReformAck comm s
  | .reformAckTimeout comm => execReformAckTimeout comm s
  | .exclusionNotice comm rank epoch => execExclusionNotice comm rank epoch s
  | .stepRejection comm rank epoch => execStepRejection comm rank epoch s
  | .moduleReset code digest => execModuleReset code digest s
  | .measExtend register digest => execMeasExtend register digest s
  | .svcupUp => execSvcupUp s
  | .powerStep step capped => execPowerStep step capped s
  | .gtbsyncSrc source => execGtbsyncSrc source s
  | .lapseEntryClear basin entry => execLapseEntryClear basin entry s
  | .lapsectlClear basin => execLapsectlClear basin s
  | .dbgcmdHalt command => execDbgcmdHalt command s
  | .dbgcmdResume command => execDbgcmdResume command s
  | .dbgcmdStep command => execDbgcmdStep command s
  | .dbgcmdRead command => execDbgcmdRead command s
  | .dbgcmdWrite command => execDbgcmdWrite command s
  | .dbgwpbWrite watchpoint value => execDbgwpbWrite watchpoint value s
  | .capabilityRecheck region => execCapabilityRecheck region s
  | .pcSample core => execPcSample core s
  | .registerWrite basin offset size value => execRegisterWrite basin offset size value s
  | .illegalEncoding word reason => execIllegalEncoding word reason s
  | .atsInvalidationCompletion port requester => execAtsInvalidationCompletion port requester s
  | .rootPortCompletion request status data => execRootPortCompletion request status data s
  | .cxlMemCompletion port poisoned => execCxlMemCompletion port poisoned s
  | .pcieLinkDown port dpc => execPcieLinkDown port dpc s
  | .hbmTrainingDone => execHbmTrainingDone s
  | .gtbDiscipline uncertainty => execGtbDiscipline uncertainty s

/-- Perform an event: of a halted module's none but its reset has an effect (R425). -/
def Event.run (e : Event) (s : State) : Host.Outcome State Fault Refusal :=
  match e with
  | .moduleReset .. => e.perform s
  | _ => if s.bootFailed then .next s else e.perform s

end Sys2Proof.Machine
end

