-- ==== Sys2Proof/Machine/Internal.lean ====
section
/-! DEFINITION. The part's own work that is ready to be done, as events: what the units, dispatchers, homes and timers would do next
(log entry 2).  The order in which they are tried turns with time. -/
namespace Sys2Proof.Machine

/-- An event, when it is ready. -/
def whenReady (c : Bool) (e : Event) : List Event := if c then [e] else []

/-- The translation units and the dispatcher of a basin (R33, R35, R188 to R207). -/
def State.basinWork (s : State) (b : Nat) : List Event :=
  let x := s.basin b
  let p := s.reg b .pfqptr
  whenReady (x.walks.any fun q => !q.started) (Event.walkStart b)
    ++ whenReady (x.walks.any fun q => q.started && !q.failed) (Event.walkComplete b)
    ++ whenReady (x.pfq.any (fun r => r.seq.isNone) && bit (s.reg b .pfqbase) 63
        && (bits p 0 32 + 2 ^ 32 - bits p 32 32) % 2 ^ 32 < 4096) (Event.pageFaultRecord b)
    ++ whenReady (s.startsOn && decide (s.descriptors b < 1024) && !(s.sources b).isEmpty) (Event.packetTake b)
    ++ whenReady (x.waits.any fun e => e.restore.isNone) (Event.workgroupPlace b)
    ++ x.waits.filterMap fun e => e.restore.map Event.workgroupRestore

/-- Leases of a basin that end: as a holder (R93, R95) and as a home (R94). -/
def State.leaseWork (s : State) (b : Nat) : List Event :=
  let x := s.basin b
  let mine := x.rdc.filter fun p => homeOf (lineKey p.1) != b
  (mine.filter fun p => p.2.expiry ≤ s.time).map (fun p => Event.holderLeaseExpiry b p.1)
    ++ (mine.filter fun p => s.time < p.2.expiry && p.2.expiry ≤ s.time + 2).map (fun p => Event.leaseReleaseRequest b p.1)
    ++ (x.leases.filter fun g => s.homeEnd b g ≤ s.time).map fun g => Event.homeLeaseExpiry b g.line

/-- A core's pool, matrix engine and steppe bucket (R50, R55 to R57, R180, R200, R344 to R355). -/
def State.coreWork (s : State) (c : Nat) : List Event :=
  let k := s.core c
  let trn := k.banks.filter fun p => p.2.role == .trn
  whenReady k.busy (Event.poolInitDone c)
    ++ (trn.filter fun p => p.2.outgoing == .off && !p.2.drained).map (fun p => Event.bankWake c p.1)
    ++ (trn.filter fun p => p.2.outgoing == .cch && !p.2.drained).map (fun p => Event.cchBankDrain c p.1)
    ++ (trn.filter fun p => s.bankDrained c p.1).map (fun p => Event.bankClear c p.1)
    ++ whenReady ((s.nextMoves c).any s.movable) (Event.windowMove c)
    ++ whenReady (!k.segMoves.isEmpty) (Event.segmentMove c)
    ++ whenReady (k.mxe.holder.isNone && !k.mxe.waiters.isEmpty) (Event.engineClaim c)
    ++ (match k.mxe.queue with
        | q :: _ => if q.status.isSome then [Event.matrixComplete c] else whenReady q.park.isNone (Event.matrixUnit c)
        | [] => [])
    ++ whenReady (s.bucketHead c).isSome (Event.taskStart c)
    ++ k.sliding.map (fun p => Event.glenCompaction c p.1)
    ++ (s.compactable c).map fun p => Event.glenCompaction c p.1

/-- Whether a time held in an option has come. -/
def come (now : Nat) (t : Option Nat) : Bool := (t.map fun x => decide (x ≤ now)).getD false

/-- A workgroup's commands, timers and moves of segments (R91, R180, R205, R209, R211, R380, R387). -/
def State.wgWork (s : State) (w : Nat) (x : Workgroup) : List Event :=
  let here := x.saved == .resident && !x.exited
  (match x.nmus with
    | q :: _ => if q.result.isSome then [Event.nmuComplete w] else whenReady q.park.isNone (Event.nmuExecute w)
    | [] => [])
    ++ (x.copies.filter fun q => q.slices.any fun l => come s.time l.start).map (fun q => Event.timedStart w q.num)
    ++ (x.copies.filter fun q => q.outcome.isNone && q.park.isNone).map (fun q => Event.copyStart w q.num)
    ++ (x.copies.filter fun q => q.outcome.isSome && q.park.isNone).map (fun q => Event.copyComplete w q.num)
    ++ whenReady (here && x.task && s.allBlocked w (s.quantum x.region)) (Event.taskWaitSave w)
    ++ whenReady (match x.saved with
        | .task t _ _ => !x.exited && t ≤ s.time && !s.steppe.any fun r => r.saved == some w
        | _ => false) (Event.taskRequeue w)
    ++ whenReady (here && !x.task && !x.yieldable && x.resident + s.quantum x.region ≤ s.time) (Event.quantumExpiry w)
    ++ whenReady (here && !x.task && x.yieldable && s.wantsCore w) (Event.quantumSave w)
    ++ whenReady (here && !x.task && s.allBlocked w 0 && s.yieldFor x.region (basinOf x.core)) (Event.yieldSave w)
    ++ (x.segDir.filter fun p => p.2.moving.isSome).map fun p => Event.segmentTransfer w p.1

/-- A resident group's streams and timeouts (R70, R185, R321, R374, R378). -/
def State.groupWork (s : State) (gid : Nat) (g : Group) : List Event :=
  if !s.resident g then []
  else
    let now := s.clockOf (s.regionOf g)
    let feb := s.febTimeout (s.regionOf g)
    let limit := s.waitTimeout (s.regionOf g)
    (g.queues.filter fun p => (p.2.stream.map fun t => t.park.isNone).getD false).map (fun p => Event.streamWord gid p.1)
      ++ ((g.threads.filter fun p => (p.2.feb.map fun f => decide (f.since + feb < now)).getD false).map fun p => Event.febTimeout gid p.1)
      ++ ((g.threads.filter fun p => g.overdue now limit p.1).map fun p => Event.waitTimeout gid p.1)
      ++ whenReady (g.threads.any fun p => (p.2.wait.map fun w => (match w.what with
          | .time t => t ≤ s.time && w.outcome.isNone
          | _ => false)).getD false) (Event.timeatRelease gid)
      ++ whenReady (g.stall == some .engq && come s.time (g.engqSince.map fun t => t + s.quantum (s.regionOf g))) (Event.cqbusyTimeout gid)

/-- Doorbells, outstanding requests and their timeouts, stacks and the region directory (R111, R119, R125, R162, R384, R413, R417). -/
def State.portWork (s : State) : List Event :=
  s.bells.filterMap (fun d => match d.target with
      | some (p, _) => some (Event.doorbellSend p)
      | none => if d.park.isNone then some (Event.doorbellSend 0) else none)
    ++ (s.barReqs.filter fun q => q.result.isNone && q.since + s.portTimeout q.port ≤ s.time).map (fun q => Event.barRequestTimeout q.id)
    ++ (s.cxlReqs.filter fun q => !q.ready && !q.down && q.since + s.portTimeout q.port ≤ s.time).map (fun q => Event.cxlTimeout q.port)
    ++ (s.atsWaits.filter fun q => q.since + 1000000 ≤ s.time).map (fun q => Event.atsInvalTimeout q.port q.rid)
    ++ (s.hbm.filter fun p => p.2.remain != 0).map (fun p => Event.rebuildSegment p.1)
    ++ ((List.range 8).filter s.sealIsBusy).map Event.sealCommandDone
    ++ whenReady s.rcbPend.isSome Event.rcbupdApply

/-- The CXE (R395, R423): messages for ranks of this module, its own blocks to send, timeouts and re-forms. -/
def State.cxeWork (s : State) : List Event :=
  s.notices.filterMap (fun n => if (s.rank? n.comm n.target).isNone then none else match n.kind with
      | 0 => some (Event.abortNotice n.comm n.target n.culprit n.cause)
      | 1 => some (Event.exclusionNotice n.comm n.target n.epoch)
      | _ => none)
    ++ (s.ranks.map fun r => if r.excluded then [] else
        r.inbox.map (fun m => Event.collStep r.comm m.1 r.rank m.2)
          ++ (match s.collOf r with
              | some c => (List.range (s.commSize r.comm)).map (fun t => Event.collStep r.comm r.rank t [])
                  ++ (if c.due + s.tstep r.comm ≤ s.time then
                        (((List.range (s.commSize r.comm)).filter fun t => (c.got.look t).isNone).take 1).map fun t =>
                          Event.collStepTimeout r.comm r.rank t
                      else [])
              | none => [])
          ++ r.colls.filterMap fun c => if come s.time c.start then some (Event.timedStart c.wg c.num) else none).flatten
    ++ (s.comms.map fun p => match p.2.reform with
        | some t => if s.reformLocal p.1 then [Event.reformAck p.1] else whenReady (t ≤ s.time) (Event.reformAckTimeout p.1)
        | none => []).flatten

/-- All the work that is ready. -/
def State.work (s : State) : List Event :=
  ((s.basins.keys.map fun b => s.basinWork b ++ s.leaseWork b).flatten) ++ (s.cores.keys.map s.coreWork).flatten
    ++ (s.wgs.map fun p => s.wgWork p.1 p.2).flatten ++ (s.groups.map fun p => s.groupWork p.1 p.2).flatten
    ++ s.portWork ++ s.cxeWork

/-- The piece of work done next. -/
def State.nextInternal (s : State) : Option Event :=
  match s.work with
  | [] => none
  | e :: es => some ((e :: es).getD (s.time % (es.length + 1)) e)

/-- A holder gives back every lease that is about to end (R95): its copies recalled, their dirty bytes written back. -/
def State.endLeases (s : State) : State :=
  s.basins.keys.foldl (fun s b =>
    (((s.basin b).rdc.filter fun p => homeOf (lineKey p.1) != b && p.2.expiry ≤ s.time + 1).map (·.1)).foldl
      (fun s l => s.holderRelease b l) s) s

/-- What the timers of the part do at a time (R77, R95, R100, R210, R438, R444): soft errors and the scrubber, leases that end, the
NOTIFYs, the publications and the barriers to be made OPEN that the homes owe, the budget periods, the checks of halts' capabilities, the samples, and what has waited. -/
def State.timers (s : State) : State :=
  let s := s.softErrors.bursts.endLeases.gridSweep.reopenBars.owedCols.windowTakes
  let t := s.time
  let budget := if t % 10000 == 0 then (s.basins.filter fun p => !p.2.spent.isEmpty).map (fun p => Event.budgetPeriod p.1) else []
  let caps := if t % 100000 == 0 then
      s.regions.filterMap fun p => if p.2.halt.isSome then some (Event.capabilityRecheck p.1) else none
    else []
  let w := s.reg 0 .sampctl
  let samples := if bit w 31 && t % 2 ^ bits w 0 5 == 0 then s.cores.keys.map Event.pcSample else []
  let owed := s.dxDue.toList.map Event.dxForcedPublish
  { s with agenda := s.agenda ++ s.later ++ owed ++ budget ++ caps ++ samples, later := [] }

end Sys2Proof.Machine
end

