-- ==== Sys2Proof/Machine/Step.lean ====
section
/-! DEFINITION. One step of the module: the event that is due, the part's own next piece of work, or one word of the group whose turn
it is (log entry 2). -/
namespace Sys2Proof.Machine

/-- What an issue leaves once it has been counted (R170, R438). -/
def counted (gid : Nat) (g : Group) (lanes : List Nat) (cost : Nat) (hinted : Bool) : Host.Outcome State Fault Refusal →
    Host.Outcome State Fault Refusal
  | .next t => .next ((t.account gid lanes cost).stepTrap gid g lanes hinted)
  | .fault r => .fault r
  | .refused r => .refused r

/-- Issue the word of the entry of group gid (R166, R169, R230): fetched, decoded and executed. -/
def State.issueWord (s : State) (gid : Nat) (g : Group) (lanes : List Nat) : Host.Outcome State Fault Refusal :=
  match s.fetch gid g lanes with
  | (.error e, t) => .next (t.fetchEnd gid g lanes e)
  | (.ok w, t) =>
    match decodeWord w with
    | .ok i => counted gid g lanes (issueCost i (t.issueOf gid g lanes).act.length) i.isHint (exec i t)
    | .error reason => counted gid g lanes 1 false (execIllegalEncoding w.toNat reason t)

/-- A cycle of the group whose turn it is. -/
def State.issueGroup (s : State) (gid : Nat) : Host.Outcome State Fault Refusal :=
  let s := (s.prepare gid).timers
  match s.group? gid with
  | none => .next s
  | some g => match g.entering with
    -- a trap whose entry word is still to be fetched (R399); no instruction begins
    | some (ts, tpc) =>
      .next (((s.updGroup gid fun g => { g with entering := none }).takeTrap gid ts tpc).updGroup gid fun g => g.heldBy .fetch)
    | none => match s.entry g with
      | [] => .next s
      | l :: ls => s.issueWord gid g (l :: ls)

/-- A cycle in which no group issues: the GTB advances, and what waited is tried again. -/
def State.idle (s : State) : State :=
  let s := (s.endTurns.tick none).timers
  { s with groups := s.groups.map fun (p : Nat × Group) => (p.1, { p.2 with stall := none }), cur := none }

/-- A cycle of the pipes. -/
def State.cycle (s : State) : Host.Outcome State Fault Refusal :=
  match s.pick with
  | some gid => ({ s with phase := true } : State).issueGroup gid
  | none => .next ({ s with phase := true } : State).idle

/-- One step. -/
def step (s : State) : Host.Outcome State Fault Refusal :=
  match s.agenda with
  | e :: es => e.run { s with agenda := es }
  | [] =>
    if s.phase then
      match s.nextInternal with
      | some e => e.run { s with phase := false }
      | none => s.cycle
    else s.cycle

/-- The first pipe of the module without a group, from k on. -/
def State.freePipe (s : State) : Nat → Nat → Nat
  | 0, k => k
  | fuel + 1, k => if s.groups.any fun p => p.2.pipeKey == k then s.freePipe fuel (k + 1) else k

/-- The physical address withFetchWord stores its word at: the first byte of system-core memory. -/
def fetchBase : Nat := 0xFFFFE00000000

/-- A buffer of one page at virtual address 0 with the right X, owned by region 0. -/
def fetchBte : BitVec 256 := BitVec.ofNat 256 (2 ^ 159 + 2 ^ 155 + 4096 * 2 ^ 64)

/-- Its page: valid, executable, at `fetchBase`. -/
def fetchPte : DWord := BitVec.ofNat 64 (fetchBase + 1 + 4 + 256)

/-- A Master Access Table entry that admits every master to every page. -/
def fetchMat : BitVec 256 := BitVec.ofNat 256 (31 * 2 ^ 208 - 16 * 2 ^ 208 + 2 ^ 212 + (2 ^ 40 - 1) * 2 ^ 168 + (2 ^ 48 - 1) * 2 ^ 64)

/-- A resident group of region 0, new to the module, at `fetchBase`, its translation cached, the word stored: the very next step
issues it (log entry 13). -/
def State.withFetchWord (s : State) (nbits w : Nat) : State :=
  let key := s.freePipe (88 * 128) 0
  let core := key / 128
  let id := s.nextWg
  let region := (s.region? 0).getD .fresh
  let region : Region := { region with words := region.words.set 4 (BitVec.ofNat 64 (setBits (region.word 4) 0 16 (max 1 (bits (region.word 4) 0 16))))
                                       halt := none }
  let s := { s with regions := s.regions.set 0 region }
  let g : Group := { Group.fresh id 0 core 96 { pipe := key % 128, slot := 0, slabs := rangeFrom 0 3, wake := none } s.time with
    threads := (List.range 32).map fun l => (l, Thread.fresh (BitVec.ofNat 64 (2 ^ 48)) s.time []) }
  let s := { s with
    groups := s.groups.set (id * 32) g
    wgs := s.wgs.set id (Workgroup.fresh 0 0 core 0 96)
    nextWg := id + 1
    agenda := []
    later := []
    phase := false
    rotor := if key == 0 then 88 * 128 else key - 1 }
  let s := s.updCore core fun (k : Core) => { k with
    pipes := k.pipes.del (key % 128)
    bte := k.bte.set (bteKey (s.ptRoot 0) (s.btBase 0) 1) fetchBte
    tlb := { root := s.ptRoot 0, vpn := 0, pte := fetchPte } :: k.tlb }
  let s := (s.updBasin 0 fun (x : Basin) => { x with mat := x.mat.set (12 * 256) fetchMat }).setReg 0 (.matctl 12) 1
  (s.cleanSector fetchBase).paWrite fetchBase 4 (w % 2 ^ nbits)

end Sys2Proof.Machine
end

