-- ==== Sys2Proof/Safety.lean ====
section
/-! DEFINITION. The words statements are written in: safe runs, the canonical form of memory, an instruction ready to issue, and
what its completion leaves besides its own effect. -/
namespace Sys2Proof.Machine

/-- A list of bytes is in its canonical form: addresses strictly rising, no byte listed that an unlisted address reads as. -/
def Memory.wf (m : List Host.Cell) : Bool := cellsWf m

/-- Main memory and every workgroup's scratchpad are in canonical form. -/
def State.memoryWf (s : State) : Bool := Memory.wf s.mem.bytes && s.wgs.all fun p => Memory.wf p.2.scr

/-- What every step keeps. -/
def Inv (s : State) : Prop := s.memoryWf = true

/-- A step that completes. -/
def Safe (s : State) : Prop := ∃ t, step s = .next t

/-- Instruction i stands ready to issue for the entry x of group g (R166, R169): the entry is the one whose turn it is, the word is
legal there (R230, R231), and no trap stands before it: none decided for a lane, no late trap where the word delivers them
(R404), no watchpoint on its address (R440), no mask register it reads with a parity mismatch (R66); and no soft error strikes a
result of the group (R73, R74). -/
structure Ready (s : State) (i : Instr) (x : Iss) (g : Group) : Prop where
  issuer : s.issuer = some (x.gid, g, x.lanes)
  issue  : s.issueOf x.gid g x.lanes = x
  legal  : issueBad i x g = none
  free   : ∀ l ∈ x.lanes, ∃ th, g.thread? l = some th ∧ th.failed = none ∧ (i.endsSfr = true → th.late = [])
  watch  : s.watchHit (s.regionOf g) x.pc.toNat 4 2 = none
  masks  : maskBad i x g = none
  sound  : g.upset = []

/-- A thread as an issue's bookkeeping leaves it: only where it stands, the counts of its regions and its waiting change, and the
latches of a shifting instruction. -/
structure ThreadKept (i : Instr) (p q : Thread) : Prop where
  prio    : q.prio = p.prio
  stack   : q.stack = p.stack
  spilled : q.spilled = p.spilled
  exited  : q.exited = p.exited
  park    : q.park = p.park
  late    : q.late = p.late
  clock   : q.clock = p.clock
  latches : shifting i = none → q.latches = p.latches

/-- The bookkeeping of an issue whose threads go on as `ends` says, u being the state with the instruction's own effect: nothing
else changes outside the group; in it only threads, the stall reason and the hold window; each thread of the entry stands where
`ends` says with its hints used, its region ended where i ends regions (R128), and no thread loses anything else. -/
structure Done (i : Instr) (u : State) (x : Iss) (at_ : Nat → DWord) (t : State) : Prop where
  rest   : t = { u with groups := t.groups }
  others : ∀ n, n ≠ x.gid → t.group? n = u.group? n
  group  : ∃ k k', u.group? x.gid = some k ∧ t.group? x.gid = some k' ∧
    k' = { k with threads := k'.threads, stall := none, window := k'.window }
  moved  : ∀ l ∈ x.lanes, ∃ p q, u.thread? x.gid l = some p ∧ t.thread? x.gid l = some q ∧ q.pc = at_ l ∧ q.hint = none ∧
    q.wait = none ∧ q.sfr = p.sfr + (if i.endsSfr && x.act.contains l then 1 else 0)
  kept   : ∀ l p, u.thread? x.gid l = some p → ∃ q, t.thread? x.gid l = some q ∧ ThreadKept i p q

/-- Each lane of a list in turn, from s to t (R166). -/
inductive Chain (r : Nat → State → State → Prop) : List Nat → State → State → Prop where
  | nil (s : State) : Chain r [] s s
  | cons {l : Nat} {ls : List Nat} {s m t : State} : r l s m → Chain r ls m t → Chain r (l :: ls) s t

/-- The lanes of an issue in turn, each with its effect R. -/
def EachLane (r : Iss → Nat → State → State → Prop) (x : Iss) (s u : State) : Prop := Chain (r x) x.act s u

/-- An effect made once for an issue that has an active thread (R298); one that has none changes nothing. -/
def Once (p : Iss → State → State → Prop) (x : Iss) (s u : State) : Prop := if x.act = [] then u = s else p x s u

/-- Instruction i completes: wherever it stands ready and its effect leads from the state to u, exec answers a next state, u with
the threads of the entry at the next word. -/
def Completes (i : Instr) (e : Iss → State → State → Prop) : Prop :=
  ∀ s x g u, Ready s i x g → e x s u → ∃ t, exec i s = .next t ∧ Done i u x (fun _ => x.pc + 4#64) t

/-- The threads of the entry live on in u. -/
def Live (x : Iss) (u : State) : Prop := ∀ l ∈ x.lanes, ∃ p, u.thread? x.gid l = some p ∧ p.exited = false

/-- Instruction i completes, its effect lying outside the group as well: wherever the threads of the entry live on in u. -/
def CompletesLive (i : Instr) (e : Iss → State → State → Prop) : Prop :=
  ∀ s x g u, Ready s i x g → e x s u → Live x u → ∃ t, exec i s = .next t ∧ Done i u x (fun _ => x.pc + 4#64) t

/-- Control transfer i completes: its effect leads to u and gives each active lane its target. -/
def Transfers (i : Instr) (e : (Nat → DWord) → Iss → State → State → Prop) : Prop :=
  ∀ s x g u nt, Ready s i x g → e nt x s u →
    ∃ t, exec i s = .next t ∧ Done i u x (fun l => if l ∈ x.act then nt l else x.pc + 4#64) t

/-- The same of calls and returns, which access the spill area: wherever the threads of the entry live on in u. -/
def TransfersLive (i : Instr) (e : (Nat → DWord) → Iss → State → State → Prop) : Prop :=
  ∀ s x g u nt, Ready s i x g → e nt x s u → Live x u →
    ∃ t, exec i s = .next t ∧ Done i u x (fun l => if l ∈ x.act then nt l else x.pc + 4#64) t

end Sys2Proof.Machine
end

