-- ==== Sys2Proof/Reference/Integer.lean ====
section
/-! DEFINITION. What statements say of the integer and uniform instructions: their results as bit vectors, written from the rules of
the spec apart from the meanings, and the effect on one lane. -/
namespace Sys2Proof.Machine

/-- Clamp an exact value to the signed and to the unsigned range of n bits (R268). -/
def clampInt (n : Nat) (v : Int) : BitVec n := BitVec.ofInt n (max (-2 ^ (n - 1)) (min (2 ^ (n - 1) - 1) v))
def clampNat (n : Nat) (v : Int) : BitVec n := BitVec.ofInt n (max 0 (min (2 ^ n - 1) v))

/-- An exact value as a result: wrapped, or clamped where XM SAT is given (R228, R268). -/
def wrapOrSat (x : Iss) (n : Nat) (v : Int) : BitVec n := if x.sat then clampInt n v else BitVec.ofInt n v

/-- Source element k, in the order of the instruction's operands. -/
def src {n : Nat} (l : List (BitVec n)) (k : Nat) : BitVec n := l.getD k 0#n

/-- An immediate of format I with its XWs, 32 bits wide (R226, R277). -/
def immOf (x : Iss) (n : Nat) (i : BitVec 9) : BitVec n := BitVec.ofInt n (BitVec.ofInt 32 (x.imm i)).toInt

/-- Signed or unsigned order (R268, R273). -/
def less (unsigned : Bool) {n : Nat} (a b : BitVec n) : Bool := if unsigned then a.ult b else a.slt b

/-- The results of the arithmetic instructions (R268, R269, R277). -/
def arithmetic : Instr → Option (Nat × ((n : Nat) → Iss → List (BitVec n) → BitVec n))
  | .iadd w _ _ _ => some (elemBits w, fun n x l => wrapOrSat x n ((src l 0).toInt + (src l 1).toInt))
  | .isub w _ _ _ => some (elemBits w, fun n x l => wrapOrSat x n ((src l 0).toInt - (src l 1).toInt))
  | .iadds w _ _ _ => some (elemBits w, fun n _ l => clampNat n ((src l 0).toNat + (src l 1).toNat))
  | .isubs w _ _ _ => some (elemBits w, fun n _ l => clampNat n (((src l 0).toNat : Int) - (src l 1).toNat))
  | .imul w _ _ _ => some (elemBits w, fun n x l => wrapOrSat x n ((src l 0).toInt * (src l 1).toInt))
  | .imad w _ _ _ => some (elemBits w, fun n x l => wrapOrSat x n ((src l 1).toInt * (src l 2).toInt + (src l 0).toInt))
  | .imulhI32 _ _ _ _ => some (32, fun n _ l => (((src l 0).signExtend (2 * n)) * ((src l 1).signExtend (2 * n))).extractLsb' n n)
  | .imulhN32 _ _ _ _ => some (32, fun n _ l => (((src l 0).zeroExtend (2 * n)) * ((src l 1).zeroExtend (2 * n))).extractLsb' n n)
  | .idiv w _ _ _ k => some (elemBits w, fun n _ l =>
      if src l 1 = 0#n then BitVec.allOnes n else if k = 1#1 then (src l 0) / (src l 1) else (src l 0).sdiv (src l 1))
  | .irem w _ _ _ k => some (elemBits w, fun n _ l =>
      if src l 1 = 0#n then src l 0 else if k = 1#1 then (src l 0) % (src l 1) else (src l 0).srem (src l 1))
  | .imin w _ _ _ k => some (elemBits w, fun _ _ l => if less (k == 1#1) (src l 1) (src l 0) then src l 1 else src l 0)
  | .imax w _ _ _ k => some (elemBits w, fun _ _ l => if less (k == 1#1) (src l 0) (src l 1) then src l 1 else src l 0)
  | .iabs w _ _ => some (elemBits w, fun n x l => wrapOrSat x n (src l 0).toInt.natAbs)
  | .ineg w _ _ => some (elemBits w, fun n x l => wrapOrSat x n (-(src l 0).toInt))
  | .iaddi _ _ i => some (32, fun n x l => wrapOrSat x n ((src l 0).toInt + (immOf x n i).toInt))
  | .imuli _ _ i => some (32, fun n x l => wrapOrSat x n ((src l 0).toInt * (immOf x n i).toInt))
  | .imini k _ _ i => some (32, fun n x l => if less (k == 1#1) (immOf x n i) (src l 0) then immOf x n i else src l 0)
  | .imaxi k _ _ i => some (32, fun n x l => if less (k == 1#1) (src l 0) (immOf x n i) then immOf x n i else src l 0)
  | _ => none

/-- The results of the logical instructions, shifts and moves (R270, R274, R277). -/
def logical : Instr → Option (Nat × ((n : Nat) → Iss → List (BitVec n) → BitVec n))
  | .andR _ _ _ _ => some (32, fun _ _ l => src l 0 &&& src l 1)
  | .orR _ _ _ _ => some (32, fun _ _ l => src l 0 ||| src l 1)
  | .xorR _ _ _ _ => some (32, fun _ _ l => src l 0 ^^^ src l 1)
  | .andn _ _ _ _ => some (32, fun _ _ l => src l 0 &&& ~~~(src l 1))
  | .notR _ _ _ => some (32, fun _ _ l => ~~~(src l 0))
  | .mov _ _ _ => some (32, fun _ _ l => src l 0)
  | .shl w _ _ _ => some (elemBits w, fun n _ l => src l 0 <<< ((src l 1).toNat % n))
  | .shr w _ _ _ => some (elemBits w, fun n _ l => src l 0 >>> ((src l 1).toNat % n))
  | .sar w _ _ _ => some (elemBits w, fun n _ l => (src l 0).sshiftRight ((src l 1).toNat % n))
  | .rotl w _ _ _ => some (elemBits w, fun n _ l => (src l 0).rotateLeft ((src l 1).toNat % n))
  | .andi _ _ i => some (32, fun n x l => src l 0 &&& immOf x n i)
  | .ori _ _ i => some (32, fun n x l => src l 0 ||| immOf x n i)
  | .xori _ _ i => some (32, fun n x l => src l 0 ^^^ immOf x n i)
  | .shli _ _ i => some (32, fun n x l => src l 0 <<< (immOf x n i).toNat)
  | .shri _ _ i => some (32, fun n x l => src l 0 >>> (immOf x n i).toNat)
  | .sari _ _ i => some (32, fun n x l => (src l 0).sshiftRight (immOf x n i).toNat)
  | .rotli _ _ i => some (32, fun n x l => (src l 0).rotateLeft (immOf x n i).toNat)
  | .movi _ i => some (32, fun n x _ => immOf x n i)
  | _ => none

/-- The position and the length of a bit field, the length cut at the word's end (R272). -/
def fieldPos (b : BitVec 32) : Nat := (b.extractLsb' 0 5).toNat
def fieldLen (b : BitVec 32) : Nat := min (b.extractLsb' 8 6).toNat (32 - fieldPos b)

/-- The ones of a field of n bits at p. -/
def fieldOnes (p n : Nat) : BitVec 32 := BitVec.ofNat 32 (2 ^ n - 1) <<< p

/-- One byte of BYTSEL: the byte a 3-bit number picks of the eight of b and a, as it is, bit-reversed, its sign eight times, or
zero (R272). -/
def byteOf (pool : BitVec 64) (c : BitVec 5) : BitVec 8 :=
  let p := pool.extractLsb' (8 * (c.extractLsb' 0 3).toNat) 8
  match (c.extractLsb' 3 2).toNat with
  | 0 => p
  | 1 => p.reverse
  | 2 => if p.msb then 0xFF#8 else 0#8
  | _ => 0#8

/-- Part k of w bits of a register, signed or not. -/
def partOf (unsigned : Bool) (w : Nat) (v : BitVec 32) (k : Nat) : Int :=
  if unsigned then (v.extractLsb' (w * k) w).toNat else (v.extractLsb' (w * k) w).toInt

/-- The dot product of m parts of w bits, added to d (R275). -/
def dotOf (m w : Nat) (unsigned : Bool) (x : Iss) (l : List (BitVec 32)) : BitVec 32 :=
  let sum : Int := ((List.range m).map fun k => partOf unsigned w (src l 1) k * partOf unsigned w (src l 2) k).sum
    + (if unsigned then ((src l 0).toNat : Int) else (src l 0).toInt)
  if x.sat then (if unsigned then clampNat 32 sum else clampInt 32 sum) else BitVec.ofInt 32 sum

/-- The results of the counting, reversing, field and dot product instructions on 32-bit elements (R271, R272, R275). -/
def bitwise : Instr → Option (Iss → List (BitVec 32) → BitVec 32)
  | .bfx _ _ _ _ k => some fun _ l =>
      let p := fieldPos (src l 1)
      let n := fieldLen (src l 1)
      if n = 0 then 0#32
      else if k = 1#1 then (src l 0 <<< (32 - p - n)).sshiftRight (32 - n) else (src l 0 >>> p) &&& fieldOnes 0 n
  | .bfi _ _ _ _ => some fun _ l =>
      let p := fieldPos (src l 2)
      let n := fieldLen (src l 2)
      (src l 0 &&& ~~~(fieldOnes p n)) ||| ((src l 1 <<< p) &&& fieldOnes p n)
  | .bytsel _ _ _ _ => some fun _ l =>
      let pool := src l 2 ++ src l 1
      let b (j : Nat) : BitVec 8 := byteOf pool ((src l 0).extractLsb' (5 * j) 5)
      b 3 ++ b 2 ++ b 1 ++ b 0
  | .dp4 _ _ _ _ k => some (dotOf 4 8 (k == 1#1))
  | .dp2 _ _ _ _ k => some (dotOf 2 16 (k == 1#1))
  | _ => none

/-- The results of the counts and the reversal, at either element width (R271). -/
def counts : Instr → Option (Nat × ((n : Nat) → List (BitVec n) → BitVec n))
  | .popc w _ _ => some (elemBits w, fun n l => BitVec.ofNat n ((List.range n).countP fun k => (src l 0).getLsbD k))
  | .clz w _ _ => some (elemBits w, fun n l => BitVec.ofNat n (((List.range n).find? fun k => (src l 0).getMsbD k).getD n))
  | .ctz w _ _ => some (elemBits w, fun n l => BitVec.ofNat n (((List.range n).find? fun k => (src l 0).getLsbD k).getD n))
  | .brev w _ _ => some (elemBits w, fun _ l => (src l 0).reverse)
  | _ => none

/-- Element k of each source, n bits wide (R218, R264): n = 64 takes a register pair, low word first. -/
def elements (n : Nat) (vs : List (List Word)) (k : Nat) : List (BitVec n) :=
  vs.map fun ws => if n = 64 then (ws.getD (2 * k + 1) 0#32 ++ ws.getD (2 * k) 0#32).setWidth n else (ws.getD k 0#32).setWidth n

/-- The words of m registers that hold results of n bits. -/
def resultWords (n m : Nat) (f : Nat → BitVec n) : List Word :=
  if n = 64 then (List.range m).map fun k => if k % 2 = 0 then (f (k / 2)).setWidth 32 else ((f (k / 2)) >>> 32).setWidth 32
  else (List.range m).map fun k => (f k).setWidth 32

/-- One lane of a register instruction: its sources are read and checked, each element's result is written to the destination
(R263, R264, R268). -/
def LaneResult (i : Instr) (n : Nat) (f : List (BitVec n) → BitVec n) (x : Iss) (l : Nat) (a b : State) : Prop :=
  ∃ g vs m o, a.group? x.gid = some g ∧ readOps x l ((sources i).map fun o => (o, n == 64)) a = .ok vs m ∧
    destOf i = some o ∧
    writeVals x l o (resultWords n o.n fun k => f (elements n vs k)) (sourceDeps g l (sources i)) m = .ok () b

/-- The condition of a comparison (R273). -/
def condition (c : BitVec 3) {n : Nat} (a b : BitVec n) : Bool :=
  match c.toNat with
  | 0 => a == b
  | 1 => a != b
  | 2 => a.slt b
  | 3 => !b.slt a
  | 4 => a.ult b
  | 5 => !b.ult a
  | 6 => a &&& b != 0#n
  | _ => a &&& b == 0#n

/-- A mask with bit l as the combine code says of its old value and the condition (R273). -/
def combined (o : BitVec 2) (m : BitVec 32) (l : Nat) (c : Bool) : BitVec 32 :=
  let old := m.getLsbD l
  let new := match o.toNat with
    | 0 => c
    | 1 => old && c
    | 2 => old || c
    | _ => old != c
  if new then m ||| BitVec.twoPow 32 l else m &&& ~~~(BitVec.twoPow 32 l)

/-- One lane of an integer comparison: bit l of mask m (R273). -/
def LaneCompare (i : Instr) (n : Nat) (c : BitVec 3) (m : BitVec 4) (o : BitVec 2) (b : Option (BitVec n)) (x : Iss) (l : Nat) (p q : State) : Prop :=
  ∃ vs r, readOps x l ((sources i).map fun o => (o, n == 64)) p = .ok vs r ∧
    let y := condition c (src (elements n vs 0) 0) (b.getD (src (elements n vs 0) 1))
    q = r.updGroup x.gid fun g => { g with masks := g.masks.set m.toNat (combined o (g.mask m.toNat) l y) }

/-- One lane of SEL: the fourth operand c picks a or b (R274). -/
def LaneSelect (w : BitVec 2) (d a b : BitVec 7) (t : BitVec 2) (x : Iss) (l : Nat) (p q : State) : Prop :=
  let i : Instr := .sel w d a b t
  let os := sources i ++ [x.opdOperand (widthN w)]
  ∃ g vs r, p.group? x.gid = some g ∧ readOps x l (os.map fun o => (o, false)) p = .ok vs r ∧
    writeVals x l (oDst d (widthN w)) ((List.range (widthN w)).map fun k =>
      let c := src (elements 32 vs k) 2
      let yes : Bool := match t.toNat with
        | 0 => c != 0#32
        | 1 => c == 0#32
        | 2 => c.msb
        | _ => !c.msb
      if yes then src (elements 32 vs k) 0 else src (elements 32 vs k) 1) (sourceDeps g l os) r = .ok () q

/-- The offset of LEA and LEAS in bytes (R276). -/
def offsetOf (i : Instr) (ws : List Word) : Int :=
  match i with
  | .leas _ _ _ s => (ws.getD 0 0#32).toInt * 2 ^ (s.toNat + 1)
  | _ => (ws.getD 1 0#32 ++ ws.getD 0 0#32).toInt

/-- The operands of LEA and LEAS, and how many words of the second source they use (R276). -/
def addressSource : Instr → Option (BitVec 7 × BitVec 7 × BitVec 7 × Nat)
  | .lea d a b => some (d, a, b, 2)
  | .leas d a b _ => some (d, a, b, 1)
  | _ => none

/-- What LEA and LEAS read: a handle address h and the words of the second pair, of which the first `used` are sound as h's are (R75, R276). -/
def AddressRead (a b : BitVec 7) (used : Nat) (x : Iss) (l : Nat) (p : State) (h : BitVec 64) (ws : List Word) (r : State) : Prop :=
  ∃ lo hi rb m, readRaw x l (oSrc a 2) true p = .ok [lo, hi] m ∧ readRaw x l (oSrc b 2) true m = .ok rb r ∧
    (∀ w ∈ lo :: hi :: rb.take used, w.bad = false) ∧ h = hi.val ++ lo.val ∧ ws = rb.map (·.val)

/-- One lane of LEA and LEAS: handle plus offset, the index field the same (R276). -/
def LaneAddress (i : Instr) (d a b : BitVec 7) (used : Nat) (x : Iss) (l : Nat) (p q : State) : Prop :=
  ∃ g h ws r, p.group? x.gid = some g ∧ AddressRead a b used x l p h ws r ∧
    let y := h + BitVec.ofInt 64 (offsetOf i ws)
    y.extractLsb' 48 16 = h.extractLsb' 48 16 ∧
    writeVals x l (oDst d 2) [y.setWidth 32, (y >>> 32).setWidth 32] (sourceDeps g l [oSrc a 2, oSrc b 2]) r = .ok () q

/-- The source y of a uniform instruction as 32 bits: a register, or the immediate with its XWs (R291). -/
def UniformY (x : Iss) (g : Group) (k : BitVec 1) (y : BitVec 9) (v : BitVec 32) : Prop :=
  if k = 0#1 then g.getS (y.extractLsb' 0 6).toNat = regWord v else v = BitVec.ofInt 32 (x.imm y)

/-- The results of the uniform arithmetic (R291, R292). -/
def uniformResult : Instr → Option (BitVec 6 × BitVec 6 × BitVec 1 × BitVec 9 × (BitVec 32 → BitVec 32 → BitVec 32))
  | .sadd d a k y => some (d, a, k, y, fun p q => p + q)
  | .ssub d a k y => some (d, a, k, y, fun p q => p - q)
  | .smul d a k y => some (d, a, k, y, fun p q => p * q)
  | .smin d a k y => some (d, a, k, y, fun p q => if q.slt p then q else p)
  | .smax d a k y => some (d, a, k, y, fun p q => if p.slt q then q else p)
  | .sminn d a k y => some (d, a, k, y, fun p q => if q.ult p then q else p)
  | .smaxn d a k y => some (d, a, k, y, fun p q => if p.ult q then q else p)
  | .sand d a k y => some (d, a, k, y, fun p q => p &&& q)
  | .sor d a k y => some (d, a, k, y, fun p q => p ||| q)
  | .sxor d a k y => some (d, a, k, y, fun p q => p ^^^ q)
  | .sshl d a k y => some (d, a, k, y, fun p q => p <<< (q.toNat % 32))
  | .sshr d a k y => some (d, a, k, y, fun p q => p >>> (q.toNat % 32))
  | .ssar d a k y => some (d, a, k, y, fun p q => p.sshiftRight (q.toNat % 32))
  | .srotl d a k y => some (d, a, k, y, fun p q => p.rotateLeft (q.toNat % 32))
  | .scmp d a k y => some (d, a, k, y, fun p q =>
      BitVec.ofBool (p.ult q) ++ BitVec.ofBool (p.slt q) ++ BitVec.ofBool (p == q) |>.setWidth 32)
  | _ => none

/-- A group with uniform register k written, `d` being what uniform registers know of other threads' regions (R139). -/
def uniformWritten (g : Group) (k : Nat) (v : BitVec 32) (d : NMap (NMap Nat)) : Group := { g.setS k (regWord v) with sdeps := d }

end Sys2Proof.Machine
end

