-- ==== Sys2Proof/Reference/Float.lean ====
section
/-! DEFINITION. What statements say of the floating-point, conversion and lane instructions: exact results and their rounding, the
flags raised, and the effect on one lane. -/
namespace Sys2Proof.Machine

/-- The exponent field and the fraction field of a code (R241). -/
def expField (f : Fmt) (c : Nat) : Nat := c / 2 ^ f.frac % 2 ^ f.ebits
def fracField (f : Fmt) (c : Nat) : Nat := c % 2 ^ f.frac

/-- Whether a code is a finite number (R241): e4m3 spends one code of its highest exponent on the NaN, the others all of them. -/
def finiteCode (f : Fmt) (c : Nat) : Prop :=
  c < 2 ^ f.bits ∧ (expField f c = 2 ^ f.ebits - 1 → f.inf = false ∧ fracField f c ≠ 2 ^ f.frac - 1)

/-- The value of a finite code, counted in the format's smallest subnormal number (R241). -/
def fixed (f : Fmt) (c : Nat) : Int :=
  let a : Int := if expField f c = 0 then (fracField f c : Nat) else ((2 ^ f.frac + fracField f c) * 2 ^ (expField f c - 1) : Nat)
  if c.testBit (f.bits - 1) then -a else a

/-- The exponent of the smallest subnormal number, and how many of them make one (R241). -/
def smallest (f : Fmt) : Int := 1 - (f.bias : Int) - f.frac
def oneOf (f : Fmt) : Nat := 2 ^ (f.bias + f.frac - 1)

/-- Codes in numeric order, −0 below +0 and beside it (R283, R284). -/
def orderKey (f : Fmt) (c : Nat) : Int :=
  if c.testBit (f.bits - 1) then -((c % 2 ^ (f.bits - 1) : Nat) : Int) - 1 else (c % 2 ^ (f.bits - 1) : Nat)
def valueKey (f : Fmt) (c : Nat) : Int :=
  if c.testBit (f.bits - 1) then -((c % 2 ^ (f.bits - 1) : Nat) : Int) else (c % 2 ^ (f.bits - 1) : Nat)

/-- Whether a truncated magnitude is raised (R246): q of the u parts between two neighbours lie above it, `odd` says its last digit. -/
def upBy (neg odd : Bool) (q u : Nat) (rd : Rnd) : Prop :=
  q ≠ 0 ∧ (rd.mode = 1 ∧ (u < 2 * q ∨ 2 * q = u ∧ odd = true) ∨ rd.mode = 3 ∧ neg = true ∨ rd.mode = 4 ∧ neg = false ∨
    rd.mode = 5 ∧ u ≤ 2 * q ∨ rd.mode = 6 ∧ rd.r < q * 2 ^ rd.w / u)

/-- A magnitude of a parts, `one` of which make one, rounded to an integer in a mode (R246, R286, R287). -/
def Integral (neg : Bool) (a one : Nat) (rd : Rnd) (y : Nat) : Prop :=
  (upBy neg (a / one % 2 == 1) (a % one) one rd → y = a / one + 1) ∧ (¬ upBy neg (a / one % 2 == 1) (a % one) one rd → y = a / one)

/-- What rounding a number ±m × 2^e gives (R246, R247): a neighbour, by the mode; the nearest's overflow; NX where it is not the number.
Values are compared counted in the smaller of 2^e and the format's smallest subnormal. -/
def RoundsTo (f : Fmt) (neg : Bool) (m : Nat) (e : Int) (rd : Rnd) (y : Nat × Nat) : Prop :=
  let k := min e (smallest f)
  let v : Int := (if neg then -1 else 1) * (m * 2 ^ (e - k).toNat : Nat)
  let z (d : Nat) : Int := fixed f d * 2 ^ (smallest f - k).toNat
  let c := y.1
  (finiteCode f c → c.testBit (f.bits - 1) = neg ∧ (y.2 % 2 = 1 ↔ z c ≠ v) ∧ ∀ d, finiteCode f d →
    (rd.mode = 1 → (v - z c).natAbs ≤ (v - z d).natAbs ∧ ((v - z c).natAbs = (v - z d).natAbs → z d ≠ z c → c % 2 = 0)) ∧
    (rd.mode = 2 → (z c).natAbs ≤ v.natAbs ∧ ((z d).natAbs ≤ v.natAbs → (z d).natAbs ≤ (z c).natAbs)) ∧
    (rd.mode = 3 → z c ≤ v ∧ (z d ≤ v → z d ≤ z c)) ∧ (rd.mode = 4 → v ≤ z c ∧ (v ≤ z d → z c ≤ z d)) ∧
    (rd.mode = 5 → (v - z c).natAbs ≤ (v - z d).natAbs ∧ ((v - z c).natAbs = (v - z d).natAbs → z d ≠ z c → (z d).natAbs < (z c).natAbs))) ∧
  (¬ finiteCode f c → y.2 = (if f.inf then 5 else 21) ∧ c = if f.inf then (if neg then 2 ^ (f.bits - 1) else 0) + (2 ^ f.ebits - 1) * 2 ^ f.frac
    else 0x7F) ∧
  (rd.mode = 1 → ∀ d, finiteCode f d → (∀ b, finiteCode f b → fixed f b ≤ fixed f d) →
    let gap : Int := 2 ^ (expField f d - 1)
    (finiteCode f c ↔ 2 * v.natAbs < (2 * fixed f d + gap) * 2 ^ (smallest f - k).toNat ∨
      2 * v.natAbs = (2 * fixed f d + gap) * 2 ^ (smallest f - k).toNat ∧ d % 2 = 0))

/-- The exact result of the arithmetic on values, with the invalid and zero-divide flags of R250 (R282). -/
def floatExact : Instr → Option (Fmt × (Rnd → List FX → FX × Nat))
  | .fadd w _ _ _ => some (fmtW w, fun rd l => fxAdd (rd.mode == 3) (l.getD 0 .nan) (l.getD 1 .nan))
  | .fsub w _ _ _ => some (fmtW w, fun rd l => fxAdd (rd.mode == 3) (l.getD 0 .nan) (l.getD 1 .nan).neg)
  | .fmul w _ _ _ => some (fmtW w, fun _ l => fxMul (l.getD 0 .nan) (l.getD 1 .nan))
  | .fmac w _ _ _ => some (fmtW w, fun rd l => fxFma (rd.mode == 3) (l.getD 1 .nan) (l.getD 2 .nan) (l.getD 0 .nan))
  | .fdiv w _ _ _ => some (fmtW w, fun _ l => fxDiv (l.getD 0 .nan) (l.getD 1 .nan))
  | .fsqrt w _ _ => some (fmtW w, fun _ l => fxSqrt (l.getD 0 .nan))
  | .hadd2 _ _ _ _ => some (fmtF16, fun rd l => fxAdd (rd.mode == 3) (l.getD 0 .nan) (l.getD 1 .nan))
  | .hsub2 _ _ _ _ => some (fmtF16, fun rd l => fxAdd (rd.mode == 3) (l.getD 0 .nan) (l.getD 1 .nan).neg)
  | .hmul2 _ _ _ _ => some (fmtF16, fun _ l => fxMul (l.getD 0 .nan) (l.getD 1 .nan))
  | .hmac2 _ _ _ _ => some (fmtF16, fun rd l => fxFma (rd.mode == 3) (l.getD 1 .nan) (l.getD 2 .nan) (l.getD 0 .nan))
  | .badd2 _ _ _ _ => some (fmtBF16, fun rd l => fxAdd (rd.mode == 3) (l.getD 0 .nan) (l.getD 1 .nan))
  | .bsub2 _ _ _ _ => some (fmtBF16, fun rd l => fxAdd (rd.mode == 3) (l.getD 0 .nan) (l.getD 1 .nan).neg)
  | .bmul2 _ _ _ _ => some (fmtBF16, fun _ l => fxMul (l.getD 0 .nan) (l.getD 1 .nan))
  | .bmac2 _ _ _ _ => some (fmtBF16, fun rd l => fxFma (rd.mode == 3) (l.getD 1 .nan) (l.getD 2 .nan) (l.getD 0 .nan))
  | _ => none

/-- Round an exact result once (R246): code and flags. -/
def roundOnce (f : Fmt) (op : Rnd → List FX → FX × Nat) (rd : Rnd) (l : List Nat) : Nat × Nat :=
  let y := op rd (l.map (decodeF f))
  ((roundTo f y.1 rd).1, (roundTo f y.1 rd).2 ||| y.2)

/-- Minimum and maximum (R283) and rounding to an integral value (R286), on codes. -/
def floatPick : Instr → Option (Fmt × (Rnd → List Nat → Nat × Nat))
  | .fmin w _ _ _ => some (fmtW w, fun _ l => fminmax (fmtW w) false false (l.getD 0 0) (l.getD 1 0))
  | .fmax w _ _ _ => some (fmtW w, fun _ l => fminmax (fmtW w) true false (l.getD 0 0) (l.getD 1 0))
  | .fminm w _ _ _ => some (fmtW w, fun _ l => fminmax (fmtW w) false true (l.getD 0 0) (l.getD 1 0))
  | .hmin2 _ _ _ _ => some (fmtF16, fun _ l => fminmax fmtF16 false false (l.getD 0 0) (l.getD 1 0))
  | .hmax2 _ _ _ _ => some (fmtF16, fun _ l => fminmax fmtF16 true false (l.getD 0 0) (l.getD 1 0))
  | .bmin2 _ _ _ _ => some (fmtBF16, fun _ l => fminmax fmtBF16 false false (l.getD 0 0) (l.getD 1 0))
  | .bmax2 _ _ _ _ => some (fmtBF16, fun _ l => fminmax fmtBF16 true false (l.getD 0 0) (l.getD 1 0))
  | .frnd w _ _ => some (fmtW w, fun rd l => frnd (fmtW w) false (l.getD 0 0) rd)
  | .frndNx w _ _ => some (fmtW w, fun rd l => frnd (fmtW w) true (l.getD 0 0) rd)
  | _ => none

/-- The functions the spec bounds (R253, R254): the exact value, the bound in ulps, and the absolute bound of FLOG2. -/
def approximated : Instr → Option (Fmt × Nat × (FX → FX × Nat) × (FX → Nat))
  | .frcp w _ _ => some (fmtW w, 1, fnRcp, fun _ => 0)
  | .frsq w _ _ => some (fmtW w, 1, fnRsq, fun _ => 0)
  | .fexp2 w _ _ => some (fmtW w, 2, fnExp2, fun _ => 0)
  | .flog2 w _ _ => some (fmtW w, 2, fnLog2, logSlack (fmtW w))
  | .fsin w _ _ => some (fmtW w, 2, fnTrig 0, fun _ => 0)
  | .fcos w _ _ => some (fmtW w, 2, fnTrig 1, fun _ => 0)
  | .ftanh w _ _ => some (fmtW w, 2, fnTanh, fun _ => 0)
  | .fsigm w _ _ => some (fmtW w, 2, fnSigm, fun _ => 0)
  | .ferf w _ _ => some (fmtW w, 2, fnErf, fun _ => 0)
  | _ => none

/-- A code is a result the bound admits: correctly rounded, or within the bound of the exact value, a subnormal one flushed under
FTZ (R249, R253). -/
def WithinBound (f : Fmt) (ulps : Nat) (g : FX → FX × Nat) (slack : FX → Nat) (rd : Rnd) (a c : Nat) : Prop :=
  let y := (g (decodeF f a)).1
  c = (roundTo f y rd).1 ∨
    ∃ c', admissible f y ulps (slack (decodeF f a)) c' = true ∧
      (c = c' ∨ (rd.ftz = true ∧ isSub f c' = true ∧ c = signCode f (bit c' (f.bits - 1))))

/-- The rounding of element k of an issue (R228, R248, R282): XM RM or FPCTL's mode, the element's random integer under .rs. -/
def roundingOf (x : Iss) (g : Group) (f : Fmt) (random : List Word) (k : Nat) : Rnd :=
  let m := if x.rm = 0 then (g.fpctl.extractLsb' 0 3).toNat else x.rm
  let r := if m = 6 then randOf f.bits random k else (0, 0)
  { mode := m, r := r.1, w := r.2, sat := x.sat, ftz := g.fpctl.getLsbD 4 }

/-- Whether the issue rounds stochastically, so that its fourth operand is read (R228, R248). -/
def stochastic (x : Iss) (g : Group) : Bool := (if x.rm = 0 then (g.fpctl.extractLsb' 0 3).toNat else x.rm) == 6

/-- The sources of a floating-point instruction, the fourth operand last under .rs. -/
def floatSources (i : Instr) (x : Iss) (g : Group) : List Operand :=
  sources i ++ (if stochastic x g then [x.opdOperand i.opdWidth] else [])

/-- Element k of each source as the operation sees it: flushed under FTZ (R249), a and b with their modifiers, absolute value first
(R228); d of a multiply-accumulate has none. -/
def floatArgs (i : Instr) (f : Fmt) (x : Iss) (g : Group) (vs : List (List Word)) (k : Nat) : List Nat :=
  ((vs.take (sources i).length).zipIdx).map fun p =>
    let v := ftzIn (g.fpctl.getLsbD 4) f ((packElems f.bits p.1).getD k 0)
    match (if (destOf i).map (·.cls) == some .rw then p.2 else p.2 + 1) with
    | 0 => v
    | 1 => modCode f x.na x.aa v
    | _ => modCode f x.nb x.ab v

/-- Flags are ORed into FPSTAT, none of them enabled to trap (R250, R251). -/
def FlagsRaised (x : Iss) (g : Group) (fl : Nat) (a b : State) : Prop :=
  fl &&& (g.fpctl.extractLsb' 8 5).toNat = 0 ∧ b = a.updGroup x.gid fun h => { h with fpstat := h.fpstat ||| BitVec.ofNat 32 fl }

/-- The results of the elements of a lane, with NV where a source is a signalling NaN (R250). -/
def floatResults (i : Instr) (f : Fmt) (op : Rnd → List Nat → Nat × Nat) (x : Iss) (g : Group) (vs : List (List Word)) (m : Nat) :
    List (Nat × Nat) :=
  (List.range (m * 32 / f.bits)).map fun k =>
    let l := floatArgs i f x g vs k
    let r := op (roundingOf x g f (vs.getD (sources i).length []) k) l
    (r.1, r.2 ||| (if l.any (isSNaN f) then flagNV else 0))

/-- One lane of a floating-point instruction (R282): sources read, flags raised, results written. -/
def LaneFloat (i : Instr) (f : Fmt) (op : Rnd → List Nat → Nat × Nat) (x : Iss) (l : Nat) (a b : State) : Prop :=
  ∃ g vs m m' o, a.group? x.gid = some g ∧ readOps x l ((floatSources i x g).map fun o => (o, f.bits == 64)) a = .ok vs m ∧
    destOf i = some o ∧ FlagsRaised x g (orFlags (floatResults i f op x g vs o.n)) m m' ∧
    writeVals x l o (packWords f.bits ((floatResults i f op x g vs o.n).map (·.1))) [] m' = .ok () b

/-- One lane of FCPYSGN: the magnitude of a with the sign of b, no flag (R283). -/
def LaneCopySign (w : BitVec 2) (d a b : BitVec 7) (x : Iss) (l : Nat) (p q : State) : Prop :=
  let f := fmtW w
  ∃ vs m, readOps x l [(oSrc a (widthN w), f.bits == 64), (oSrc b (widthN w), f.bits == 64)] p = .ok vs m ∧
    writeVals x l (oDst d (widthN w)) (resultWords f.bits (widthN w) fun k =>
      let u : BitVec f.bits := BitVec.ofNat f.bits (modCode f x.na x.aa (src (elements f.bits vs k) 0).toNat)
      let v : BitVec f.bits := BitVec.ofNat f.bits (modCode f x.nb x.ab (src (elements f.bits vs k) 1).toNat)
      (u &&& ~~~(BitVec.twoPow f.bits (f.bits - 1))) ||| (v &&& BitVec.twoPow f.bits (f.bits - 1))) [] m = .ok () q

/-- One lane of FCMP: the condition and its flags, into bit l of mask m (R284). -/
def LaneFcmp (w : BitVec 2) (c : BitVec 3) (m : BitVec 4) (a b : BitVec 7) (o : BitVec 2) (x : Iss) (l : Nat) (p q : State) : Prop :=
  let f := fmtW w
  ∃ g vs r r', p.group? x.gid = some g ∧
    readOps x l [(oSrc a (widthN w), f.bits == 64), (oSrc b (widthN w), f.bits == 64)] p = .ok vs r ∧
    let dress (neg abs_ : Bool) (k : Nat) : Nat :=
      modCode f neg abs_ (ftzIn (g.fpctl.getLsbD 4) f (src (elements f.bits vs 0) k).toNat)
    let y := floatCond f c (dress x.na x.aa 0) (dress x.nb x.ab 1)
    FlagsRaised x g y.2 r r' ∧
      q = r'.updGroup x.gid fun h => { h with masks := h.masks.set m.toNat (combined o (h.mask m.toNat) l y.1) }

/-- One lane of FCLASS: the class of each element, no flag (R285). -/
def LaneClass (w : BitVec 2) (d a : BitVec 7) (x : Iss) (l : Nat) (p q : State) : Prop :=
  let f := fmtW w
  ∃ vs m, readOps x l [(oSrc a (widthN w), f.bits == 64)] p = .ok vs m ∧
    writeVals x l (oDst d (widthN w)) (resultWords f.bits (widthN w) fun k =>
      BitVec.ofNat f.bits (fclassOf f (src (elements f.bits vs k) 0).toNat)) [] m = .ok () q

/-- The number a list of words holds, the first word lowest. -/
def numberOf : List Word → Nat
  | [] => 0
  | w :: ws => w.toNat + 2 ^ 32 * numberOf ws

/-- The conversions and packings (R287 to R290): where the random bits lie, and the result of the source numbers, an fourth operand
standing last. -/
def conversion (x : Iss) : Instr → Option ((Nat × Nat) × Option Operand × (Rnd → List Nat → Nat × Nat))
  | .cvtIntToFloat _ _ t f =>
    let fm := fmtOf f.toNat
    some (randPlace fm, none, fun rd l =>
      let v : Int := if t = 0#2 then (BitVec.ofNat 32 (l.getD 0 0)).toInt else if t = 1#2 then (BitVec.ofNat 32 (l.getD 0 0)).toNat
        else if t = 2#2 then (BitVec.ofNat 64 (l.getD 0 0)).toInt else (BitVec.ofNat 64 (l.getD 0 0)).toNat
      roundTo fm (.num (v < 0) v.natAbs 0 false) rd)
  | .cvtFloatToInt _ _ t f =>
    let fm := fmtOf f.toNat
    some ((0, 32), none, fun rd l =>
      let b := if 2 ≤ t.toNat then 64 else 32
      let signed := t = 0#2 ∨ t = 2#2
      let r := floatToInt fm (if signed then -2 ^ (b - 1) else 0) (if signed then 2 ^ (b - 1) - 1 else 2 ^ b - 1)
        (ftzIn rd.ftz fm (l.getD 0 0 % 2 ^ fm.bits)) rd
      ((BitVec.ofInt b r.1).toNat, r.2))
  | .cvtFloat _ _ t f =>
    let s := fmtOf t.toNat
    let d := fmtOf f.toNat
    some (randPlace d, none, fun rd l =>
      let v := ftzIn rd.ftz s (l.getD 0 0 % 2 ^ s.bits)
      ((roundTo d (decodeF s v) rd).1, (roundTo d (decodeF s v) rd).2 ||| (if isSNaN s v then flagNV else 0)))
  | .pack8 _ _ f k => some ((8 * k.toNat, 8), none, fun rd l =>
      let r := pack8Byte f.toNat (ftzIn rd.ftz fmtF32 (l.getD 1 0)) rd
      (setBits (l.getD 0 0) (8 * k.toNat) 8 r.1, r.2))
  | .unpack8 _ _ f k => some ((0, 32), none, fun rd l =>
      let b := bits (l.getD 0 0) (8 * k.toNat) 8
      let r := roundTo fmtF32 (unpack8Value f.toNat b) { rd with mode := 1, sat := false }
      (r.1, r.2 ||| (if f = 1#3 ∧ isSNaN fmtE5M2 b then flagNV else 0)))
  | .pack4 _ _ _ k => some ((8 * k.toNat, 8), none, fun rd l =>
      let r := pack4Code (decodeF fmtF32 (ftzIn rd.ftz fmtF32 (l.getD 1 0))) rd
      (setBits (l.getD 0 0) (4 * k.toNat) 4 r.1, r.2))
  | .unpack4 _ _ _ k => some ((16, 16), if x.opd = 127 then none else some (x.opdOperand 1), fun rd l =>
      let c := if x.opd = 127 then 127 else l.getD 1 0
      roundTo fmtF32 (decodeE2M1X (bits (l.getD 0 0) (4 * k.toNat) 4) (bits c 0 8) (bits c 8 8)) rd)
  | .xval _ _ _ => some ((0, 8), none, fun rd l => xvalOf (ftzIn rd.ftz fmtF32 (l.getD 0 0)) (bits (l.getD 1 0) 0 8) rd)
  | _ => none

/-- One lane of a conversion (R287 to R290). -/
def LaneConvert (i : Instr) (rb : Nat × Nat) (extra : Option Operand) (op : Rnd → List Nat → Nat × Nat) (x : Iss) (l : Nat) (a b : State) :
    Prop :=
  ∃ g vs m m' o, a.group? x.gid = some g ∧
    (let four := match extra with
      | some y => [y]
      | none => if stochastic x g then [x.opdOperand i.opdWidth] else []
     readOps x l ((sources i ++ four).map fun o => (o, o.n == 2)) a = .ok vs m) ∧ destOf i = some o ∧
    let r := if stochastic x g then bits (numberOf (vs.getD (sources i).length [])) rb.1 rb.2 else 0
    let y := op { roundingOf x g fmtF32 [] 0 with r := r, w := rb.2 } (vs.map numberOf)
    FlagsRaised x g y.2 m m' ∧
      writeVals x l o ((List.range o.n).map fun k => BitVec.ofNat 32 (y.1 / 2 ^ (32 * k))) [] m' = .ok () b

/-- One lane of SCALEB: a × 2^k, k being the low word of b (R290). -/
def LaneScale (w : BitVec 2) (d a b : BitVec 7) (x : Iss) (l : Nat) (p q : State) : Prop :=
  let i : Instr := .scaleb w d a b
  let f := fmtW w
  ∃ g vs m m', p.group? x.gid = some g ∧ readOps x l ((floatSources i x g).map fun o => (o, f.bits == 64)) p = .ok vs m ∧
    let res := (List.range (widthN w * 32 / f.bits)).map fun k =>
      let v := ftzIn (g.fpctl.getLsbD 4) f (src (elements f.bits vs k) 0).toNat
      let n := ((src (elements f.bits vs k) 1).setWidth 32).toInt
      let c := roundTo f (scaleBy (decodeF f v) n) (roundingOf x g f (vs.getD 2 []) k)
      (c.1, c.2 ||| (if isSNaN f v then flagNV else 0))
    FlagsRaised x g (orFlags res) m m' ∧
      writeVals x l (oDst d (widthN w)) (resultWords f.bits (widthN w) fun k => BitVec.ofNat f.bits (res.getD k (0, 0)).1) [] m' = .ok () q

/-- The results of the votes from every lane's element, in lane order (R278, R280); a mask is the sum of its lanes' bits. -/
def voteOf : Instr → Option (Nat × (List (Nat × Nat) → Nat → BitVec 32))
  | .ballot w _ _ => some (elemBits w, fun vs _ => (vs.map fun p => if p.2 ≠ 0 then BitVec.twoPow 32 p.1 else 0#32).foldl (· + ·) 0#32)
  | .lanesAll w _ _ => some (elemBits w, fun vs _ => if ∀ p ∈ vs, p.2 ≠ 0 then 1#32 else 0#32)
  | .lanesAny w _ _ => some (elemBits w, fun vs _ => if ∃ p ∈ vs, p.2 ≠ 0 then 1#32 else 0#32)
  | .peers w _ _ => some (elemBits w, fun vs l =>
      (vs.map fun p => if NMap.look vs l = some p.2 then BitVec.twoPow 32 p.1 else 0#32).foldl (· + ·) 0#32)
  | .rank _ _ => some (32, fun vs l => BitVec.ofNat 32 ((List.range l).countP fun k =>
      ((vs.find? fun p => p.1 == l).map fun p => p.2.testBit k).getD false))
  | .mpopc _ _ => some (32, fun vs l => BitVec.ofNat 32 ((List.range 32).countP fun k =>
      ((vs.find? fun p => p.1 == l).map fun p => p.2.testBit k).getD false))
  | _ => none

/-- Lanes read one after another, what each read listed (R263). -/
inductive Gathers {α : Type} (r : Nat → State → α → State → Prop) : List Nat → State → List (Nat × α) → State → Prop where
  | nil (s : State) : Gathers r [] s [] s
  | cons {l : Nat} {ls : List Nat} {v : α} {vs : List (Nat × α)} {s m t : State} :
      r l s v m → Gathers r ls m vs t → Gathers r (l :: ls) s ((l, v) :: vs) t

/-- What a lane reads for a vote: its element. -/
def VoteRead (i : Instr) (n : Nat) (x : Iss) (l : Nat) (a : State) (v : Nat) (b : State) : Prop :=
  ∃ ws, readOps x l ((sources i).map fun o => (o, n == 64)) a = .ok ws b ∧ v = (src (elements n ws 0) 0).toNat

/-- One lane's write of a vote's result. -/
def LaneWrite (o : Operand) (f : Nat → List Word) (x : Iss) (l : Nat) (a b : State) : Prop := writeVals x l o (f l) [] a = .ok () b

/-- Results given per lane, or the lowest active lane's once to a uniform destination (R278, R281). -/
def JointWrites (x : Iss) (o : Operand) (f : Nat → List Word) (s u : State) : Prop :=
  if 104 ≤ o.code ∧ o.code < 120 then (match x.act with
    | [] => u = s
    | l :: _ => LaneWrite o f x l s u)
  else Chain (LaneWrite o f x) x.act s u

/-- The lane LXCH reads from: given, below, above or across, itself where that is no active lane (R279). -/
def exchangeFrom (v : BitVec 2) (act : List Nat) (k l : Nat) : Nat :=
  let u : Nat := match v.toNat with
    | 0 => l
    | 1 => if l ≤ k then k - l else 32
    | 2 => k + l
    | _ => k ^^^ l
  if u ∈ act then u else k

/-- One step of a fold of two elements (R281): the integer operators, and the floating-point ones under RNE or the issue's mode. -/
def foldStep (n : Nat) (o : Nat) (a b : BitVec n) : BitVec n :=
  match o with
  | 0 => a + b
  | 1 => if b.slt a then b else a
  | 2 => if b.ult a then b else a
  | 3 => if a.slt b then b else a
  | 4 => if a.ult b then b else a
  | 5 => a &&& b
  | 6 => a ||| b
  | _ => a ^^^ b

/-- LXCH (R263, R279): every lane's a and b are read, b's first register's low bits selecting; then each lane, with no poison or damage in
its b or in what it receives, writes what its source lane read. -/
def ExchangeEffect (w : BitVec 2) (d a b : BitVec 7) (v : BitVec 2) (x : Iss) (s u : State) : Prop :=
  ∃ (rs : List (Nat × (List RegWord × List RegWord))) (m : State),
    Gathers (fun l p (r : List RegWord × List RegWord) q => ∃ t, readRaw x l (oSrc a (widthN w)) false p = .ok r.1 t ∧
      readRaw x l (oSrc b (widthN w)) false t = .ok r.2 q) x.act s rs m ∧
    Chain (fun l p q => ∃ mine sent, NMap.look rs l = some mine ∧
      NMap.look rs (exchangeFrom v x.act l ((mine.2.getD 0 zeroWord).val.extractLsb' 0 5).toNat) = some sent ∧
      (∀ y ∈ sent.1 ++ mine.2, y.bad = false) ∧ writeDst x l (oDst d (widthN w)) sent.1 [] p = .ok () q) x.act m u

/-- One step of a floating-point fold (R281, R283): code and flags. -/
def foldFloatStep (f : Fmt) (o : Nat) (rd : Rnd) (a b : Nat) : Nat × Nat :=
  let r := match o with
    | 0 => roundOnce f (fun rd l => fxAdd (rd.mode == 3) (l.getD 0 .nan) (l.getD 1 .nan)) rd [a, b]
    | 1 => fminmax f false false a b
    | _ => fminmax f true false a b
  (r.1, r.2 ||| (if isSNaN f a || isSNaN f b then flagNV else 0))

/-- LFOLD (R281): the active lanes' elements folded in ascending order from the first, a floating fold under the issue's rounding with
each step's random bits its lane's own, the flags raised once. -/
def FoldEffect (w : BitVec 2) (d a o : BitVec 7) (k : BitVec 1) (x : Iss) (s u : State) : Prop :=
  let i : Instr := .lfold w d a o k
  let n := elemBits w
  ∃ g vs m m1 dst, s.group? x.gid = some g ∧
    (let four := if k == 1#1 && stochastic x g then [x.opdOperand i.opdWidth] else []
     Gathers (fun l p ws q => readOps x l ((sources i ++ four).map fun y => (y, n == 64)) p = .ok ws q) x.act s vs m) ∧
    destOf i = some dst ∧
    let elem (p : Nat × List (List Word)) : BitVec n := src (elements n p.2 0) 0
    let step (acc : Nat × Nat) (p : Nat × List (List Word)) : Nat × Nat :=
      let r := foldFloatStep (fmtW w) o.toNat { roundingOf x g (fmtW w) (p.2.getD 1 []) 0 with sat := false, ftz := false } acc.1 (elem p).toNat
      (r.1, acc.2 ||| r.2)
    match vs with
    | [] => u = m
    | p :: ps =>
      let y : Nat × Nat := if k = 0#1 then ((ps.foldl (fun acc q => foldStep n o.toNat acc (elem q)) (elem p)).toNat, 0)
        else ps.foldl step ((elem p).toNat, 0)
      FlagsRaised x g y.2 m m1 ∧ JointWrites x dst (fun _ => resultWords n dst.n fun _ => BitVec.ofNat n y.1) m1 u

end Sys2Proof.Machine
end

