-- ==== Sys2Proof/Reference/Memory.lean ====
section
/-! DEFINITION. What statements say of the instructions that access memory and scratchpad, synchronise and wait: the address of each
access, what is loaded and stored, and the effect on one lane. -/
namespace Sys2Proof.Machine

/-- The bytes a plain access moves (R215): a narrow size moves part of one register. -/
def accessBytes (w : BitVec 2) (n : BitVec 1) : Nat := if n = 1#1 then (if w.toNat < 2 then 1 else 2) else 4 * 2 ^ w.toNat

/-- The words a load of little-endian bytes gives (R5, R215): one byte or two extended by zeros or the sign, else whole words. -/
def loadedWords (signed : Bool) : List Byte → List Word
  | [b] => [if signed then b.signExtend 32 else b.zeroExtend 32]
  | [b, c] => [if signed then (c ++ b).signExtend 32 else (c ++ b).zeroExtend 32]
  | b :: c :: d :: e :: bs => (e ++ d ++ c ++ b) :: loadedWords signed bs
  | _ => []

/-- What a load of n registers leaves: the words with their residues, or poison (R73, R75, R120). -/
def loadedRegs (n : Nat) (signed : Bool) (r : List Byte × Bool) : List RegWord :=
  if r.2 then List.replicate n { val := 0#32, res := 0x7F#7 }
  else (loadedWords signed r.1).map fun w => { val := w, res := BitVec.ofNat 7 (w.toNat % 127) }

/-- The little-endian bytes a store of n bytes takes from its words (R5, R215). -/
def storedBytes (n : Nat) (ws : List Word) : List Byte := (ws.map bytesOfWord).flatten.take n

/-- The displacement of format M: units of the access, or the unscaled offset of the XWs (R296). -/
def displacement (x : Iss) (i : BitVec 9) (size : Nat) : Int := if x.xw = [] then i.toInt * size else x.imm i

/-- The handle address of a global access (R296): pair plus displacement, the index field the same, aligned to the access. -/
def HandleAt (pair : Nat) (disp : Int) (size h : Nat) : Prop :=
  h = ((pair + disp) % 2 ^ 64).toNat ∧ h / 2 ^ 48 = pair / 2 ^ 48 ∧ h % size = 0

/-- The scratchpad address of an access (R296). -/
def ScratchAt (low : Nat) (disp : Int) (size a : Nat) : Prop := a = ((low + disp) % 2 ^ 32).toNat ∧ a % size = 0

/-- A global load of a lane into an operand (R17, R300): translated, checked for races (R134), read, written. -/
def GlobalLoad (x : Iss) (l pair : Nat) (disp : Int) (size : Nat) (signed : Bool) (dst : Operand) (dep : NMap Nat) (m b : State) : Prop :=
  ∃ h at_ m1 g r m2, HandleAt pair disp size h ∧ reach x l h size .load [0] m = .ok at_ m1 ∧ m1.group? x.gid = some g ∧
    raced x l (raceChecked at_ true) dep (globalLoc at_.pa) size 0 false (loadAt (m1.viaOf g x.gid l) at_ size) m1 = .ok r m2 ∧
    writeDst x l dst (loadedRegs dst.n signed r) (if at_.g then m2.knownAt g (globalLoc at_.pa) size else []) m2 = .ok () b

/-- A write that a sealed page's frame still has counters for, where it reaches one (R124). -/
def SealAdmits (at_ : Xlat) (m m' : State) : Prop := M.whenB at_.enc (exhaustGate at_.pa) m = .ok () m'

/-- A global store of a lane (R17, R299): the bytes go to the translated address; a release chain there ends (R132). A late trap of it
goes to the lanes `whom`. -/
def GlobalStore (x : Iss) (l : Nat) (whom : List Nat) (pair : Nat) (disp : Int) (size : Nat) (bs : List Byte) (dep : NMap Nat)
    (m b : State) : Prop :=
  ∃ h at_ m1 g m1' m2, HandleAt pair disp size h ∧ reach x l h size .store [1] m = .ok at_ m1 ∧ m1.group? x.gid = some g ∧
    SealAdmits at_ m1 m1' ∧
    raced x l (raceChecked at_ false) dep (globalLoc at_.pa) size 0 true
      (storeAt { m1.viaOf g x.gid l with late := whom } at_ bs) m1' = .ok () m2 ∧
    b = m2.breakChain false 0 (keyOf at_.pa) size

/-- One lane of LD (R300). -/
def LaneLd (w : BitVec 2) (d : BitVec 7) (p : BitVec 6) (n : BitVec 1) (i : BitVec 9) (x : Iss) (l : Nat) (a b : State) : Prop :=
  ∃ vs m g, readOps x l [(oAddr p false, true)] a = .ok vs m ∧ m.group? x.gid = some g ∧
    GlobalLoad x l (numberOf (vs.getD 0 [])) (displacement x i (accessBytes w n)) (accessBytes w n) (n == 1#1 && w.toNat % 2 == 1)
      (oOut .load d (memN w n)) (depOf g l (oAddr p false)) m b

/-- One lane of ST (R299). -/
def LaneSt (w : BitVec 2) (d : BitVec 7) (p : BitVec 6) (n : BitVec 1) (i : BitVec 9) (x : Iss) (l : Nat) (a b : State) : Prop :=
  ∃ vs m g, readOps x l [(oIn .store d (memN w n), false), (oAddr p false, true)] a = .ok vs m ∧ m.group? x.gid = some g ∧
    GlobalStore x l [l] (numberOf (vs.getD 1 [])) (displacement x i (accessBytes w n)) (accessBytes w n)
      (storedBytes (accessBytes w n) (vs.getD 0 [])) (depOf g l (oAddr p false)) m b

/-- One lane of LDS (R69, R89, R300). -/
def LaneLds (w : BitVec 2) (d : BitVec 7) (p : BitVec 6) (n : BitVec 1) (i : BitVec 9) (x : Iss) (l : Nat) (a b : State) : Prop :=
  ∃ vs m g c at_ r m1 m2, readOps x l [(oAddr p true, false)] a = .ok vs m ∧ m.group? x.gid = some g ∧
    ScratchAt (numberOf (vs.getD 0 [])) (displacement x i (accessBytes w n)) (accessBytes w n) c ∧
    scrResolve g.wg c (accessBytes w n) m = .ok at_ m ∧
    raced x l true (depOf g l (oAddr p true)) (scrLoc at_) (accessBytes w n) 0 false (scrLoad g.wg at_ (accessBytes w n)) m = .ok r m1 ∧
    fillAcquire x l at_ m1 = .ok () m2 ∧
    writeDst x l (oOut .load d (memN w n)) (loadedRegs (memN w n) (n == 1#1 && w.toNat % 2 == 1) r) [] m2 = .ok () b

/-- One lane of STS (R69, R90, R300). -/
def LaneSts (w : BitVec 2) (d : BitVec 7) (p : BitVec 6) (n : BitVec 1) (i : BitVec 9) (x : Iss) (l : Nat) (a b : State) : Prop :=
  ∃ vs m g c at_ m1, readOps x l [(oIn .store d (memN w n), false), (oAddr p true, false)] a = .ok vs m ∧ m.group? x.gid = some g ∧
    ScratchAt (numberOf (vs.getD 1 [])) (displacement x i (accessBytes w n)) (accessBytes w n) c ∧
    scrResolve g.wg c (accessBytes w n) m = .ok at_ m ∧ (m.lineEmpty at_ = true → m.ownsSeg g.wg at_ = true) ∧
    raced x l true (depOf g l (oAddr p true)) (scrLoc at_) (accessBytes w n) 0 true
      (scrStore g.wg at_ (storedBytes (accessBytes w n) (vs.getD 0 []))) m = .ok () m1 ∧
    b = m1.breakChain true at_.wg at_.addr (accessBytes w n)

/-- LDU and STU, by the lowest thread of the entry (R298, R301). -/
def LduOnce (w : BitVec 2) (d : BitVec 7) (p : BitVec 6) (i : BitVec 9) (x : Iss) (a b : State) : Prop :=
  let l := x.lanes.headD 0
  ∃ vs m g, readOps x l [(oAddrU p, true)] a = .ok vs m ∧ m.group? x.gid = some g ∧
    GlobalLoad x l (numberOf (vs.getD 0 [])) (displacement x i (4 * 2 ^ w.toNat)) (4 * 2 ^ w.toNat) false (oOut .sOne d (widthN w))
      (depOf g l (oAddr p false)) m b
def StuOnce (w : BitVec 2) (d : BitVec 7) (p : BitVec 6) (i : BitVec 9) (x : Iss) (a b : State) : Prop :=
  let l := x.lanes.headD 0
  ∃ vs m g, readOps x l [(oIn .sOne d (widthN w), false), (oAddrU p, true)] a = .ok vs m ∧ m.group? x.gid = some g ∧
    GlobalStore x l x.lanes (numberOf (vs.getD 1 [])) (displacement x i (4 * 2 ^ w.toNat)) (4 * 2 ^ w.toNat)
      (storedBytes (4 * 2 ^ w.toNat) (vs.getD 0 [])) (depOf g l (oAddr p false)) m b

/-- The register and lane a window address names (R31, R302). -/
def WindowAt (g : Group) (low : Nat) (i : BitVec 9) (r l : Nat) : Prop :=
  let a := (((low % 2 ^ 14 : Nat) + 4 * i.toInt) % 2 ^ 14).toNat
  a % 4 = 0 ∧ r = a / 128 ∧ l = a / 4 % 32 ∧ r < g.count

/-- One lane of LDX: the word as it stood when the instruction issued, in s (R302). -/
def LaneLdx (s : State) (d : BitVec 7) (p : BitVec 6) (i : BitVec 9) (x : Iss) (l : Nat) (a b : State) : Prop :=
  ∃ g0 vs m g r k, s.group? x.gid = some g0 ∧ readOps x l [(oAddr p true, false)] a = .ok vs m ∧ m.group? x.gid = some g ∧
    WindowAt g (numberOf (vs.getD 0 [])) i r k ∧
    let v := g0.regs.get zeroWord (r * 32 + k)
    (v.bad = true → v.poisoned = true) ∧ writeDst x l (oOut .load d 1) [v] [] m = .ok () b

/-- What a lane of STX reads: the place and the word (R302). -/
def StxRead (d : BitVec 7) (p : BitVec 6) (i : BitVec 9) (x : Iss) (l : Nat) (a : State) (v : Nat × Word) (b : State) : Prop :=
  ∃ vs g r k, readOps x l [(oIn .store d 1, false), (oAddr p true, false)] a = .ok vs b ∧ b.group? x.gid = some g ∧
    WindowAt g (numberOf (vs.getD 1 [])) i r k ∧ v = (r * 32 + k, (vs.getD 0 []).getD 0 0#32)

/-- The words of STX written in lane order. -/
def stxWrites (x : Iss) (vs : List (Nat × Nat × Word)) (m : State) : State :=
  vs.foldl (fun t p => t.updGroup x.gid fun g => { g with regs := g.regs.set p.2.1 (regWord p.2.2), vdeps := g.vdeps.del p.2.1 }) m

/-- One lane of LDACQ: read where its scope is performed, the releases there acquired (R132, R142, R303). -/
def LaneLdacq (w : BitVec 2) (d : BitVec 7) (p : BitVec 6) (c : BitVec 2) (sp : BitVec 1) (i : BitVec 6) (x : Iss) (l : Nat) (a b : State) :
    Prop :=
  let size : Nat := 4 * 2 ^ w.toNat
  ∃ vs m g r m1 m1' m2, readOps x l [(oAddr p (sp == 1#1), sp == 0#1)] a = .ok vs m ∧ m.group? x.gid = some g ∧
    (if sp = 1#1 then ∃ c1 at_ m0, ScratchAt (numberOf (vs.getD 0 [])) (i.toInt * size) size c1 ∧ scrResolve g.wg c1 size m = .ok at_ m ∧
        scrLoad g.wg at_ size m = .ok r m0 ∧ fillAcquire x l at_ m0 = .ok () m1 ∧
        depends x l (depOf g l (oAddr p true)) m1 = .ok () m1' ∧ acquireRange x l (scrLoc at_) size c.toNat m1' = .ok () m2
     else ∃ h at_ m0 g0 g1, HandleAt (numberOf (vs.getD 0 [])) (i.toInt * size) size h ∧ reach x l h size .load [0] m = .ok at_ m0 ∧
        m0.group? x.gid = some g0 ∧ syncRead (m0.viaOf g0 x.gid l) at_ size m0 = .ok r m1 ∧ m1.group? x.gid = some g1 ∧
        depends x l (depOf g1 l (oAddr p false)) m1 = .ok () m1' ∧
        acquireRange x l (globalLoc at_.pa) size c.toNat m1' = .ok () m2) ∧
    writeDst x l (oOut .load d (widthN w)) (loadedRegs (widthN w) false r) [] m2 = .ok () b

/-- One lane of STREL: earlier stores visible at its scope, then the store, released there (R131, R132, R303). -/
def LaneStrel (w : BitVec 2) (d : BitVec 7) (p : BitVec 6) (c : BitVec 2) (sp : BitVec 1) (i : BitVec 6) (x : Iss) (l : Nat) (a b : State) :
    Prop :=
  let size : Nat := 4 * 2 ^ w.toNat
  ∃ vs m g m1 m2 m3, readOps x l [(oIn .store d (widthN w), false), (oAddr p (sp == 1#1), sp == 0#1)] a = .ok vs m ∧
    m.group? x.gid = some g ∧
    if sp = 1#1 then ∃ c1 at_, ScratchAt (numberOf (vs.getD 1 [])) (i.toInt * size) size c1 ∧ scrResolve g.wg c1 size m = .ok at_ m ∧
        waitRelease x.gid c.toNat m = .ok () m1 ∧ scrStore g.wg at_ (storedBytes size (vs.getD 0 [])) m1 = .ok () m2 ∧
        depends x l (depOf g l (oAddr p true)) m2 = .ok () m3 ∧
        b = (m3.breakChain true at_.wg at_.addr size).releaseRange x.gid l (scrLoc at_) size c.toNat false
    else ∃ h at_ m0 g0 g1, HandleAt (numberOf (vs.getD 1 [])) (i.toInt * size) size h ∧ reach x l h size .store [1] m = .ok at_ m0 ∧
        m0.group? x.gid = some g0 ∧ waitRelease x.gid c.toNat m0 = .ok () m1 ∧
        syncWrite (m0.viaOf g0 x.gid l) at_ (storedBytes size (vs.getD 0 [])) m1 = .ok () m2 ∧ m2.group? x.gid = some g1 ∧
        depends x l (depOf g1 l (oAddr p false)) m2 = .ok () m3 ∧
        b = (m3.breakChain false 0 (keyOf at_.pa) size).releaseRange x.gid l (globalLoc at_.pa) size c.toNat false

/-- The operation, type and fields of an atomic (R307 to R309). -/
def atomicForm : Instr → Option (Nat × BitVec 7 × BitVec 6 × BitVec 1 × BitVec 1 × BitVec 2 × BitVec 3)
  | .aadd _ d p sp f c t => some (0, d, p, sp, f, c, t)
  | .amin _ d p sp f c t => some (1, d, p, sp, f, c, t)
  | .amax _ d p sp f c t => some (2, d, p, sp, f, c, t)
  | .aand _ d p sp f c t => some (3, d, p, sp, f, c, t)
  | .aor _ d p sp f c t => some (4, d, p, sp, f, c, t)
  | .axor _ d p sp f c t => some (5, d, p, sp, f, c, t)
  | .axchg _ d p sp f c t => some (6, d, p, sp, f, c, t)
  | .acas _ d p sp f c t => some (7, d, p, sp, f, c, t)
  | _ => none

/-- The new value of an atomic on an element of n bits, as bit vectors (R308): signed and unsigned types differ in their order,
floating types add rounded to nearest even. -/
def atomicValue (op typ : Nat) {n : Nat} (old v cmp : BitVec n) : BitVec n :=
  let below (p q : BitVec n) : Bool := if typ % 2 = 0 then p.slt q else p.ult q
  match op with
  | 0 => if typ = 4 then BitVec.ofNat n (addRne fmtF32 old.toNat v.toNat)
         else if typ = 5 then BitVec.ofNat n (addRne fmtF64 old.toNat v.toNat) else old + v
  | 1 => if below v old then v else old
  | 2 => if below old v then v else old
  | 3 => old &&& v
  | 4 => old ||| v
  | 5 => old ^^^ v
  | 6 => v
  | _ => if old = cmp then v else old

/-- The data of an atomic: comparand and value of a compare-and-swap, else the value. -/
def atomicData (op n : Nat) (ws : List Word) : Nat × Nat :=
  if op = 7 then (numberOf (ws.take n), numberOf (ws.drop n)) else (0, numberOf ws)

/-- One lane of an atomic whose unit holds no poison: performed at its place, ordered at its scope, the old value returned where F
asks for it (R308, R309). -/
def LaneAtomic (op : Nat) (d : BitVec 7) (p : BitVec 6) (sp f : BitVec 1) (c : BitVec 2) (t : BitVec 3) (x : Iss) (l : Nat) (a b : State) :
    Prop :=
  let n := typN t
  let z := typSize t.toNat
  let data : Operand := { cls := .atom, code := d.toNat, n := if op = 7 then 2 * n else n, read := true, write := f == 1#1 }
  ∃ vs m g old m3, readOps x l [(data, z == 8), (oAddr p (sp == 1#1), sp == 0#1)] a = .ok vs m ∧ m.group? x.gid = some g ∧
    (let low := numberOf (vs.getD 1 [])
     let cv := atomicData op n (vs.getD 0 [])
     low % z = 0 ∧
     if sp = 1#1 then ∃ at_ m1 m2, scrResolve g.wg low z m = .ok at_ m ∧ waitRelease x.gid c.toNat m = .ok () m1 ∧
        m1.lineEmpty at_ = false ∧ raced x l true (depOf g l (oAddr p true)) (scrLoc at_) z 1 true (scrAtomic at_ op t.toNat cv.2 cv.1) m1 = .ok (some old) m2 ∧
        m3 = (m2.acquireAt x.gid l (fun q => q.sp && q.wg == at_.wg && at_.addr ≤ q.addr && q.addr < at_.addr + z) c.toNat).releaseRange
          x.gid l (scrLoc at_) z c.toNat true
     else ∃ at_ m0 g0 m1 m1' m2, reach x l low z .atomic [0, 1] m = .ok at_ m0 ∧ m0.group? x.gid = some g0 ∧
        waitRelease x.gid c.toNat m0 = .ok () m1 ∧ SealAdmits at_ m1 m1' ∧
        raced x l (raceChecked at_ false) (depOf g l (oAddr p false)) (globalLoc at_.pa) z 1 true
          (atomicAt (m0.viaOf g0 x.gid l) at_ op t.toNat cv.2 cv.1) m1' = .ok (some old) m2 ∧
        m3 = (m2.acquireAt x.gid l (fun q => !q.sp && q.wg == 0 && keyOf at_.pa ≤ q.addr && q.addr < keyOf at_.pa + z) c.toNat).releaseRange
          x.gid l (globalLoc at_.pa) z c.toNat true) ∧
    if f = 1#1 then writeVals x l { data with n := n } ((List.range n).map fun k => BitVec.ofNat 32 (old / 2 ^ (32 * k))) [] m3 = .ok () b
    else b = m3

/-- One lane of RED (R308, R310): no order, nothing returned. -/
def LaneRed (d : BitVec 7) (p : BitVec 6) (sp f : BitVec 1) (t : BitVec 3) (o : BitVec 2) (x : Iss) (l : Nat) (a b : State) : Prop :=
  let op := 4 * f.toNat + o.toNat
  let z := typSize t.toNat
  ∃ vs m g, readOps x l [(oIn .atom d (typN t), z == 8), (oAddr p (sp == 1#1), sp == 0#1)] a = .ok vs m ∧ m.group? x.gid = some g ∧
    let low := numberOf (vs.getD 1 [])
    let v := numberOf (vs.getD 0 [])
    low % z = 0 ∧
    if sp = 1#1 then ∃ at_ r m1, scrResolve g.wg low z m = .ok at_ m ∧ m.lineEmpty at_ = false ∧
        raced x l true (depOf g l (oAddr p true)) (scrLoc at_) z (2 + 8 * op + t.toNat) true
          (scrAtomic at_ op t.toNat v 0) m = .ok r m1 ∧
        b = m1.breakChain true at_.wg at_.addr z
    else ∃ at_ m0 g0 m0' m1, reach x l low z .atomic [1] m = .ok at_ m0 ∧ m0.group? x.gid = some g0 ∧ SealAdmits at_ m0 m0' ∧
        raced x l (raceChecked at_ false) (depOf g l (oAddr p false)) (globalLoc at_.pa) z (2 + 8 * op + t.toNat) true
          (redAt (m0.viaOf g0 x.gid l) at_ op t.toNat v) m0' = .ok () m1 ∧
        b = m1.breakChain false 0 (keyOf at_.pa) z

/-- One lane of PREF (R304): the line is brought as a load would bring it, whatever comes of that. -/
def LanePref (p : BitVec 6) (x : Iss) (l : Nat) (a b : State) : Prop :=
  ∃ vs m g, readOps x l [(oAddr p false, true)] a = .ok vs m ∧ m.group? x.gid = some g ∧
    let h := numberOf (vs.getD 0 []) / 128 * 128
    match translate (m.whoOf g) h 128 .load m with
    | .error (.stall _) _ => False
    | .error _ m1 => b = m1
    | .ok at_ m1 =>
      if isMain at_.pa && !at_.dev && !at_.por && !at_.badKey then
        (∃ r, cchLoad g.core (lineOf (keyOf at_.pa)) 0 1 (m.regionOf g) m1 = .ok r b) ∨
          ∃ e, (∀ w, e ≠ .stall w) ∧ cchLoad g.core (lineOf (keyOf at_.pa)) 0 1 (m.regionOf g) m1 = .error e b
      else b = m1

/-- The range operations: what is done with the copies, and the kind of access that is checked (R103, R304). -/
def rangeForm : Instr → Option (Sweep × Kind × BitVec 7 × BitVec 6 × BitVec 2)
  | .wbr l p c => some (.wbr, .wbr, l, p, c)
  | .invr l p c => some (.invr, .wbr, l, p, c)
  | .invd l p c => some (.invd, .invd, l, p, c)
  | _ => none

/-- One lane of a range operation: nothing for a length of zero, else each line of the range that lies in memory is swept at the scope
(R103, R304). -/
def LaneRange (op : Sweep) (kind : Kind) (n : BitVec 7) (p : BitVec 6) (c : BitVec 2) (x : Iss) (l : Nat) (a b : State) : Prop :=
  ∃ vs m g, readOps x l [(oIn .len n 1, false), (oAddr p false, true)] a = .ok vs m ∧ m.group? x.gid = some g ∧
    let len := numberOf (vs.getD 0 [])
    if len = 0 then b = m
    else overRange x (numberOf (vs.getD 1 [])) len kind (fun who at_ k => M.whenB (isMain at_.pa) (do
        M.whenB (op != .invd) (backCheck who at_ k c.toNat g.core)
        M.forEach (fun (q : Nat × BitVec 128) => sweepLine op c.toNat g.core q.1 q.2) (pieceLines at_.pa k))) m = .ok () b

/-- One lane of XPUB: earlier stores visible, then each line of the range published, to the basin at scope .die (R101, R311). -/
def LaneXpub (n : BitVec 7) (p : BitVec 6) (c : BitVec 2) (x : Iss) (l : Nat) (a b : State) : Prop :=
  ∃ vs m g, readOps x l [(oIn .len n 1, false), (oAddr p false, true)] a = .ok vs m ∧ m.group? x.gid = some g ∧
    let len := numberOf (vs.getD 0 [])
    let scope := max 1 c.toNat
    if len = 0 then b = m
    else ∃ m1, waitRelease x.gid scope m = .ok () m1 ∧
      overRange x (numberOf (vs.getD 1 [])) len .wbr (fun who at_ k => M.whenB (isMain at_.pa) (do
        backCheck who at_ k 2 g.core
        M.forEach (fun (q : Nat × BitVec 128) => publishLine q.1 (if scope == 1 then some (basinOf g.core) else none))
          (pieceLines at_.pa k))) m1 = .ok () b

/-- One lane of SETF and CLRF: the full/empty bit of the line (R69, R305). -/
def LaneFull (p : BitVec 6) (disp : BitVec 7) (release : Option (BitVec 2)) (x : Iss) (l : Nat) (a b : State) : Prop :=
  ∃ vs m g at_, readOps x l [(oAddr p true, false)] a = .ok vs m ∧ m.group? x.gid = some g ∧
    scrResolve g.wg (((numberOf (vs.getD 0 []) + disp.toInt * 128) % 2 ^ 32).toNat / 128 * 128) 128 m = .ok at_ m ∧
    match release with
    | some c => ∃ m1, waitRelease x.gid c.toNat m = .ok () m1 ∧ b = m1.setFull at_ true
    | none => b = m.setFull at_ false

/-- One lane of OWNSEG whose core owns the segment (status 0), or cannot take it for want of a copy slot (status 1) (R91, R306). -/
def LaneOwn (d : BitVec 7) (p : BitVec 6) (x : Iss) (l : Nat) (a b : State) : Prop :=
  ∃ vs m g at_, readOps x l [(oAddr p true, false)] a = .ok vs m ∧ m.group? x.gid = some g ∧
    scrResolve g.wg (numberOf (vs.getD 0 []) / 4096 * 4096) 1 m = .ok at_ m ∧
    (m.ownsSeg g.wg at_ = true ∧ writeVals x l (oOut .own d 1) [0#32] [] m = .ok () b ∨
     m.ownsSeg g.wg at_ = false ∧ at_.wg ≠ g.wg ∧ m.holdsSeg g.wg at_ = false ∧ m.copySlot g.wg = false ∧
       writeVals x l (oOut .own d 1) [1#32] [] m = .ok () b)

/-- One lane of DROPSEG whose core is not the segment's owner away from home: its copy is dropped (R91, R306). -/
def LaneDrop (d : BitVec 7) (p : BitVec 6) (x : Iss) (l : Nat) (a b : State) : Prop :=
  ∃ vs m g at_ v, readOps x l [(oAddr p true, false)] a = .ok vs m ∧ m.group? x.gid = some g ∧
    scrResolve g.wg (numberOf (vs.getD 0 []) / 4096 * 4096) 1 m = .ok at_ m ∧ m.wgs.look at_.wg = some v ∧
    (m.ownsSeg g.wg at_ = true → m.rankOf g.wg = m.rankOf at_.wg) ∧
    let seg := at_.addr / 4096
    let e := v.dirOf seg
    let h := e.holders &&& ~~~(BitVec.ofNat 24 (2 ^ m.rankOf g.wg))
    let m1 := if h = e.holders then m else m.setSeg at_.wg seg { e with holders := h }
    writeVals x l (oOut .own d 1) [0#32] [] m1 = .ok () b

/-- One lane of FENCE: the group's stores are visible at the scope (R131, R143). -/
def LaneFence (c : BitVec 2) (x : Iss) (_ : Nat) (a b : State) : Prop := waitRelease x.gid c.toNat a = .ok () b

/-- The object of a barrier operation found without poison: the address, the operand, the object's place (R312). -/
def BarrierAt (d : BitVec 7) (p : BitVec 6) (sp : BitVec 1) (reads : Bool) (x : Iss) (s : State) (low v : Nat) (o : Loc) (m : State) : Prop :=
  ∃ vs m0 m1, readOps x (x.act.headD 0) ((oAddr p (sp == 1#1), sp == 0#1) :: (if reads then [(oIn .atom d 1, false)] else [])) s = .ok vs m0 ∧
    low = numberOf (vs.getD 0 []) ∧ v = numberOf (vs.getD 1 []) ∧ low % 16 = 0 ∧
    barrierAt x (x.act.headD 0) low (sp == 1#1) m0 = .ok (o, false) m1 ∧ barPoisoned o m1 = .ok false m

/-- A barrier operation's result written to every active thread. -/
def BarrierResult (d : BitVec 7) (x : Iss) (n : Nat) (m u : State) : Prop :=
  writeAll x x.act (oOut .atom d 1) [regWord (BitVec.ofNat 32 n)] m = .ok () u

/-- BARINIT (R313): 3 for a bad object, 1 with waiters, 2 for an EXPECT of zero, else 0 and a new open object. -/
def Barinit (d : BitVec 7) (p : BitVec 6) (sp : BitVec 1) (c : BitVec 2) (x : Iss) (s u : State) : Prop :=
  ∃ low v o m m1 b m2, BarrierAt d p sp true x s low v o m ∧ waitRelease x.gid c.toNat m = .ok () m1 ∧ barRead o m1 = .ok b m2 ∧
    if b.bad then BarrierResult d x 3 m2 u
    else if b.state = 2 then BarrierResult d x 1 m2 u
    else if v = 0 then BarrierResult d x 2 m2 u
    else ∃ m3 m4,
      barWrite o { b with expect := v, count := 0, gen := (b.gen + 1) % 2 ^ 32, state := 1, scope := c.toNat } m2 = .ok () m3 ∧
      barRelease x x.act o ((b.gen + 1) % 2 ^ 32) 1 c.toNat m3 = .ok () m4 ∧ BarrierResult d x 0 m4 u

/-- BARARR (R313): 3 for a bad object, else the generation joined, the arrivals counted. -/
def Bararr (d : BitVec 7) (p : BitVec 6) (sp : BitVec 1) (c : BitVec 2) (x : Iss) (s u : State) : Prop :=
  ∃ low v o m b m1 m2, BarrierAt d p sp true x s low v o m ∧ barRead o m = .ok b m1 ∧
    waitRelease x.gid (max c.toNat b.scope) m1 = .ok () m2 ∧
    if b.bad then BarrierResult d x 3 m2 u
    else
      let after := b.count + v % 2 ^ 16
      ∃ m3 g m4, (if b.state = 1 ∨ b.state = 2 then
          barRelease x x.act o b.gen (after / b.expect + (if after % b.expect = 0 then 0 else 1)) (max c.toNat b.scope) m2 = .ok () m3
          else m3 = m2) ∧
        barArrive o (v % 2 ^ 16) m3 = .ok g m4 ∧ BarrierResult d x (g.getD 3) m4 u

/-- BARWAIT by threads that do not wait yet and need not (R313): 3 for a bad object, 2 for none, 1 for an aborted one, 0 when the
generation has completed; the arrivals are acquired. -/
def Barwait (d : BitVec 7) (p : BitVec 6) (sp : BitVec 1) (c : BitVec 2) (x : Iss) (s u : State) : Prop :=
  ∃ low v o m b m1, BarrierAt d p sp true x s low v o m ∧ barRead o m = .ok b m1 ∧
    let acquired (gen : Option Nat) (q : State) : Prop := Chain (fun l a b' => barAcquire x l o gen (max c.toNat b.scope) a = .ok () b') x.act m1 q
    if b.bad then BarrierResult d x 3 m1 u
    else if b.state = 0 then BarrierResult d x 2 m1 u
    else if b.state = 3 then ∃ q, acquired none q ∧ BarrierResult d x 1 q u
    else completedGen b.gen v = true ∧ ∃ q, acquired (some v) q ∧ BarrierResult d x 0 q u

/-- BARKILL (R313): 3 for a bad object, 1 for one that is aborted already, else 0: aborted, its waiters released. -/
def Barkill (d : BitVec 7) (p : BitVec 6) (sp : BitVec 1) (c : BitVec 2) (x : Iss) (s u : State) : Prop :=
  ∃ low v o m b m1 m2, BarrierAt d p sp false x s low v o m ∧ barRead o m = .ok b m1 ∧
    waitRelease x.gid (max c.toNat b.scope) m1 = .ok () m2 ∧
    if b.bad then BarrierResult d x 3 m2 u
    else if b.state = 3 then BarrierResult d x 1 m2 u
    else ∃ m3 m4, barRelease x x.act o b.gen 1 (max c.toNat b.scope) m2 = .ok () m3 ∧ barWrite o { b with state := 3 } m3 = .ok () m4 ∧
      BarrierResult d x 0 (m4.releaseWaiters o (fun _ => true) 1) u

/-- The conditions of WAITADDR on a unit of n bits, as bit vectors (R316). -/
def addrCond (k : BitVec 3) {n : Nat} (m v : BitVec n) : Bool := waitCond k.toNat (n / 8) m.toNat v.toNat

/-- One lane of WAITADDR whose condition holds when it is first tested (R316, R317): the unit is acquired and written. -/
def LaneWaitaddr (w : BitVec 2) (d : BitVec 7) (p : BitVec 6) (k : BitVec 3) (sp : BitVec 1) (c : BitVec 2) (x : Iss) (l : Nat) (a b : State) :
    Prop :=
  let n := widthN w
  let size := 4 * n
  ∃ th vs m o v m1 m2, a.thread? x.gid l = some th ∧ th.wait = none ∧
    readOps x l [(oIn .atom d n, false), (oAddr p (sp == 1#1), sp == 0#1)] a = .ok vs m ∧ numberOf (vs.getD 1 []) % size = 0 ∧
    waitRead x l (numberOf (vs.getD 1 [])) size (sp == 1#1) m = .ok (o, some v) m1 ∧
    waitCond k.toNat size v (numberOf (vs.getD 0 [])) = true ∧
    acquireRange x l o size c.toNat m1 = .ok () m2 ∧
    writeVals x l (oOut .atom d n) ((List.range n).map fun j => BitVec.ofNat 32 (v / 2 ^ (32 * j))) [] m2 = .ok () b

/-- One lane of TLWAIT that need not wait (R148, R318): status 2 for a timeline that is not bound, else 1 or 0 as a command has
failed or not. -/
def LaneTlwait (t : BitVec 7) (n d : BitVec 7) (x : Iss) (l : Nat) (a b : State) : Prop :=
  ∃ g th vs m, a.group? x.gid = some g ∧ a.thread? x.gid l = some th ∧ th.wait = none ∧
    readOps x l [(oIn .pairX n 2, true)] a = .ok vs m ∧
    match a.timeline g t.toNat with
    | none => writeVals x l (oOut .status d 1) [2#32] [] m = .ok () b
    | some q => numberOf (vs.getD 0 []) ≤ q.counter ∧ ∃ m1, tlAcquire x l g t.toNat q.counter m = .ok () m1 ∧
        writeVals x l (oOut .status d 1) [if q.err then 1#32 else 0#32] [] m1 = .ok () b

/-- One lane of TLREAD: the counter, 0 for a timeline that is not bound (R318). -/
def LaneTlread (t d : BitVec 7) (x : Iss) (l : Nat) (a b : State) : Prop :=
  ∃ g m, a.group? x.gid = some g ∧
    let n := ((a.timeline g t.toNat).map (·.counter)).getD 0
    tlAcquire x l g t.toNat n a = .ok () m ∧ writeVals x l (oOut .pair d 2) [BitVec.ofNat 32 n, BitVec.ofNat 32 (n / 2 ^ 32)] [] m = .ok () b

/-- One lane of TIMEAT whose time has come (R321). -/
def LaneTimeat (t : BitVec 7) (x : Iss) (l : Nat) (a b : State) : Prop :=
  ∃ th vs, a.thread? x.gid l = some th ∧ th.wait = none ∧ readOps x l [(oIn .pairX t 2, true)] a = .ok vs b ∧
    numberOf (vs.getD 0 []) ≤ b.gtb.toNat

end Sys2Proof.Machine
end

