-- ==== Sys2Proof/Reference/Control.lean ====
section
/-! DEFINITION. What statements say of control transfers, masks, priority, read sections, control and status registers, the system
instructions, and of taking and leaving a trap. -/
namespace Sys2Proof.Machine

/-- Whether a lane takes BRA (R323): mask 12 is true, else its bit of the mask differs from the polarity. -/
def braTaken (m : BitVec 4) (p : BitVec 1) (g : Group) (l : Nat) : Bool := m == 12#4 || (g.mask m.toNat).getLsbD l != (p == 1#1)

/-- The target of BRA: the offset counts words from the BRA itself (R323). -/
def braTarget (x : Iss) (o : BitVec 20) : DWord := x.pc + (o ++ 0#2).signExtend 64

/-- The target of CALL: the XWs count words from the CALL itself (R324). -/
def callTarget (x : Iss) : DWord := x.pc + BitVec.ofInt 64 (4 * x.xwValue)

/-- Two addresses of one buffer (R9). -/
def SameBuffer (a b : DWord) : Prop := a.extractLsb' 48 16 = b.extractLsb' 48 16

/-- The effect of BRA: nothing but the target (R323). -/
def BraEffect (m : BitVec 4) (p : BitVec 1) (o : BitVec 20) (nt : Nat → DWord) (x : Iss) (s u : State) : Prop :=
  u = s ∧ ∃ g, s.group? x.gid = some g ∧ ∀ l ∈ x.act,
    (braTaken m p g l = true → SameBuffer (braTarget x o) x.pc) ∧ nt l = if braTaken m p g l then braTarget x o else x.pc + 4#64

/-- A lane that reads an aligned target from a register pair (R324, R325). -/
def LaneTarget (a : BitVec 7) (nt : Nat → DWord) (x : Iss) (l : Nat) (p q : State) : Prop :=
  ∃ vs, readOps x l [(oIn .pair a 2, true)] p = .ok vs q ∧ nt l = BitVec.ofNat 64 (numberOf (vs.getD 0 [])) ∧ (nt l).toNat % 4 = 0

/-- The spill area of a lane's return entries (R173): nothing for a task. -/
def spillBytes (w : Workgroup) : Nat := if w.task then 0 else w.spillSize
def spillStart (w : Workgroup) (g : Group) (l : Nat) : Nat := spillBytes w * (w.wix * 32 * w.groups + g.gix * 32 + l)

/-- The 16 bytes of a spilled return entry (R172): the address, the priority, zeros. -/
def entryBytes (e : StackEntry) : List Byte := natToBytes 16 ((0#56 ++ e.prio ++ e.pc : BitVec 128).toNat)

/-- A return entry is pushed (R172): with four on chip the oldest goes to the spill area first. -/
def Pushed (x : Iss) (l : Nat) (e : StackEntry) (a b : State) : Prop :=
  ∃ g th, a.group? x.gid = some g ∧ g.thread? l = some th ∧
    if th.stack.length < 4 then b = a.updThread x.gid l fun t => { t with stack := e :: t.stack }
    else ∃ w m old, a.wgs.look g.wg = some w ∧ th.stack[3]? = some old ∧ 16 * (th.spilled + 1) ≤ spillBytes w ∧
      GlobalStore x l [] w.spill.toNat ((spillStart w g l + 16 * th.spilled : Nat) : Int) 16 (entryBytes old) [] a m ∧
      b = m.updThread x.gid l fun t => { t with stack := e :: t.stack.take 3, spilled := t.spilled + 1 }

/-- A call of a lane: the entry names the next word and the thread's priority (R172, R325). -/
def LaneCall (nt : Nat → DWord) (x : Iss) (l : Nat) (a b : State) : Prop :=
  (nt l).toNat % 4 = 0 ∧ ∃ th, a.thread? x.gid l = some th ∧ Pushed x l { pc := x.pc + 4#64, prio := th.prio } a b

/-- A lane of CALLX (R324): the target is read, then called. -/
def LaneCallx (r : BitVec 7) (nt : Nat → DWord) (x : Iss) (l : Nat) (a b : State) : Prop :=
  ∃ m, LaneTarget r nt x l a m ∧ LaneCall nt x l m b

/-- A return of a lane (R172, R325): to the newest entry, on chip or in the spill area, with its priority. -/
def LaneRet (nt : Nat → DWord) (x : Iss) (l : Nat) (a b : State) : Prop :=
  ∃ g th e m, a.group? x.gid = some g ∧ g.thread? l = some th ∧ nt l = e.pc ∧ e.pc.toNat % 4 = 0 ∧
    (match th.stack with
     | top :: _ => e = top ∧ m = a
     | [] => th.spilled ≠ 0 ∧ ∃ w h at_ m1 g1 bs, a.wgs.look g.wg = some w ∧
        HandleAt w.spill.toNat ((spillStart w g l + 16 * (th.spilled - 1) : Nat) : Int) 16 h ∧
        reach x l h 16 .load [0] a = .ok at_ m1 ∧ m1.group? x.gid = some g1 ∧
        raced x l (raceChecked at_ true) [] (globalLoc at_.pa) 16 0 false (loadAt (m1.viaOf g1 x.gid l) at_ 16) m1 = .ok (bs, false) m ∧
        e.pc = BitVec.ofNat 64 (bytesToNat bs) ∧ e.prio = BitVec.ofNat 8 (bytesToNat bs / 2 ^ 64)) ∧
    b = m.updThread x.gid l fun t => match t.stack with
      | _ :: rest => { t with stack := rest, prio := e.prio }
      | [] => { t with spilled := t.spilled - 1, prio := e.prio }

/-- A lane's bit of a mask set or cleared (R328). -/
def LaneMask (m : Nat) (on : Bool) (x : Iss) (l : Nat) (a b : State) : Prop :=
  b = a.updGroup x.gid fun g =>
    { g with masks := g.masks.set m (if on then g.mask m ||| BitVec.twoPow 32 l else g.mask m &&& ~~~(BitVec.twoPow 32 l)) }

/-- The mask instructions without a register: destination and value (R329). -/
def maskValue : Instr → Option (Nat × (Group → BitVec 32))
  | .mand d a b => some (d.toNat, fun g => g.mask a.toNat &&& g.mask b.toNat)
  | .mor d a b => some (d.toNat, fun g => g.mask a.toNat ||| g.mask b.toNat)
  | .mxor d a b => some (d.toNat, fun g => g.mask a.toNat ^^^ g.mask b.toNat)
  | .mnot d a => some (d.toNat, fun g => ~~~(g.mask a.toNat))
  | .mmov d a => if d.toNat < 104 then some (d.toNat, fun g => g.mask a.toNat) else none
  | _ => none

/-- Group x.gid of a state changed from g to k. -/
def Regrouped (x : Iss) (f : Group → Group) (s u : State) : Prop := ∃ g, s.group? x.gid = some g ∧ u = s.setGroup x.gid (f g)

/-- A lane of PRIO (R330). -/
def LanePrio (n : BitVec 8) (x : Iss) (l : Nat) (a b : State) : Prop := b = a.updThread x.gid l fun t => { t with prio := n }

/-- Every live thread of mask m stands at a WAITM on m or is one of the threads that now meet it (R327). -/
def MaskMet (m : Nat) (x : Iss) (g : Group) : Prop :=
  ∀ l p, g.thread? l = some p → p.exited = false → (g.mask m).getLsbD l = true → l ∈ x.act ∨ ∃ w, p.wait = some w ∧ w.what = .mask m

/-- A lane that exits releases its accesses to what waits for its grid (R132, R332). -/
def LaneExit (x : Iss) (l : Nat) (a b : State) : Prop :=
  ∃ m g w, waitRelease x.gid 2 a = .ok () m ∧ m.group? x.gid = some g ∧ m.wgs.look g.wg = some w ∧
    b = m.releaseAt x.gid l (gridEnd w.launch) 2 true

/-- The entry's threads have left (R332): the active ones exited, the others at the next word, nothing else changed. -/
structure Left (u : State) (x : Iss) (v : State) : Prop where
  rest   : v = { u with groups := v.groups }
  others : ∀ n, n ≠ x.gid → v.group? n = u.group? n
  gone   : ∀ l ∈ x.act, ∃ q, v.thread? x.gid l = some q ∧ q.exited = true ∧ q.wait = none ∧ q.hint = none
  on     : ∀ l ∈ x.lanes, l ∉ x.act → ∃ q, v.thread? x.gid l = some q ∧ q.exited = false ∧ q.pc = x.pc + 4#64
  kept   : ∀ l, l ∉ x.lanes → v.thread? x.gid l = u.thread? x.gid l

/-- Threads stand where an instruction that traps them began, the entry's others at the next word (R402). -/
structure Back (s : State) (x : Iss) (lanes : List Nat) (v : State) : Prop where
  rest   : v = { s with groups := v.groups }
  others : ∀ n, n ≠ x.gid → v.group? n = s.group? n
  back   : ∀ l ∈ lanes, ∃ p q, s.thread? x.gid l = some p ∧ v.thread? x.gid l = some q ∧ q.pc = x.first ∧ q.hint = none ∧
    q.prio = p.prio ∧ q.stack = p.stack
  on     : ∀ l ∈ x.lanes, l ∉ lanes → ∃ q, v.thread? x.gid l = some q ∧ q.pc = x.pc + 4#64
  kept   : ∀ l, l ∉ x.lanes → v.thread? x.gid l = s.thread? x.gid l

/-- What a trap is taken into, where the region has a handler and no debugger takes the cause (R403): trap state, entry registers,
the trapped threads at the handler, the others held with their latches gone. -/
structure Entered (s : State) (gid : Nat) (g : Group) (lanes : List Nat) (trap : Nat → LaneTrap) (t0 : LaneTrap) (prio : BitVec 8)
    (tpc handler : DWord) (t : State) : Prop where
  group  : ∃ k ts, t.group? gid = some k ∧ k.trap = some ts ∧ k.window = none ∧ k.traps = g.traps + 1 ∧
    ts.tpc = tpc ∧ ts.tval = t0.tval ∧ ts.prio = prio ∧ ts.plevel.toNat = s.levelOf g ∧
    (∀ l < 32, ts.tmask.getLsbD l = true ↔ l ∈ lanes) ∧
    ts.tcause = BitVec.ofNat 32 ((if t0.late then 2 ^ 16 else 0) + t0.sub % 256 * 256 + t0.cause.code) ∧
    k.getS 56 = regWord ts.tcause ∧ k.getS 57 = regWord ts.tmask ∧
    k.getS 58 = regWord (tpc.extractLsb' 0 32) ∧ k.getS 59 = regWord (tpc.extractLsb' 32 32)
  entry  : ∀ l ∈ lanes, ∃ k, t.group? gid = some k ∧ k.getV l 88 = regWord ((trap l).tval.extractLsb' 0 32) ∧
    k.getV l 89 = regWord ((trap l).tval.extractLsb' 32 32) ∧ k.getV l 90 = regWord ((trap l).extra.extractLsb' 0 32) ∧
    k.getV l 91 = regWord ((trap l).extra.extractLsb' 32 32)
  trapped : ∀ l ∈ lanes, ∃ p q, g.thread? l = some p ∧ t.thread? gid l = some q ∧ q.pc = handler ∧ q.prio = 255#8 ∧
    q.hint = none ∧ q.wait = none ∧ q.stack = p.stack ∧ q.exited = p.exited
  held   : ∀ l p, l ∉ lanes → g.thread? l = some p → ∃ q, t.thread? gid l = some q ∧ q.pc = p.pc ∧ q.prio = p.prio ∧ q.hint = p.hint ∧
    q.latches = [] ∧ q.stack = p.stack ∧ q.exited = p.exited

/-- A group returned from a trap (R405): the trapped threads that live at TPC with the saved priority, the others where they stood. -/
structure Returned (g : Group) (ts : Trap) (k : Group) : Prop where
  rest  : k = { g with trap := none, lastTrap := ts, threads := k.threads }
  back  : ∀ l p, g.thread? l = some p → ts.tmask.getLsbD l = true → p.exited = false →
    ∃ q, k.thread? l = some q ∧ q.pc = ts.tpc ∧ q.prio = ts.prio ∧ q.hint = none ∧ q.wait = none ∧ q.park = none ∧ q.feb = none ∧
      q.failed = none ∧ q.stack = p.stack
  held  : ∀ l p, g.thread? l = some p → ts.tmask.getLsbD l = false →
    ∃ q, k.thread? l = some q ∧ q.pc = p.pc ∧ q.prio = p.prio ∧ q.hint = p.hint ∧ q.exited = p.exited ∧ q.stack = p.stack

/-- A value written to uniform registers from d on, low word first (R333). -/
def UniformWords (d : BitVec 6) (ws : List Word) (x : Iss) (s u : State) : Prop :=
  writeVals x (x.lanes.headD 0) (sOut d ws.length) ws [] s = .ok () u

/-- A read of a CSR (R334, R335). -/
def CsrRead (d : BitVec 6) (c : BitVec 12) (x : Iss) (s u : State) : Prop :=
  ∃ g, s.group? x.gid = some g ∧ UniformWords d (natWords (if csrWide c then 2 else 1) (s.csrValue x.gid g c.toNat)) x s u

/-- A write of a CSR that may be written now (R334, R335): the new value from the old one and the operand; CSRS and CSRC also
return the old value. -/
def CsrWrite (d : BitVec 6) (c : BitVec 12) (f : Nat → Nat → Nat) (back : Bool) (x : Iss) (s u : State) : Prop :=
  ∃ g vs m, s.group? x.gid = some g ∧ csrWritable g c.toNat = true ∧
    let n := if csrWide c then 2 else 1
    let old := s.csrValue x.gid g c.toNat
    readOps x (x.lanes.headD 0) [(sIn d n, false)] s = .ok vs m ∧
    let w := m.csrWrite x.gid c.toNat (f old (numberOf (vs.getD 0 [])))
    if back then UniformWords d (natWords n old) x w u else u = w

/-- The CSR instructions that write (R334): the new value from the old one and the operand. -/
def csrUpdate : Instr → Option (BitVec 6 × BitVec 12 × (Nat → Nat → Nat) × Bool)
  | .csrw d c => some (d, c, fun _ v => v, false)
  | .csrs d c => some (d, c, fun old v => old ||| v, true)
  | .csrc d c => some (d, c, fun old v => (BitVec.ofNat 64 old &&& ~~~(BitVec.ofNat 64 v)).toNat, true)
  | _ => none

/-- ROLE (R52 to R55): the refusal code, or the request admitted with the number of changed banks and its completion value. -/
def RoleEffect (d a : BitVec 6) (x : Iss) (s u : State) : Prop :=
  ∃ vs m g, readOps x (x.lanes.headD 0) [(sIn a 1, false)] s = .ok vs m ∧ m.group? x.gid = some g ∧
    let w := numberOf (vs.getD 0 [])
    let region := m.regionOf g
    let code := m.roleCheck g.core region (1 ≤ m.levelOf g) w
    if code = 0 then
      let r := m.roleAdmit g.core region w
      let t := x.lanes.foldl (fun t l => t.releaseAt x.gid l (tlLoc g.core 8 r.2.1) 2 true) r.2.2
      UniformWords d [0#32, BitVec.ofNat 32 r.1, BitVec.ofNat 32 r.2.1, BitVec.ofNat 32 (r.2.1 / 2 ^ 32)] x t u
    else UniformWords d [BitVec.ofNat 32 code, 0#32, 0#32, 0#32] x m u

/-- PSTAT (R60). -/
def PstatEffect (d : BitVec 6) (sel : BitVec 9) (x : Iss) (s u : State) : Prop :=
  ∃ g, s.group? x.gid = some g ∧ UniformWords d [BitVec.ofNat 32 (s.pstat g.core (s.regionOf g) sel.toNat)] x s u

/-- The group of an issue runs at supervisor level or above (R398). -/
def Supervisor (x : Iss) (s : State) : Prop := ∃ g, s.group? x.gid = some g ∧ 1 ≤ s.levelOf g

/-- HALT at supervisor level (R338, R437): the region halts, unless it or one above it is halted. -/
def HaltEffect (x : Iss) (s u : State) : Prop :=
  Supervisor x s ∧ ∃ g, s.group? x.gid = some g ∧
    u = if (s.chain 17 (s.regionOf g)).any fun r => ((s.region? r).map (·.halt.isSome)).getD false then s
        else s.updRegion (s.regionOf g) fun r => { r with halt := some (none, s.time) }

/-- BTINV (R38, R39, R339): once no access under the table is on its way to a device, the entries of a registered region's table in the
cores of the scope, all of them or a range. -/
def BtinvEffect (d : BitVec 6) (c : BitVec 2) (l : BitVec 1) (x : Iss) (s u : State) : Prop :=
  Supervisor x s ∧ ∃ vs m m1 g, readOps x (x.lanes.headD 0) [(sIn d 2, false)] s = .ok vs m ∧ waitRelease x.gid c.toNat m = .ok () m1 ∧
    m1.group? x.gid = some g ∧
    let lo := (vs.getD 0 []).getD 0 0#32
    let hi := (vs.getD 0 []).getD 1 0#32
    let region := (lo.extractLsb' 0 20).toNat
    if (m1.region? region).isSome then
      let first := (hi.extractLsb' 0 16).toNat
      let table := bteKey (m1.ptRoot region) (m1.btBase region) 0 / 65536
      let m2 := m1.invalidate g.core c.toNat (fun k => k / 65536 == table &&
        (l == 1#1 || (first ≤ k % 65536 && k % 65536 < first + (hi.extractLsb' 16 16).toNat))) fun _ _ => false
      m1.accessesUnder (m1.ptRoot region) = false ∧
      if c = 3#2 then atsFence x (m1.ptRoot region) m2 = .ok () u else u = m2
    else u = m1

/-- TFENCE (R38, R39, R339): likewise, the translations of a root, all of them or the pages of 2^k that hold one. -/
def TfenceEffect (d : BitVec 6) (c : BitVec 2) (l : BitVec 1) (k : BitVec 6) (x : Iss) (s u : State) : Prop :=
  Supervisor x s ∧ ∃ vs m m1 g, readOps x (x.lanes.headD 0) [(sIn d 4, false)] s = .ok vs m ∧ waitRelease x.gid c.toNat m = .ok () m1 ∧
    m1.group? x.gid = some g ∧
    let v := numberOf (vs.getD 0 [])
    let root := v / 2 ^ 12 % 2 ^ 40 * 4096
    let page := v / 2 ^ 64 / 4096
    let m2 := m1.invalidate g.core c.toNat (fun _ => false) fun r p => r == root && (l == 1#1 || p / 2 ^ k.toNat == page / 2 ^ k.toNat)
    m1.accessesUnder root = false ∧
    if c = 3#2 then atsFence x root m2 = .ok () u else u = m2

/-- CTXSV (R340): the workgroup named by launch and index saved in the area, its record written there, or the status that refuses it. -/
def CtxsvEffect (d : BitVec 6) (x : Iss) (s u : State) : Prop :=
  Supervisor x s ∧ ∃ vs m g, readOps x (x.lanes.headD 0) [(sIn d 4, false)] s = .ok vs m ∧ m.group? x.gid = some g ∧
    let v := vs.getD 0 []
    let named (p : Nat × Workgroup) : Bool := p.2.launch == (v.getD 0 0#32).toNat && p.2.wix == (v.getD 1 0#32).toNat
    let h := numberOf (v.drop 2)
    let found := m.wgs.find? fun p => named p && !p.2.exited
    let need := ((found.map fun p => m.recordSize p.1)).getD 0
    ∃ area space m1, saveArea x h need m = .ok (area, space) m1 ∧
      let answer (m2 : State) (st n : Nat) : Prop :=
        UniformWords d [BitVec.ofNat 32 st, BitVec.ofNat 32 n] x (m2.updGroup x.gid fun g => { g with engqSince := none }) u
      match found with
      | none => answer m1 (if (m.wgs.any fun p => named p && m.isDead p.2.region) = true then 5 else 1) 0
      | some (w, y) =>
        if y.saved ≠ .resident then answer m1 2 need
        else if w = g.wg then answer m1 3 need
        else if space < need then answer m1 4 need
        else (m.saveWg w (.area m.time)).isSome = true ∧
          ∃ m2, areaWrite x h (m.recordBytes w m.time) m1 = .ok () m2 ∧ answer ((m2.saveWg w (.area m.time)).getD m2) 0 need

/-- CTXLD (R340): the workgroup whose whole record stands in the area waits for placement on the core named, its record in the pool, or
the status that refuses it. -/
def CtxldEffect (d : BitVec 6) (x : Iss) (s u : State) : Prop :=
  Supervisor x s ∧ ∃ vs m area space m1 head bad m2, readOps x (x.lanes.headD 0) [(sIn d 3, false)] s = .ok vs m ∧
    let h := numberOf ((vs.getD 0 []).take 2)
    saveArea x h 256 m = .ok (area, space) m1 ∧
    (if space < 256 then head = [] ∧ bad = true ∧ m2 = m1 else areaRead x h 256 m1 = .ok (head, bad) m2) ∧
    let core := (((vs.getD 0 []).getD 2 0#32).extractLsb' 0 7).toNat
    let answer (t : State) (st : Nat) : Prop :=
      writeDst x (x.lanes.headD 0) { sOut d 1 with code := 104 + d.toNat + 2 } [regWord (BitVec.ofNat 32 st)] [] t = .ok () u
    match (if bad then none else m2.savedIn head) with
    | none => answer m2 1
    | some (since, w, y) =>
      if space < m2.recordSize w then answer m2 1
      else ∃ bs lost m3, areaRead x h (m2.recordSize w) m2 = .ok (bs, lost) m3 ∧
        if lost = true ∨ bs ≠ m3.recordBytes w since ∨ (core ≠ 0x7F ∧ basinOf core ≠ basinOf y.core) then answer m3 1
        else if m3.isDead y.region then
          answer ((if y.exited then m3 else m3.discardWorkgroup w).updWg w fun y => { y with saved := .pool since 0, exited := true }) 5
        else if y.exited then answer m3 1
        else match m3.poolPlace (basinOf y.core) (m2.recordSize w) with
          | none => answer m3 2
          | some pa => ∃ m4, agentWriteN pa bs false none true m3 = .ok () m4 ∧
            answer ((m4.updWg w fun y => { y with saved := .pool since pa }).updBasin (basinOf y.core) fun q => { q with waits := q.waits ++
              [{ grid := y.launch, first := y.wix, size := 1, restore := some w, basin := basinOf y.core,
                 core := if core ≠ 0x7F then some core else if y.task then some y.core else none, since := since, woken := [],
                 task := false }] }) 0

/-- The instructions that need supervisor level (R333). -/
def supervisorOnly : Instr → Bool
  | .halt | .btinv .. | .tfence .. | .ctxsv _ | .ctxld _ => true
  | _ => false

/-- QPASS (R154, R182, R319): outside a read section, earlier stores visible, then a col. -/
def QpassEffect (x : Iss) (s u : State) : Prop :=
  ∃ g m, s.group? x.gid = some g ∧ g.depth = 0 ∧ waitRelease x.gid 2 s = .ok () m ∧ u = m.col x.gid

/-- A hint as a thread of its entry keeps it (R224). -/
def HintTaken (s : State) (x : Iss) (h : Hint) (t : State) : Prop :=
  let take (p : Nat × Thread) : Nat × Thread :=
    if x.lanes.contains p.1 then (p.1, { p.2 with hint := some h, pc := x.pc + 4#64 }) else p
  ∃ g, s.group? x.gid = some g ∧ t = s.setGroup x.gid { g with stall := none, threads := g.threads.map take }

/-- The hint a word makes of those before it (R224 to R227). -/
def hintOf (i : Instr) (h : Hint) : Option Hint :=
  match i with
  | .xw p => some { h with xw := h.xw ++ [p] }
  | .xh c => some { h with xh := some c }
  | .xm r sa n a m b p l o c => some { h with xm := some (r ++ sa ++ n ++ a ++ m ++ b ++ p ++ l ++ o ++ c) }
  | _ => none

/-- From s to t nothing changes outside the groups, but that the reads of staging units may correct and count errors in a core's banks
(R76). -/
structure GroupsOnly (s t : State) : Prop where
  rest : t = { s with groups := t.groups, cores := t.cores }
  core : ∀ c, t.core c = { s.core c with soft := (t.core c).soft, ceCount := (t.core c).ceCount }

/-- What a register instruction with destination o leaves alone, from s to t: memory and everything else outside the group; in it all
but the threads, the queues, the hold window and what the registers know of other regions; every v register but the destination's
of the active lanes, every uniform register but the destination's, and FPSTAT unless flags may be raised. -/
structure RegistersKept (x : Iss) (o : Operand) (flags : Bool) (s t : State) : Prop where
  rest   : GroupsOnly s t
  others : ∀ n, n ≠ x.gid → t.group? n = s.group? n
  group  : ∃ g k, s.group? x.gid = some g ∧ t.group? x.gid = some k ∧
    k = { g with regs := k.regs, sregs := k.sregs, vdeps := k.vdeps, sdeps := k.sdeps, threads := k.threads, queues := k.queues,
                 terV := k.terV, terS := k.terS, stall := none, window := k.window, fpstat := k.fpstat } ∧
    (flags = false → k.fpstat = g.fpstat) ∧
    (∀ l < 32, ∀ r < 96, ¬(l ∈ x.act ∧ o.code ≤ r ∧ r < o.code + o.n) → k.getV l r = g.getV l r) ∧
    (∀ r < 64, ¬(o.code ≤ 104 + r ∧ 104 + r < o.code + o.n) → k.getS r = g.getS r)

/-- What a comparison into mask m leaves alone: no register changes, no mask but m, no bit of m but those of the active lanes. -/
structure MasksKept (x : Iss) (m : BitVec 4) (flags : Bool) (s t : State) : Prop where
  rest   : GroupsOnly s t
  others : ∀ n, n ≠ x.gid → t.group? n = s.group? n
  group  : ∃ g k, s.group? x.gid = some g ∧ t.group? x.gid = some k ∧
    k = { g with masks := k.masks, threads := k.threads, queues := k.queues, stall := none, window := k.window, fpstat := k.fpstat } ∧
    (flags = false → k.fpstat = g.fpstat) ∧ (∀ n < 16, n ≠ m.toNat → k.mask n = g.mask n) ∧
    ∀ l < 32, l ∉ x.act → (k.mask m.toNat).getLsbD l = (g.mask m.toNat).getLsbD l

/-- Wherever i completes with effect e, it changes no register but its destination's. -/
def KeepsRegisters (i : Instr) (flags : Bool) (e : Iss → State → State → Prop) : Prop :=
  ∀ s x g u o, Ready s i x g → e x s u → destOf i = some o → ∃ t, exec i s = .next t ∧ RegistersKept x o flags s t

/-- Wherever comparison i completes with effect e, it changes nothing but mask m. -/
def KeepsMasks (i : Instr) (m : BitVec 4) (flags : Bool) (e : Iss → State → State → Prop) : Prop :=
  ∀ s x g u, Ready s i x g → e x s u → ∃ t, exec i s = .next t ∧ MasksKept x m flags s t

/-- Byte a of a list of cells after bytes bs are stored at p. -/
def byteAfter (m : List Host.Cell) (p : Nat) (bs : List Byte) (a : Nat) : Byte :=
  if p ≤ a ∧ a < p + bs.length then bs.getD (a - p) 0#8 else cellGet m a

end Sys2Proof.Machine
end

