-- ==== Sys2Proof/Reference/Engine.lean ====
section
/-! DEFINITION. What statements say of the commands a group gives the engines: how a command is issued and numbered, what each
queues, and the answers of launches, tasks and collectives. -/
namespace Sys2Proof.Machine

/-- A command's operands are read once and the group's earlier stores are visible at its issue scope, the default one or a wider XM
scope (R147, R369). -/
def CommandStart (x : Iss) (l : Nat) (os : List (Operand × Bool)) (scope : Nat) (s : State) (vs : List (List Word)) (u : State) : Prop :=
  ∃ m, readOps x l os s = .ok vs m ∧ waitRelease x.gid (max scope (x.scope - 1)) m = .ok () u

/-- A command takes the next number of a workgroup timeline, and what its threads did before is passed to who sees it complete
(R132, R148, R369). -/
def Numbered (x : Iss) (lanes : List Nat) (tl : Nat) (a : State) (n : Nat) (b : State) : Prop :=
  ∃ g, a.group? x.gid = some g ∧ n = (a.issueTl g.wg tl).1 ∧
    b = lanes.foldl (fun s l => s.releaseAt x.gid l (tlLoc g.wg tl n) 2 true) (a.issueTl g.wg tl).2

/-- The number is written to the completion operand of every thread (R346, R369). -/
def NumberTo (x : Iss) (lanes : List Nat) (c : BitVec 7) (n : Nat) (a b : State) : Prop :=
  writeAll x lanes (oOut .comp c 2) [regWord (BitVec.ofNat 32 n), regWord (BitVec.ofNat 32 (n / 2 ^ 32))] a = .ok () b

/-- A status and a command number are answered (R388, R390, R391). -/
def Answered (x : Iss) (lanes : List Nat) (st c : BitVec 7) (v n : Nat) (a b : State) : Prop :=
  ∃ m, writeAll x lanes (oOut .sOneD st 1) [regWord (BitVec.ofNat 32 v)] a = .ok () m ∧ NumberTo x lanes c n m b

/-- A 64-bit field of a pair, low word first. -/
def pairOf (ws : List Word) (k : Nat) : DWord := ws.getD (2 * k + 1) 0#32 ++ ws.getD (2 * k) 0#32

/-- The workgroup holds its core's matrix engine, or takes it in its initial state when it is free and no other workgroup waits for
it first (R344). -/
def Claimed (x : Iss) (a b : State) : Prop :=
  ∃ g, a.group? x.gid = some g ∧
    let e := (a.core g.core).mxe
    if e.holder = some g.wg then b = a
    else e.holder = none ∧ e.waiters.headD g.wg = g.wg ∧ b = a.mxClaim g.core g.wg

/-- A matrix command joins the queue, which has room (R346): `made` gives it from the state in which it is queued. -/
def QueuedMatrix (x : Iss) (lanes : List Nat) (c : BitVec 7) (made : Group → State → MxCmd → State → Prop) (s u : State) : Prop :=
  ∃ m m1 g q m2 n m3, Claimed x s m ∧ waitRelease x.gid (max 1 (x.scope - 1)) m = .ok () m1 ∧ m1.group? x.gid = some g ∧
    (m1.core g.core).mxe.queue.length < 16 ∧ made g m1 q m2 ∧
    Numbered x lanes 0 (if q.isStream && !q.resumed then
      m2.updGroup x.gid fun g => { g with stopped := none, stoppedStatus := 0 } else m2) n m3 ∧
    NumberTo x lanes c n (m3.updMxe g.core fun e => { e with queue := e.queue ++ [{ q with num := n, issued := m3.time }] }) u

/-- WLOAD (R350): base, stride and configuration from four words, the scales' handle where one is given. -/
def WloadMade (t : BitVec 1) (d b : BitVec 7) (x : Iss) (g : Group) (m : State) (q : MxCmd) (m2 : State) : Prop :=
  ∃ vs, readOps x (x.lanes.headD 0) [(oIn .sQuad d 4, false), (oIn .sPairZ b 2, true)] m = .ok vs m2 ∧
    let ws := vs.getD 0 []
    q = { freshMx x .wload (m.regionOf g) with
            tr := t == 1#1, base := pairOf ws 0, stride := (ws.getD 2 0#32).toNat, cfg := ws.getD 3 0#32,
            scale := if b = 120#7 then none else some (pairOf (vs.getD 1 []) 0) }

/-- WSWAP and ACLR of all rows (R351, R359), and ACLR of the rows a word names. -/
def PlainMade (kind : MxKind) (x : Iss) (g : Group) (m : State) (q : MxCmd) (m2 : State) : Prop :=
  q = freshMx x kind (m.regionOf g) ∧ m2 = m
def RowsMade (a : BitVec 7) (x : Iss) (g : Group) (m : State) (q : MxCmd) (m2 : State) : Prop :=
  ∃ vs, readOps x (x.lanes.headD 0) [(oIn .sOne a 1, false)] m = .ok vs m2 ∧
    q = { freshMx x .aclr (m.regionOf g) with tr := true, cfg := (vs.getD 0 []).getD 0 0#32 }

/-- MXRES (R357): the stopped command of the group goes on, or a command that fails for want of one. -/
def ResumeMade (x : Iss) (g : Group) (m : State) (q : MxCmd) (m2 : State) : Prop :=
  m2 = m ∧ q = match g.stopped with
    | some p => { p with resumed := true, started := false, park := none, status := none, unit := none, ue := false }
    | none => freshMx x .bad (m.regionOf g)

/-- MMA, MMAX and AST (R354, R360): every active thread's handle, stride and configuration from the uniform pair. -/
def StreamIssue (kind : MxKind) (h : BitVec 3) (v sc c : BitVec 7) (mode : Iss → Group → BitVec 32 → Nat) (x : Iss) (s u : State) : Prop :=
  ∃ vs m, Gathers (fun l p ws q => readOps x l [(oIn .vPair v 2, true), (oIn .sPair sc 2, false)] p = .ok ws q) x.act s vs m ∧
    if x.act = [] then u = m
    else QueuedMatrix x x.act c (fun g m1 q m2 => m2 = m1 ∧
      let ws := ((vs.map (·.2)).headD []).getD 1 []
      q = { freshMx x kind (m1.regionOf g) with
              rows := h.toNat + 1, stride := (ws.getD 0 0#32).toNat, cfg := ws.getD 1 0#32, lanes := maskOfLanes x.act,
              handles := vs.map fun p => (p.1, pairOf (p.2.getD 0 []) 0), mode := mode x g (ws.getD 1 0#32) }) m u

/-- The rounding mode of AST (R360): XM's, else the configuration's, else FPCTL's. -/
def drainMode (x : Iss) (g : Group) (cfg : BitVec 32) : Nat :=
  if x.rm ≠ 0 then x.rm else if cfg.extractLsb' 4 3 = 0#3 then (g.fpctl.extractLsb' 0 3).toNat else (cfg.extractLsb' 4 3).toNat

/-- The engine stands idle for its holder (R361, R362, R366): nothing queued, the first command parked, or every command queued since a
lane began to execute its instruction. -/
def MatrixIdle (x : Iss) (l : Nat) (a b : State) : Prop :=
  Claimed x a b ∧ ∃ g t, b.group? x.gid = some g ∧ b.thread? x.gid l = some t ∧
    ((b.core g.core).mxe.queue.head?.all fun q => q.park.isSome || t.execution x.time ≤ q.issued) = true

/-- The element an index names (R361): its row and column, which lie in the store, and the lowest bit of the piece. -/
def PieceAt (e : Mxe) (ix : BitVec 32) (row col low : Nat) : Prop :=
  col = (ix.extractLsb' 0 8).toNat ∧ row = (ix.extractLsb' 8 8).toNat ∧ (e.f64 = true → row < 128 ∧ col < 128) ∧
    low = if e.f64 then 96 * (ix.extractLsb' 16 2).toNat else 0

/-- One lane of ARD (R361): 96 bits of the element, poison for one whose value is lost, and the flags of its row. -/
def LaneArd (d i : BitVec 7) (x : Iss) (l : Nat) (a b : State) : Prop :=
  ∃ m vs m1 g row col low, MatrixIdle x l a m ∧ readOps x l [(oIn .index i 1, false)] m = .ok vs m1 ∧ m1.group? x.gid = some g ∧
    let e := (m1.core g.core).mxe
    PieceAt e ((vs.getD 0 []).getD 0 0#32) row col low ∧
    let v : BitVec 96 := (BitVec.ofInt e.width ((e.row row).getD col 0)).extractLsb' low 96
    writeDst x l (oOut .vQuad d 4) ((if e.badEl.contains (row * 256 + col) then List.replicate 3 { val := 0#32, res := 0x7F#7 }
        else [regWord (v.extractLsb' 0 32), regWord (v.extractLsb' 32 32), regWord (v.extractLsb' 64 32)]) ++
      [regWord (BitVec.ofNat 32 (e.rowFlags row))]) [] m1 = .ok () b

/-- One lane of AWR (R361): 96 bits of the element written, it and its row's flags being what software says. -/
def LaneAwr (d i : BitVec 7) (x : Iss) (l : Nat) (a b : State) : Prop :=
  ∃ m vs m1 g row col low, MatrixIdle x l a m ∧ readOps x l [(oIn .vQuad d 4, false), (oIn .index i 1, false)] m = .ok vs m1 ∧
    m1.group? x.gid = some g ∧
    let e := (m1.core g.core).mxe
    let ws := vs.getD 0 []
    PieceAt e ((vs.getD 1 []).getD 0 0#32) row col low ∧
    let old : BitVec e.width := BitVec.ofInt e.width ((e.row row).getD col 0)
    let piece : BitVec 96 := ws.getD 2 0#32 ++ ws.getD 1 0#32 ++ ws.getD 0 0#32
    let new : BitVec e.width := (old &&& ~~~((BitVec.allOnes 96).setWidth e.width <<< low)) ||| (piece.setWidth e.width <<< low)
    b = m1.updMxe g.core fun e =>
      let e := (e.setRow row ((e.row row).set col new.toInt)).setFlags row ((ws.getD 3 0#32).extractLsb' 0 3).toNat
      { e with bound := e.bound.filter (· != row * 256 + col), badEl := e.badEl.filter (· != row * 256 + col) }

/-- MXCFG with a word it accepts (R362): the engine released, parked commands ended ABORTED; or the store emptied, its mode and anchor
set. -/
def MxcfgEffect (a : BitVec 7) (x : Iss) (s u : State) : Prop :=
  ∃ vs m m1 g, readOps x (x.lanes.headD 0) [(oIn .sOne a 1, false)] s = .ok vs m ∧ MatrixIdle x (x.lanes.headD 0) m m1 ∧ m1.group? x.gid = some g ∧
    let w := (vs.getD 0 []).getD 0 0#32
    let m2 := m1.updGroup x.gid fun g => { g with stopped := none, stoppedStatus := 0 }
    mxcfgBad w.toNat = false ∧
    u = if w.msb then ((m2.core g.core).mxe.queue.foldl (fun s q => s.mxDone g.core q 6) m2).mxRelease g.core
      else m2.updMxe g.core fun e => { e with
        f64 := w.getLsbD 30
        anchor := if w.getLsbD 29 then BitVec.ofNat 10 (defaultAnchor (w.extractLsb' 20 4).toNat (w.extractLsb' 16 4).toNat)
          else w.extractLsb' 0 10
        store := [], rows := [], bound := [], badEl := [] }

/-- MXSTAT (R363): a word of the holder's engine; the third one's read clears the drain flags and the first failed command. -/
def MxstatEffect (sel d : BitVec 7) (x : Iss) (s u : State) : Prop :=
  ∃ g m, s.group? x.gid = some g ∧
    writeVals x (x.lanes.headD 0) (oOut .sOne d 1) [BitVec.ofNat 32 (mxstatWord s g sel.toNat)] [] s = .ok () m ∧
    u = if sel = 3#7 ∧ (m.core g.core).mxe.holder = some g.wg then
      m.updMxe g.core fun e => { e with drain := 0#5, errStat := 0, errCmd := 0 } else m

/-- STRM (R372 to R375): the stream bound before ends; a bad descriptor completes BADCMD at once, a good one is bound to the queue. -/
def StrmEffect (q b c : BitVec 7) (x : Iss) (s u : State) : Prop :=
  ∃ vs m m1, CommandStart x (x.act.headD 0) [(oIn .desc b 8, false)] 1 s vs m ∧ endStream x q.toNat m = .ok () m1 ∧
    let desc := (List.range 4).map (pairOf (vs.getD 0 []))
    let n := (m1.issueStream x.gid).1
    let m2 := x.act.foldl (fun s l => s.releaseAt x.gid l (tlLoc x.gid 2 n) 2 true) (m1.issueStream x.gid).2
    NumberTo x x.act c n (if streamBad desc then
        (m2.updGroup x.gid fun g => { g with tl2 := g.tl2.complete n 2 0 0 m2.time }).updQueue x.gid q.toNat
          fun k => { k with status := 2, dir := false }
      else m2.bindStream x.gid q.toNat n desc) u

/-- STRQ (R376): bound, direction, last status and words left; a stream that only reads its words again, after a save, has ended (R377). -/
def StrqEffect (q d : BitVec 7) (x : Iss) (s u : State) : Prop :=
  ∃ g, s.group? x.gid = some g ∧
    let k := g.queues.get .empty q.toNat
    let left : Nat := match k.stream with
      | some t => if k.dir then k.room t else k.words.length + (streamTotal t.desc - t.moved)
      | none => k.words.length
    writeVals x (x.act.headD 0) (oOut .sOne d 1)
      [BitVec.ofBool (k.stream.any fun t => !t.again) ++ BitVec.ofBool k.dir ++ BitVec.ofNat 6 k.status ++ BitVec.ofNat 24 (min left 0xFFFFFF)] [] s = .ok () u

/-- STRQ.end (R376). -/
def StrqEndEffect (q : BitVec 7) (x : Iss) (s u : State) : Prop :=
  ∃ m, waitRelease x.gid (max 1 (x.scope - 1)) s = .ok () m ∧ endStream x q.toNat m = .ok () u

/-- What ending a stream does (R376): a load's unpopped words are dropped and its command completes; a store's command completes once no
pushed word is left; UE where a word that was moved was poisoned (R370); an unbound queue is emptied. -/
def StreamEnds (x : Iss) (q : Nat) (m u : State) : Prop :=
  ∃ g, m.group? x.gid = some g ∧
    let k := g.queues.get .empty q
    match k.stream with
    | none => u = m.updGroup x.gid fun g => { g with queues := g.queues.set q { k with words := [], ended := none } }
    | some t => (k.dir = true → k.words = [] ∧ k.struck = false) ∧
        let st := if t.ue then 1 else 0
        u = (m.updGroup x.gid fun g => { g with tl2 := g.tl2.complete t.num st 0 t.moved m.time }).updQueue x.gid q
          fun k => { k with stream := none, status := if t.again then k.status else st, struck := false, words := [], ended := none }

/-- A group's part of a copy: the descriptor, the notify value, its start time (R379, R380). -/
def SliceRead (i : Instr) (b v : BitVec 7) (x : Iss) (s : State) (y : Slice) (m : State) : Prop :=
  ∃ vs g, CommandStart x (x.act.headD 0) ([(oIn .desc b 8, false), (oIn .sOneZ v 1, false)] ++
      (if x.opd = 127 then [] else [(x.opdFor i, true)])) 1 s vs m ∧ m.group? x.gid = some g ∧
    y = { gix := g.gix, desc := vs.getD 0 [], notify := (vs.getD 1 []).getD 0 0#32,
          start := if x.opd = 127 then none else some (pairOf (vs.getD 2 []) 0).toNat }

/-- A copy command (R369, R378, R380): a collective copy whose command another group has formed takes this slice; else a queue entry is
taken and a new command queued; or, once the wait for an entry has lasted a quantum, number 0 says CQBUSY. -/
def CopyIssue (i : Instr) (kind : Nat) (b v c : BitVec 7) (x : Iss) (s u : State) : Prop :=
  ∃ y m g, SliceRead i b v x s y m ∧ m.group? x.gid = some g ∧
    let k := (((m.wgs.look g.wg).map (·.slices.get 0 g.gix)).getD 0) + 1
    match (if kind = 0 then (m.wgs.look g.wg).bind (·.copyNums.look k) else none) with
    | some n => NumberTo x x.act c n (x.act.foldl (fun s l => s.releaseAt x.gid l (tlLoc g.wg 1 n) 2 true)
        (((m.updGroup x.gid fun g => { g with engqSince := none }).updCopy g.wg n fun q => { q with slices := q.slices ++ [y] }).updWg g.wg
          fun w => { w with slices := w.slices.set g.gix k })) u
    | none => match m.copyEntry g.wg with
      | none => (∃ t, g.engqSince = some t ∧ t + m.quantum (m.regionOf g) ≤ m.time) ∧
          NumberTo x x.act c 0 (m.updGroup x.gid fun g => { g with engqSince := none }) u
      | some r => ∃ n m1, Numbered x x.act 1 (m.updGroup x.gid fun g => { g with engqSince := none }) n m1 ∧
          let members := (m1.groupsOf g.wg).filterMap fun p => if p.2.exited then none else some p.2.gix
          let q : CopyCmd :=
            { num := n, index := k, done := 0, ue := false, refused := 0, kind := kind, members := if kind = 0 then members else [],
              slices := [y], reserved := r, region := m1.regionOf g, scope := max 1 (x.scope - 1), started := false, park := none,
              outcome := none }
          let joined (w : Workgroup) : Workgroup :=
            if kind = 0 then { w with copies := w.copies ++ [q], slices := w.slices.set g.gix k, copyNums := w.copyNums.set k n }
            else { w with copies := w.copies ++ [q] }
          NumberTo x x.act c n (m1.updWg g.wg joined) u

/-- The copies: kind 0 collective, 1 multicast, 2 gather, 3 scatter, and the fields (R378, R382, R383). -/
def copyForm : Instr → Option (Nat × BitVec 7 × BitVec 7 × BitVec 7)
  | .cpy b v c => some (0, b, v, c)
  | .cpym b v c => some (1, b, v, c)
  | .gath b v c => some (2, b, v, c)
  | .scat b v c => some (3, b, v, c)
  | _ => none

/-- CPST (R371): status, details and time of a command, and the error flag cleared on request. -/
def CpstEffect (d n t : BitVec 7) (x : Iss) (s u : State) : Prop :=
  ∃ vs m g m1, readOps x (x.act.headD 0) [(oIn .sPair n 2, true)] s = .ok vs m ∧ m.group? x.gid = some g ∧
    let tl := (t.extractLsb' 0 3).toNat
    let num := (pairOf (vs.getD 0 []) 0).toNat
    let r : Nat × Nat × Nat × Nat := match m.timeline g tl with
      | none => (14, 0, 0, 0)
      | some q =>
        if num = 0 ∨ q.issued < num then (14, 0, 0, 0)
        else if num ∈ q.pend then (13, 0, 0, 0)
        else match q.recs.find? fun r => r.n == num with
          | some r => (r.status, r.detA, r.detB, r.gtb)
          | none => (15, 0, 0, 0)
    writeVals x (x.act.headD 0) (oOut .sQuad d 4)
      [BitVec.ofNat 32 r.1, BitVec.ofNat 32 r.2.1, BitVec.ofNat 32 r.2.2.1, BitVec.ofNat 32 r.2.2.2] [] m = .ok () m1 ∧
    u = if t.getLsbD 3 then
        (if tl = 2 then m1.updGroup x.gid fun g => { g with tl2 := { g.tl2 with err := false } }
         else if tl = 7 then m1 else m1.updTl g.wg tl fun q => { q with err := false })
      else m1

/-- DBW (R384): a doorbell of 4 or 8 bytes is queued, and its target sought. -/
def DoorbellIssue (h v c : BitVec 7) (n : Nat) (x : Iss) (s u : State) : Prop :=
  ∃ vs m g num m1, CommandStart x (x.act.headD 0)
      [(oIn .sPair h 2, true), (if n = 1 then oIn .sOne v 1 else oIn .sPair v 2, n == 2)] 3 s vs m ∧
    m.group? x.gid = some g ∧ Numbered x x.act 3 m num m1 ∧
    let d : Doorbell :=
      { wg := g.wg, num := num, region := m1.regionOf g, core := g.core, handle := pairOf (vs.getD 0 []) 0, size := 4 * n,
        value := BitVec.ofNat 64 (numberOf (vs.getD 1 [])), target := none, park := none }
    NumberTo x x.act c num (({ m1 with bells := m1.bells ++ [d] } : State).resolveBell d) u

/-- NMC (R387): a near-memory command of eight words is queued, with the handle of its status word where one is given. -/
def NmcIssue (b w c : BitVec 7) (x : Iss) (s u : State) : Prop :=
  ∃ vs m g num m1, CommandStart x (x.act.headD 0) [(oIn .desc b 8, false), (oIn .sPairZ w 2, true)] 2 s vs m ∧
    m.group? x.gid = some g ∧ Numbered x x.act 4 m num m1 ∧
    NumberTo x x.act c num (m1.updWg g.wg fun y => { y with nmus := y.nmus ++
      [{ num := num, words := vs.getD 0 [], status := if w = 120#7 then none else some (pairOf (vs.getD 1 []) 0),
         region := m1.regionOf g, group := x.gid, park := none, done := 0, result := none }] }) u

/-- LAUNCH (R189, R388): the packet is read; 3 for a region of which the issuer's is no ancestor, 2 without a queue, 1 for a full one,
4 where the queue cannot be written, else 0: the packet stands in the queue and a number names the launch. -/
def LaunchEffect (p st c : BitVec 7) (x : Iss) (s u : State) : Prop :=
  ∃ vs m packet m1 g, CommandStart x (x.act.headD 0) [(oIn .sPair p 2, true)] 2 s vs m ∧
    readObject x (x.act.headD 0) (numberOf (vs.getD 0 [])) 64 m = .ok packet m1 ∧ m1.group? x.gid = some g ∧
    let region := m1.regionOf g
    let owner := m1.effRegion region 12
    let q := (m1.region? owner).getD .fresh
    if region ∉ m1.chain 17 (packet / 2 ^ 20 % 2 ^ 20) then Answered x x.act st c 3 0 m1 u
    else if m1.lqEnt region = 0 then Answered x x.act st c 2 0 m1 u
    else if m1.lqEnt region - 1 + m1.lqOvn region ≤ (q.lqPut - q.lqTake).toNat then Answered x x.act st c 1 0 m1 u
    else
      (∃ m2 n m3, lqWrite owner q.lqPut.toNat packet m1 = .ok () m2 ∧ Numbered x x.act 5 m2 n m3 ∧
        Answered x x.act st c 0 n (m3.updRegion owner fun r =>
          { r with lqPut := r.lqPut + 1#64, lqCtx := r.lqCtx.set q.lqPut.toNat (g.wg, n) }) u) ∨
      (∃ e t, lqWrite owner q.lqPut.toNat packet m1 = .error e t ∧ (∀ r, e ≠ .stall r) ∧ Answered x x.act st c 4 0 m1 u)

/-- TPOST and DEFER (R177, R178, R390): 5 for a reserved field, 3 for a region of which the issuer's is no ancestor, 4 where every
bucket is full, else the record stands in a bucket, its id is answered and the command completes. -/
def PostEffect (defer_ : Bool) (p r c : BitVec 7) (x : Iss) (s u : State) : Prop :=
  ∃ vs m v m1 g, CommandStart x (x.act.headD 0) [(oIn .sPair p 2, true)] 2 s vs m ∧
    readObject x (x.act.headD 0) (numberOf (vs.getD 0 [])) 32 m = .ok v m1 ∧ m1.group? x.gid = some g ∧
    let k : Record :=
      { home := 0, slot := 0, gen := 0, code := BitVec.ofNat 64 v, frame := BitVec.ofNat 64 (v / 2 ^ 64),
        affinity := BitVec.ofNat 64 (v / 2 ^ 192), join := BitVec.ofNat 32 (v / 2 ^ 160), region := v / 2 ^ 140 % 2 ^ 20,
        deferred := false, isFault := false, runnable := false, saved := none, since := 0 }
    if v / 2 ^ 128 % 2 ^ 12 ≠ 0 then Answered x x.act r c 5 0 m1 u
    else if m1.regionOf g ∉ m1.chain 17 k.region then Answered x x.act r c 3 0 m1 u
    else
      let target := if defer_ then (m1.graceRequest k.region).1 else 0
      let m2 := if defer_ then (m1.graceRequest k.region).2 else m1
      let k' := if defer_ then { k with deferred := true, join := BitVec.ofNat 32 target } else k
      match m2.postRecord k' (some g.core) with
      | (none, _) => Answered x x.act r c 4 0 m1 u
      | (some id, m3) => ∃ n m4 m5, Numbered x x.act 5 m3 n m4 ∧
          writeAll x x.act (oOut .sPairD r 2) [regWord 0#32, regWord (BitVec.ofNat 32 id)]
            (x.act.foldl (fun s l => s.releaseAt x.gid l (recordLoc id) 2 true) (m4.completeTl g.wg 5 n 0 id (target % 2 ^ 32))) = .ok () m5 ∧
          NumberTo x x.act c n m5 u

/-- TJOIN (R179, R391): 5 for an id that names no record waiting for joins that the issuer may join, else the count of the record falls
by one, at zero it becomes runnable, and the command completes. -/
def TjoinEffect (i st c : BitVec 7) (x : Iss) (s u : State) : Prop :=
  ∃ vs m g, CommandStart x (x.act.headD 0) [(oIn .sOne i 1, false)] 2 s vs m ∧ m.group? x.gid = some g ∧
    let id := numberOf (vs.getD 0 [])
    match m.steppe.find? fun r => r.id == id && r.saved.isNone with
    | none => Answered x x.act st c 5 0 m u
    | some r =>
      if r.runnable = true ∨ r.deferred = true ∨ (m.levelOf g = 0 ∧ m.regionOf g ∉ m.chain 17 r.region) then Answered x x.act st c 5 0 m u
      else ∃ n m1, Numbered x x.act 5 (m.joinRecord r) n m1 ∧
        Answered x x.act st c 0 n (x.act.foldl (fun s l => s.releaseAt x.gid l (recordLoc id) 2 true)
          (m1.completeTl g.wg 5 n 0 id (r.join - 1#32).toNat)) u

/-- COLL (R392, R393, R395, R424): BADCMD for a bad descriptor or a communicator the region has no rank of, ABORTED at a rank that is
not active, else the collective joins its rank's. -/
def CollEffect (b c : BitVec 7) (x : Iss) (s u : State) : Prop :=
  ∃ vs m g n m1, CommandStart x (x.act.headD 0) ((oIn .desc b 8, false) :: (if x.opd = 127 then [] else [(x.opdFor (.coll b c), true)])) 3
      s vs m ∧ m.group? x.gid = some g ∧ Numbered x x.act 6 m n m1 ∧
    let desc := vs.getD 0 []
    let comm := (desc.getD 6 0#32).toNat
    let coll : Coll :=
      { k := 0, wg := g.wg, num := n, desc := desc, region := m1.regionOf g, group := x.gid,
        start := if x.opd = 127 then none else some (pairOf (vs.getD 1 []) 0).toNat, issue := m1.time, got := [], sent := [] }
    NumberTo x x.act c n (match m1.boundRank comm (m1.regionOf g) with
      | none => m1.completeOpen g.wg 6 n 2
      | some r =>
        if coll.bad || (m1.comms.look comm).isNone then m1.completeOpen g.wg 6 n 2
        else if r.state ≠ 0 then
          m1.completeTl g.wg 6 n 6 (r.culprit.getD 0xFFFFFFFF) (if r.excluded then 9 else 8)
        else m1.updRank comm r.rank fun r => { r with seq := r.seq + 1, colls := r.colls ++ [{ coll with k := r.seq }] }) u

/-- CABORT (R396): BADCMD without a rank, else the rank's communicator breaks with cause 5. -/
def CabortEffect (a c : BitVec 7) (x : Iss) (s u : State) : Prop :=
  ∃ vs m g n m1, CommandStart x (x.act.headD 0) [(oIn .sOne a 1, false)] 3 s vs m ∧ m.group? x.gid = some g ∧ Numbered x x.act 6 m n m1 ∧
    let comm := numberOf (vs.getD 0 [])
    NumberTo x x.act c n (match m1.boundRank comm (m1.regionOf g) with
      | none => m1.completeOpen g.wg 6 n 2
      | some r => (if r.excluded then m1 else m1.breakRank comm r.rank r.rank 5 true).completeTl g.wg 6 n 0 r.rank 5) u

/-- CSTAT (R397): state, cause, culprit, rank and epoch of the region's rank, or of the communicator's lowest here; without one state 3
and two words the spec does not state. -/
def CstatEffect (a d : BitVec 7) (x : Iss) (s u : State) : Prop :=
  ∃ vs m g, readOps x (x.act.headD 0) [(oIn .sOne a 1, false)] s = .ok vs m ∧ m.group? x.gid = some g ∧
    let comm := numberOf (vs.getD 0 [])
    match (m.boundRank comm (m.regionOf g)).orElse fun _ => m.ranks.find? fun q => q.comm == comm with
    | some r => writeVals x (x.act.headD 0) (oOut .sQuad d 4) [BitVec.ofNat 32 (r.state * 2 ^ 30 + r.cause % 16 * 2 ^ 20),
        BitVec.ofNat 32 (r.culprit.getD 0xFFFFFFFF), BitVec.ofNat 32 r.rank, BitVec.ofNat 32 r.epoch] [] m = .ok () u
    | none => writeVals x (x.act.headD 0) (oOut .sQuad d 4)
        [0xC0000000#32, 0xFFFFFFFF#32, BitVec.ofNat 32 m.detail.1, BitVec.ofNat 32 m.detail.2.detail.1] [] m.detail.2.detail.2 = .ok () u

end Sys2Proof.Machine
end

