-- ==== Sys2Proof/Certificates/Slice0/Obligations.lean ====
section
/-! DEFINITION. The statements for the provers: what each instruction and each act of the part does, taken from the rules of the
spec; what a register instruction leaves alone; what memory reads; and what every step keeps. -/
open Sys2Proof Sys2Proof.Machine

/-- A step with an empty agenda, in which it is the pipes' turn (log entry 2), issues one word: the word fetched for the entry whose turn
it is decodes to i, and the step is exec of i, its issue then counted and a single step's trap taken. Where a trap is still to be entered
(R399), the step takes it first. -/
def Obligations.StepRunsDecoded : Prop :=
  ∀ (s m : State) (gid : Nat) (g : Group),
    s.agenda = [] → (s.phase = false ∨ s.nextInternal = none) → s.pick = some gid →
    m = (({ s with phase := true } : State).prepare gid).timers → m.group? gid = some g →
    (∀ (t : State) (l : Nat) (ls : List Nat) (w : BitVec 32) (i : Instr), g.entering = none → m.entry g = l :: ls →
      m.fetch gid g (l :: ls) = (.ok w, t) → decodeWord w = .ok i →
      step s = match exec i t with
        | .next u => .next ((u.account gid (l :: ls) (issueCost i (t.issueOf gid g (l :: ls)).act.length)).stepTrap gid g (l :: ls) i.isHint)
        | .fault r => .fault r
        | .refused r => .refused r) ∧
    (∀ ts tpc, g.entering = some (ts, tpc) →
      step s = .next (((m.updGroup gid fun g => { g with entering := none }).takeTrap gid ts tpc).updGroup gid fun g => g.heldBy .fetch))

/-- A step with an event due performs it: exec of the instruction the event is; and so does a step in which the part's own work comes next
(log entry 2). In a module whose boot has failed no event but its reset has an effect (R425). -/
def Obligations.StepPerformsEvents : Prop :=
  ∀ (s : State) (e : Event) (es : List Event) (i : Instr), e.Is i →
    ((s.bootFailed = false ∨ ∃ code digest, e = .moduleReset code digest) →
      (s.agenda = e :: es → step s = exec i { s with agenda := es }) ∧
      (s.agenda = [] → s.phase = true → s.nextInternal = some e → step s = exec i { s with phase := false })) ∧
    (s.bootFailed = true → (∀ code digest, e ≠ .moduleReset code digest) → s.agenda = e :: es → step s = .next { s with agenda := es })

/-- The word a thread issues is the little-endian word of the four bytes at its PC (R5, R15, R102): fetched with the right to execute,
from targets that are not main memory and from DEV pages as a load reads it, else out of the instruction cache's line. No word is fetched
at a misaligned PC (R213). -/
def Obligations.FetchReadsTheWord : Prop :=
  (∀ (s : State) (gid : Nat) (g : Group) (lanes : List Nat) (th : Thread), g.thread? (lanes.headD 0) = some th → th.pc.toNat % 4 ≠ 0 →
    ∃ e, (s.fetch gid g lanes).1 = .error e) ∧
  ∀ (s m u : State) (gid : Nat) (g : Group) (lanes : List Nat) (th : Thread) (a : Xlat), g.thread? (lanes.headD 0) = some th →
    th.pc.toNat % 4 = 0 → translate (s.whoOf g) th.pc.toNat 4 .fetch s = .ok a m →
    (∀ b0 b1 b2 b3, isMain a.pa = false → (∀ b o, targetOf a.pa ≠ .reg b o) →
      loadAt (s.viaOf g gid (lanes.headD 0)) a 4 m = .ok ([b0, b1, b2, b3], false) u →
      s.fetch gid g lanes = (.ok (wordOfBytes b0 b1 b2 b3), u)) ∧
    (∀ b0 b1 b2 b3 m', isMain a.pa = true → a.por = false → a.badKey = false → a.dev = true → tornGate g.core (lineOf a.pa) m = .ok () m' →
      loadAt (s.viaOf g gid (lanes.headD 0)) a 4 m' = .ok ([b0, b1, b2, b3], false) u →
      s.fetch gid g lanes = (.ok (wordOfBytes b0 b1 b2 b3), u)) ∧
    (∀ d, isMain a.pa = true → a.por = false → a.badKey = false → a.dev = false → (m.core g.core).icache.look (lineOf (keyOf a.pa)) = some d →
      s.fetch gid g lanes = (.ok (d.extractLsb' (8 * (keyOf a.pa % 128)) 32), m))

/-- Reset. What the spec states: no group, workgroup, grid, task or communicator is there, every bank of every core is OFF, every core's
pool is uninitialised and the module is in reduced service. The model's own choices: the GTB reads 0 (log entry 8), and memory lists
nothing, each byte reading 0 (log entry 1), which is in canonical form. -/
def Obligations.ResetState : Prop :=
  State.reset.groups = [] ∧ State.reset.wgs = [] ∧ State.reset.grids = [] ∧ State.reset.steppe = [] ∧ State.reset.comms = [] ∧
  State.reset.full = false ∧ State.reset.gtb = 0#64 ∧ State.reset.mem.bytes = [] ∧
  (∀ c < 88, (State.reset.core c).ready = false ∧ (State.reset.core c).busy = false ∧ (State.reset.core c).mxe.holder = none ∧
    ∀ b < 96, (State.reset.bank c b).role = .off) ∧
  Inv State.reset

/-- Decoding gives what the spec's encodings say, on one word of each format and family. -/
def Obligations.DecodeSpecWords : Prop :=
  decodeWord 0x00000000#32 = .error 0x01 ∧
  decodeWord 0x02030208#32 = .ok (.iadd 0#2 3#7 1#7 2#7) ∧
  decodeWord 0x06820819#32 = .ok (.idiv 1#2 2#7 4#7 6#7 1#1) ∧
  decodeWord 0x127BFF7F#32 = .ok (.icmp 0#2 7#3 11#4 127#7 95#7 3#2) ∧
  decodeWord 0x227F01FF#32 = .ok (.movi 127#7 0x1FF#9) ∧
  decodeWord 0x20050C1F#32 = .ok (.shli 5#7 6#7 31#9) ∧
  decodeWord 0x3A680E00#32 = .ok (.ballot 0#2 104#7 7#7) ∧
  decodeWord 0x40820818#32 = .ok (.fadd 1#2 2#7 4#7 6#7) ∧
  decodeWord 0x703F07FE#32 = .ok (.sadd 63#6 1#6 1#1 0x1FE#9) ∧
  decodeWord 0x744702FF#32 = .ok (.smovi 7#6 0x0FF#9) ∧
  decodeWord 0x7409003C#32 = .ok (.smov 9#6 60#6) ∧
  decodeWord 0xC0000040#32 = .ok (.fence 2#2) ∧
  decodeWord 0xB17FFFFF#32 = .ok (.bra 11#4 1#1 0xFFFFF#20) ∧
  decodeWord 0xB400FE00#32 = .ok (.call) ∧
  decodeWord 0xB4000002#32 = .ok (.ret) ∧
  decodeWord 0xBA000080#32 = .ok (.prio 128#8) ∧
  decodeWord 0xBC02BEEF#32 = .ok (.trap 0xBEEF#16) ∧
  decodeWord 0xF4000001#32 = .ok (.sysc 1#16) ∧
  decodeWord 0xF4400000#32 = .ok (.eret) ∧
  decodeWord 0xBC000000#32 = .ok (.nop) ∧
  decodeWord 0xBC010000#32 = .ok (.exitI) ∧
  decodeWord 0xFE7FFFFF#32 = .ok (.xw 0x7FFFFF#23) ∧
  decodeWord 0xFE800007#32 = .ok (.xh 7#3) ∧
  decodeWord 0xD200007F#32 = .ok (.wswap 127#7) ∧
  decodeWord 0x3E680A1C#32 = .ok (.lfold 0#2 104#7 5#7 7#7 0#1) ∧
  decodeWord 0x76010A5F#32 = .ok (.vrd 1#6 2#6 95#7) ∧
  decodeWord 0x81040DFF#32 = .ok (.ld 2#2 4#7 3#6 0#1 0x1FF#9) ∧
  decodeWord 0x8709BEFF#32 = .ok (.sts 2#2 9#7 47#6 1#1 0x0FF#9) ∧
  decodeWord 0x8A091001#32 = .ok (.ldx 9#7 4#6 1#9) ∧
  decodeWord 0xA0090CC4#32 = .ok (.aadd 0#2 9#7 3#6 0#1 1#1 2#2 1#3) ∧
  decodeWord 0xA8090D81#32 = .ok (.red 0#2 9#7 3#6 1#1 1#1 0#3 1#2) ∧
  decodeWord 0xC2090CD0#32 = .ok (.bararr 9#7 3#6 1#1 1#2) ∧
  decodeWord 0xC48A0DD8#32 = .ok (.waitaddr 1#2 10#7 3#6 7#3 0#1 3#2) ∧
  decodeWord 0xC601C209#32 = .ok (.tlwait 7#7 4#7 9#7) ∧
  decodeWord 0xB602C000#32 = .ok (.join 11#7) ∧
  decodeWord 0xF0450010#32 = .ok (.csrw 5#6 0x010#12) ∧
  decodeWord 0xF2042000#32 = .ok (.role 4#6 8#6) ∧
  decodeWord 0xF644C020#32 = .ok (.tfence 4#6 3#2 0#1 32#6) ∧
  decodeWord 0xFF14E3F8#32 = .ok (.xm 1#3 0#1 1#1 0#1 0#1 1#1 12#4 0#1 127#7 0#3) ∧
  decodeWord 0xD03B3C6A#32 = .ok (.wload 1#1 108#7 120#7 106#7) ∧
  decodeWord 0xD4E1357F#32 = .ok (.mma 7#3 4#7 106#7 127#7) ∧
  decodeWord 0xE000F87F#32 = .ok (.strm 3#7 112#7 127#7) ∧
  decodeWord 0xE21C3C6A#32 = .ok (.cpy 112#7 120#7 106#7) ∧
  decodeWord 0xE81C3C6A#32 = .ok (.nmc 112#7 120#7 106#7) ∧
  decodeWord 0xEA1AB4EC#32 = .ok (.launch 106#7 105#7 108#7) ∧
  decodeWord 0xEC1C007F#32 = .ok (.coll 112#7 127#7)

/-- Every well-formed instruction has a word, and the word decodes to it. -/
def Obligations.EncodeThenDecode : Prop :=
  ∀ i : Instr, i.wellFormed = true → ∃ w, encode i = some w ∧ decodeWord w = .ok i

/-- A word that decodes is the encoding of the well-formed instruction it decodes to: no field of a word is ignored. -/
def Obligations.DecodeThenEncode : Prop :=
  ∀ (w : BitVec 32) (i : Instr), decodeWord w = .ok i → i.wellFormed = true ∧ encode i = some w

/-- Every step keeps main memory and every scratchpad in canonical form: addresses strictly rising, no byte listed that an unlisted
address reads as. -/
def Obligations.StepKeepsMemoryForm : Prop :=
 ∀ s t : State, Inv s → step s = .next t → Inv t

/-- A word that is an illegal encoding, and an instruction that stands illegally where it issues, trap every thread of the entry with
ILLOP, TVAL holding the word and the reason, TPC the first of the instruction's words (R230, R231). -/
def Obligations.IllegalWordsTrap : Prop :=
  (∀ (s : State) (gid : Nat) (g : Group) (lanes : List Nat) (w : BitVec 32) (r : Nat), r < 256 → s.issuer = some (gid, g, lanes) →
    s.failedLanes gid lanes = [] → ∃ v, Back s (s.issueOf gid g lanes) lanes v ∧
    exec (.illegalEncoding w.toNat r) s = .next (v.takeTrap gid (lanes.map (·, { trapOf .illop (BitVec.ofNat 64 (w.toNat + r * 2 ^ 32)) with
      extra := if g.window.isSome then (s.issueOf gid g lanes).first else 0#64, hold := g.window.isSome }))
      ((g.window.map (·.xh)).getD (s.issueOf gid g lanes).first))) ∧
  (∀ (i : Instr) (s : State) (x : Iss) (g : Group) (w : BitVec 32) (r : Nat), i.isEvent = false → i.isHint = false → i ≠ .exitI →
    s.issuer = some (x.gid, g, x.lanes) → s.issueOf x.gid g x.lanes = x → s.failedLanes x.gid x.lanes = [] →
    (i.endsSfr = true → ∀ l ∈ x.act, ∀ th, g.thread? l = some th → th.late = []) → encode i = some w → issueBad i x g = some r →
    ∃ v, Back s x x.lanes v ∧
    exec i s = .next (v.takeTrap x.gid (x.lanes.map (·, { trapOf .illop (BitVec.ofNat 64 (w.toNat + r * 2 ^ 32)) with
      extra := if g.window.isSome then x.first else 0#64, hold := g.window.isSome })) ((g.window.map (·.xh)).getD x.first)))

/-- What a source operand reads (R166, R217, R218): v registers and uniform registers by number, the low ones of a list first, the uniform
ones as they stood at the start of the issue; a latch's low 32 bits, or all 64 in two registers; 0, the lane, the group's and the
workgroup's index, the low word of the GTB, the XWs' value. What reads of registers and of latches see, and that a poisoned or damaged
source traps before anything is written (R73, R75, R266): POISON first, then REGERR. Of two poisoned, or two damaged sources, TVAL names
the first operand, the model's choice (log entry 27). -/
def Obligations.SourceOperands : Prop :=
  (∀ (x : Iss) (l : Nat) (o : Operand) (w64 : Bool) (s : State) (g : Group), s.group? x.gid = some g →
     let small (v : Nat) : List RegWord := [regWord (BitVec.ofNat 32 v)]
     (o.code < 96 → readRaw x l o w64 s = .ok ((List.range o.n).map fun k => g.getV l (o.code + k)) s) ∧
     (∀ th y, 96 ≤ o.code → o.code < 100 → g.thread? l = some th → th.latches[o.code - 96]? = some y → y.par = 0#8 →
       (o.n = 1 → readRaw x l o w64 s = .ok [regWord (y.val.extractLsb' 0 32)] s) ∧
       (o.n = 2 → readRaw x l o w64 s = .ok [regWord (y.val.extractLsb' 0 32), regWord (y.val.extractLsb' 32 32)] s)) ∧
     (104 ≤ o.code → o.code + o.n ≤ 120 → 0 < o.n → (∀ k < 16, x.us.getD k zeroWord = g.getS k) →
       readRaw x l o w64 s = .ok ((List.range o.n).map fun k => g.getS (o.code - 104 + k)) s) ∧
     (o.n = 1 → o.code = 120 → readRaw x l o w64 s = .ok [regWord 0#32] s) ∧
     (o.n = 1 → o.code = 121 → readRaw x l o w64 s = .ok (small l) s) ∧
     (o.n = 1 → o.code = 122 → readRaw x l o w64 s = .ok (small g.gix) s) ∧
     (o.n = 1 → o.code = 123 → ∀ w, s.wgs.look g.wg = some w → readRaw x l o w64 s = .ok (small w.wix) s) ∧
     (o.n = 1 → o.code = 124 → readRaw x l o w64 s = .ok [regWord (s.gtb.extractLsb' 0 32)] s) ∧
     (o.n = 1 → o.code = 127 → readRaw x l o w64 s = .ok [regWord (BitVec.ofInt 32 x.xwValue)] s) ∧
     (o.n = 2 → w64 = true → o.code = 127 → readRaw x l o w64 s =
       .ok [regWord ((BitVec.ofInt 64 x.xwValue).extractLsb' 0 32), regWord ((BitVec.ofInt 64 x.xwValue).extractLsb' 32 32)] s)) ∧
  (∀ (x : Iss) (l : Nat) (a b : BitVec 7) (s : State) (g : Group), s.group? x.gid = some g → a.toNat < 96 → b.toNat < 96 →
     let p := g.getV l a.toNat
     let q := g.getV l b.toNat
     let r := readOps x l [(oSrc a 1, false), (oSrc b 1, false)] s
     (p.bad = false → q.bad = false → r = .ok [[p.val], [q.val]] s) ∧
     (p.poisoned = true → r = .error (.lane (trapOf .poison (a.setWidth 64))) s) ∧
     (p.poisoned = false → q.poisoned = true → r = .error (.lane (trapOf .poison (b.setWidth 64))) s) ∧
     (p.poisoned = false → q.poisoned = false → p.bad = true → r = .error (.lane (trapOf .regerr (a.setWidth 64))) s) ∧
     (p.poisoned = false → q.poisoned = false → p.bad = false → q.bad = true → r = .error (.lane (trapOf .regerr (b.setWidth 64))) s))

/-- What writing a destination does (R63, R217, R219): v and uniform registers take the words, each with its residue; code 127 discards
them; a v register or discard destination also shifts the words' low 64 bits into the latches. -/
def Obligations.DestinationOperands : Prop :=
  ∀ (x : Iss) (l : Nat) (o : Operand) (ws : List Word) (s : State) (g : Group), s.group? x.gid = some g → l < 32 → o.n = ws.length →
    (o.code + o.n ≤ 96 → ∃ t k, writeVals x l o ws [] s = .ok () t ∧ t.group? x.gid = some k ∧ (∀ n, n ≠ x.gid → t.group? n = s.group? n) ∧
      t = { s with groups := t.groups } ∧ k.sregs = g.sregs ∧ k.masks = g.masks ∧ k.queues = g.queues ∧
      (∀ th, g.thread? l = some th → k.thread? l = some (th.shift (ws.getD 1 0#32 ++ ws.getD 0 0#32))) ∧
      ∀ m < 32, ∀ r < 96, k.getV m r = if m = l ∧ o.code ≤ r ∧ r < o.code + o.n then regWord (ws.getD (r - o.code) 0#32) else g.getV m r) ∧
    (104 ≤ o.code → o.code + o.n ≤ 120 → ∃ t k, writeVals x l o ws [] s = .ok () t ∧ t.group? x.gid = some k ∧
      (∀ n, n ≠ x.gid → t.group? n = s.group? n) ∧ t = { s with groups := t.groups } ∧ k.regs = g.regs ∧ k.masks = g.masks ∧
      k.queues = g.queues ∧ k.threads = g.threads ∧
      ∀ r < 64, k.getS r = if o.code ≤ 104 + r ∧ 104 + r < o.code + o.n then regWord (ws.getD (104 + r - o.code) 0#32) else g.getS r) ∧
    (o.code = 127 → writeVals x l o ws [] s = .ok () (s.updThread x.gid l fun t =>
      { t with latches := ({ val := ws.getD 1 0#32 ++ ws.getD 0 0#32, par := 0#8, dep := [] } :: t.latches).take 4 }))

/-- Queue operands (R217, R375): a read pops a load stream's words in order, and waits while they are not there; a write pushes to a store
stream, shifts the latches (R219), waits while the queue is full, and is ENGFAULT where no stream of that direction is bound; past the
last word of a store stream still bound too, the model's choice (log entry 39). A word its staging unit holds uncorrectable is waited for
while the stream is bound, and delivers poison once it has ended (R76); a private buffer has no such words. -/
def Obligations.QueueOperands : Prop :=
  ∀ (x : Iss) (l : Nat) (o : Operand) (w64 : Bool) (s : State) (g : Group), s.group? x.gid = some g → 100 ≤ o.code → o.code < 104 →
    let q := o.code - 100
    let k := g.queues.get .empty q
    let bad := s.queueBad g.core x.gid q k o.n
    let popped := (s.queueRead g.core x.gid q k o.n).updGroup x.gid fun g => { g with queues := g.queues.set q { k with words := k.words.drop o.n } }
    let pushed (n : Nat) := s.queueWrite g.core x.gid q k n
    (k.unit = none → bad = [] ∧ s.queueRead g.core x.gid q k o.n = s ∧ ∀ n, pushed n = s) ∧
    (k.dir = false → o.n ≤ k.words.length → k.struck = false → bad = [] → readRaw x l o w64 s = .ok ((k.words.take o.n).map fun w =>
        if w.poison then { val := w.val, res := 0x7F#7 } else parityWord w.val w.par) popped) ∧
    (k.dir = false → o.n ≤ k.words.length → k.struck = false → k.stream = none → ∃ ws, readRaw x l o w64 s = .ok ws popped ∧
      ∀ j ∈ bad, ∀ w, ws[j]? = some w → w.poisoned = true) ∧
    (k.dir = false → k.words.length < o.n ∨ k.struck = true ∨ bad ≠ [] → k.stream.isSome = true →
      readRaw x l o w64 s = .error (.stall .stream) s) ∧
    (k.dir = true ∨ ((k.words.length < o.n ∨ k.struck = true) ∧ k.stream = none) →
      readRaw x l o w64 s = .error (.lane (trapOf .engfault (BitVec.ofNat 64 q))) s) ∧
    (∀ (ws : List Word) (t : Stream), k.stream = some t → k.dir = true → ws.length ≤ k.room t →
      k.words.length + ws.length ≤ k.cap → writeVals x l o ws [] s = .ok ()
        (((pushed ws.length).updGroup x.gid fun g => { g with queues := g.queues.set q { k with words := k.words ++ ws.map fun w =>
          { val := w, par := 0#4, poison := false } } }).updThread x.gid l fun t => t.shift (ws.getD 1 0#32 ++ ws.getD 0 0#32))) ∧
    (∀ (ws : List Word) (t : Stream), k.stream = some t → k.dir = true → ws.length ≤ k.room t → k.cap < k.words.length + ws.length →
      writeVals x l o ws [] s = .error (.stall .stream) s) ∧
    (∀ ws : List Word, (k.stream = none ∨ k.dir = false ∨ ∃ t, k.stream = some t ∧ k.room t < ws.length) →
      writeVals x l o ws [] s = .error (.lane (trapOf .engfault (BitVec.ofNat 64 q))) s)

/-- The integer arithmetic (R268, R269, R277): sums, differences, products, multiply-accumulates, quotients, remainders, minima, maxima,
absolute values and negations of each element, wrapped, or clamped where XM SAT says so, by every active thread. -/
def Obligations.IntegerArithmetic : Prop :=
  ∀ (i : Instr) (n : Nat) (f : (n : Nat) → Iss → List (BitVec n) → BitVec n), arithmetic i = some (n, f) →
    Completes i (EachLane fun x => LaneResult i n (f n x) x)

/-- Logic, shifts and moves (R270, R274, R277): every bit by the operation, shift counts taken modulo the width. Counting and reversing
bits, bit fields, byte selection and dot products (R271, R272, R275). -/
def Obligations.LogicShiftsAndBits : Prop :=
  (∀ (i : Instr) (n : Nat) (f : (n : Nat) → Iss → List (BitVec n) → BitVec n), logical i = some (n, f) →
     Completes i (EachLane fun x => LaneResult i n (f n x) x)) ∧
  ((∀ (i : Instr) (f : Iss → List (BitVec 32) → BitVec 32), bitwise i = some f → Completes i (EachLane fun x => LaneResult i 32 (f x) x)) ∧
   (∀ (i : Instr) (n : Nat) (f : (n : Nat) → List (BitVec n) → BitVec n), counts i = some (n, f) →
     Completes i (EachLane fun x => LaneResult i n (f n) x)))

/-- ICMP and ICMPI set each active lane's bit of a mask by the condition and the combine code; SEL picks one of two by a test of its
fourth operand (R273, R274, R277). -/
def Obligations.CompareAndSelect : Prop :=
  (∀ w c m a b o, Completes (.icmp w c m a b o) (EachLane (LaneCompare (.icmp w c m a b o) (elemBits w) c m o none))) ∧
  (∀ o c m a i, Completes (.icmpi o c m a i) (EachLane fun x => LaneCompare (.icmpi o c m a i) 32 c m o (some (immOf x 32 i)) x)) ∧
  (∀ w d a b t, Completes (.sel w d a b t) (EachLane (LaneSelect w d a b t)))

/-- LEA and LEAS add an offset to a handle address whose index field stays the same, LEAS's high word of the second pair not looked at
(R276); a sum that leaves the index field traps BUFBOUND with the address given. -/
def Obligations.AddressArithmetic : Prop :=
  ∀ (i : Instr) d a b used, addressSource i = some (d, a, b, used) →
    Completes i (EachLane (LaneAddress i d a b used)) ∧
    ∀ (s m : State) (x : Iss) (g : Group) (l : Nat) (h : BitVec 64) (ws : List Word), Ready s i x g → x.pos = 0 →
      x.act = [l] → x.lanes = [l] → AddressRead a b used x l s h ws m →
      (h + BitVec.ofInt 64 (offsetOf i ws)).extractLsb' 48 16 ≠ h.extractLsb' 48 16 →
      ∃ v, Back { m with groups := s.groups } x [l] v ∧ exec i s =
        .next (((v.takeTrap x.gid [(l, trapOf .bufbound h)] x.first).settleMasks x.gid).colIfBlocked x.gid)

/-- The votes (R278, R280): BALLOT, ALL, ANY, PEERS, RANK and MPOPC of the active lanes' elements, per lane, or once to a uniform
destination. -/
def Obligations.Votes : Prop :=
  ∀ (i : Instr) (n : Nat) (f : List (Nat × Nat) → Nat → BitVec 32) (o : Operand), voteOf i = some (n, f) → destOf i = some o →
    Completes i fun x s u => ∃ vs m, Gathers (VoteRead i n x) x.act s vs m ∧ JointWrites x o (fun l => [f vs l]) m u

/-- LXCH gives each lane what its source lane read, itself where that is no active lane (R279); LFOLD folds the active lanes' elements in
ascending order (R281). -/
def Obligations.ExchangeAndFold : Prop :=
  (∀ w d a b v, Completes (.lxch w d a b v) (ExchangeEffect w d a b v)) ∧
  (∀ w d a o k, Completes (.lfold w d a o k) (FoldEffect w d a o k))

/-- Floating-point sums, products, multiply-accumulates, quotients and square roots are the exact result rounded once, with the flags of
the operation and of the rounding (R246, R250, R282). Rounding (R246, R247): the code of a finite value under round to nearest even is one
of the two neighbours of the value in the format, nearest to it; a value the format holds is that value, and raises no flag. A code stands
for the value of its fields (R241); a number that a format may not hold is rounded to one of its two neighbours, by the mode the nearest
to it, the even one or the one away from zero where both are as near, the one nearer zero, the lower or the higher, with NX where it is
not the number; to nearest even it overflows from half a step above the largest number on (R246, R247); and of a value known to lie
strictly between two digits' ends only that is used. -/
def Obligations.FloatArithmetic : Prop :=
  ((∀ (i : Instr) (f : Fmt) (op : Rnd → List FX → FX × Nat), floatExact i = some (f, op) → Completes i (EachLane (LaneFloat i f (roundOnce f op)))) ∧
   (∀ (f : Fmt) (c : Nat) (rd : Rnd), f ∈ [fmtF32, fmtF16, fmtBF16, fmtF64] → c < 2 ^ f.bits → isNaNCode f c = false →
      rd.ftz = false → rd.mode ≤ 5 → rd.mode ≠ 0 → rd.sat = false →
      roundTo f (decodeF f c) rd = (c, 0))) ∧
  ((∀ (f : Fmt) (c : Nat), f ∈ [fmtF32, fmtF16, fmtBF16, fmtF64, fmtE5M2, fmtE4M3] → finiteCode f c → ∃ m e,
     decodeF f c = .num (c.testBit (f.bits - 1)) m e false ∧ smallest f ≤ e ∧ (m * 2 ^ (e - smallest f).toNat : Nat) = (fixed f c).natAbs) ∧
   (∀ (f : Fmt) (neg : Bool) (m : Nat) (e : Int) (rd : Rnd), f ∈ [fmtF32, fmtF16, fmtBF16, fmtF64, fmtE5M2, fmtE4M3] → m ≠ 0 →
     rd.ftz = false → rd.sat = false → 1 ≤ rd.mode → rd.mode ≤ 5 → RoundsTo f neg m e rd (roundTo f (.num neg m e false) rd)) ∧
   (∀ (f : Fmt) (neg : Bool) (m : Nat) (e : Int) (rd : Rnd), f ∈ [fmtF32, fmtF16, fmtBF16, fmtF64, fmtE5M2, fmtE4M3] →
     2 ^ (f.frac + 2) ≤ m → 1 ≤ rd.mode → rd.mode ≤ 5 → roundTo f (.num neg m e true) rd = roundTo f (.num neg (2 * m + 1) (e - 1) false) rd))

/-- Minima, maxima and rounding to integral values, copying the sign, comparing and classifying (R283 to R286). What FMIN, FMAX, FMINM,
FCMP, FCLASS and FRND find of codes (R242, R283 to R286): the order of numbers with −0 below +0, and beside it when they are compared;
NaNs and the flags; the ten classes; and the integral number that a mode gives. -/
def Obligations.FloatSelection : Prop :=
  ((∀ (i : Instr) (f : Fmt) (op : Rnd → List Nat → Nat × Nat), floatPick i = some (f, op) → Completes i (EachLane (LaneFloat i f op))) ∧
   (∀ w d a b, Completes (.fcpysgn w d a b) (EachLane (LaneCopySign w d a b))) ∧
   (∀ w c m a b o, Completes (.fcmp w c m a b o) (EachLane (LaneFcmp w c m a b o))) ∧
   (∀ w d a, Completes (.fclass w d a) (EachLane (LaneClass w d a)))) ∧
  (∀ (f : Fmt), f ∈ [fmtF32, fmtF16, fmtBF16, fmtF64] →
     let nan (c : Nat) : Prop := expField f c = 2 ^ f.ebits - 1 ∧ fracField f c ≠ 0
     let snan (c : Nat) : Prop := nan c ∧ c.testBit (f.frac - 1) = false
     let canon : Nat := (2 ^ f.ebits - 1) * 2 ^ f.frac + 2 ^ (f.frac - 1)
     (∀ (x y : Nat) (big prop : Bool), x < 2 ^ f.bits → y < 2 ^ f.bits →
       ((fminmax f big prop x y).2 = if snan x ∨ snan y then 16 else 0) ∧
       (nan x → nan y → (fminmax f big prop x y).1 = canon) ∧ (prop = true → (nan x ∨ nan y) → (fminmax f big prop x y).1 = canon) ∧
       (prop = false → (nan x → ¬ nan y → (fminmax f big prop x y).1 = y) ∧ (¬ nan x → nan y → (fminmax f big prop x y).1 = x)) ∧
       (¬ nan x → ¬ nan y → (fminmax f big prop x y).1 =
         if (if big then orderKey f x < orderKey f y else orderKey f y < orderKey f x) then y else x)) ∧
     (∀ (x y : Nat), x < 2 ^ f.bits → y < 2 ^ f.bits →
       let un : Prop := nan x ∨ nan y
       ∀ p ∈ [((0#3 : BitVec 3), ¬ un ∧ valueKey f x = valueKey f y, snan x ∨ snan y), (1#3, un ∨ valueKey f x ≠ valueKey f y, snan x ∨ snan y),
         (2#3, ¬ un ∧ valueKey f x < valueKey f y, un), (3#3, ¬ un ∧ valueKey f x ≤ valueKey f y, un),
         (4#3, ¬ un ∧ valueKey f y < valueKey f x, un), (5#3, ¬ un ∧ valueKey f y ≤ valueKey f x, un), (6#3, un, snan x ∨ snan y),
         (7#3, ¬ un, snan x ∨ snan y)],
         ((floatCond f p.1 x y).1 = true ↔ p.2.1) ∧ ((floatCond f p.1 x y).2 = 16 ↔ p.2.2) ∧
           ((floatCond f p.1 x y).2 = 0 ↔ ¬ p.2.2)) ∧
     (∀ x, x < 2 ^ f.bits → let neg := x.testBit (f.bits - 1)
       fclassOf f x = if snan x then 2 ^ 8 else if nan x then 2 ^ 9
         else if expField f x = 2 ^ f.ebits - 1 then (if neg then 2 ^ 0 else 2 ^ 7)
         else if expField f x ≠ 0 then (if neg then 2 ^ 1 else 2 ^ 6)
         else if fracField f x ≠ 0 then (if neg then 2 ^ 2 else 2 ^ 5) else if neg then 2 ^ 3 else 2 ^ 4) ∧
     (∀ (x : Nat) (nx : Bool) (rd : Rnd), x < 2 ^ f.bits → (nan x → frnd f nx x rd = (canon, if snan x then 16 else 0)) ∧
       (¬ nan x → ¬ finiteCode f x → frnd f nx x rd = (x, 0)) ∧
       (finiteCode f x → 1 ≤ rd.mode → rd.mode ≤ 6 → ∃ c fl y, frnd f nx x rd = (c, fl) ∧ finiteCode f c ∧
         c.testBit (f.bits - 1) = x.testBit (f.bits - 1) ∧ Integral (x.testBit (f.bits - 1)) (fixed f x).natAbs (oneOf f) rd y ∧
         (fixed f c).natAbs = y * oneOf f ∧ fl = if nx = true ∧ c ≠ x then 1 else 0)))

/-- The functions the spec bounds (R253, R254): reciprocal, reciprocal root, exponential, logarithm, sine, cosine, hyperbolic tangent,
sigmoid and error function give some result within the bound the rule states. -/
def Obligations.ApproximateFunctions : Prop :=
  ∀ (i : Instr) (f : Fmt) (ulps : Nat) (h : FX → FX × Nat) (slack : FX → Nat), approximated i = some (f, ulps, h, slack) →
    ∃ op : Rnd → List Nat → Nat × Nat, (∀ rd a, WithinBound f ulps h slack rd a (op rd [a]).1) ∧ Completes i (EachLane (LaneFloat i f op))

/-- Conversions, packings, unpackings, SCALEB and XVAL (R287 to R290): the source's value rounded to the destination's format. What
conversions to integers, PACK8, PACK4 and XVAL make of codes (R287 to R290). -/
def Obligations.Conversions : Prop :=
  ((∀ (i : Instr) (rb : Iss → Nat × Nat) (four : Iss → Option Operand) (op : Iss → Rnd → List Nat → Nat × Nat),
     (∀ x, conversion x i = some (rb x, four x, op x)) →
     Completes i (EachLane fun x => LaneConvert i (rb x) (four x) (op x) x)) ∧
   (∀ w d a b, Completes (.scaleb w d a b) (EachLane (LaneScale w d a b)))) ∧
  ((∀ (f : Fmt) (lo hi : Int) (x : Nat) (rd : Rnd), f ∈ [fmtF32, fmtF16, fmtBF16, fmtF64] → x < 2 ^ f.bits → lo ≤ 0 → 0 < hi →
     let neg := x.testBit (f.bits - 1)
     (expField f x = 2 ^ f.ebits - 1 → floatToInt f lo hi x rd = if fracField f x ≠ 0 then (0, 16) else if neg then (lo, 16) else (hi, 16)) ∧
     (finiteCode f x → 1 ≤ rd.mode → rd.mode ≤ 6 → ∃ y : Nat, Integral neg (fixed f x).natAbs (oneOf f) rd y ∧
       let v : Int := if neg then -(y : Int) else y
       floatToInt f lo hi x rd = if hi < v then (hi, 16) else if v < lo then (lo, 16)
         else (v, if (y * oneOf f : Nat) = (fixed f x).natAbs then 0 else 1))) ∧
   (∀ (x : Nat) (rd : Rnd), x < 2 ^ 32 →
     let nan : Prop := expField fmtF32 x = 255 ∧ fracField fmtF32 x ≠ 0
     let nv : Nat := if nan ∧ x.testBit 22 = false then 16 else 0
     (∀ p ∈ [(0, fmtE4M3), (1, fmtE5M2)], pack8Byte p.1 x rd = ((roundTo p.2 (decodeF fmtF32 x) rd).1, (roundTo p.2 (decodeF fmtF32 x) rd).2 ||| nv)) ∧
     (∀ p ∈ [(2, (-128 : Int), (127 : Int)), (3, 0, 255)], pack8Byte p.1 x rd =
       (((floatToInt fmtF32 p.2.1 p.2.2 x rd).1 % 256).toNat, (floatToInt fmtF32 p.2.1 p.2.2 x rd).2)) ∧
     (pack8Byte 4 x rd = if nan then (0xFF, 16) else if expField fmtF32 x = 255 then (0xFE, 4) else (expField fmtF32 x, 0)) ∧
     (∀ sc, sc < 256 → xvalOf x sc rd = if sc = 255 then (0x7F, 16) else if nan then (0x7F, nv)
       else match decodeF fmtF32 x with
         | .num neg m e st => roundTo fmtE4M3 (.num neg m (e + 127 - sc) st) rd
         | _ => if rd.sat then ((if x.testBit 31 then 128 else 0) + 0x7E, 16) else (0x7F, 16)) ∧
     (1 ≤ rd.mode → rd.mode ≤ 6 →
       let a := (fixed fmtF32 x).natAbs
       let one := oneOf fmtF32
       let neg := x.testBit 31
       (nan → pack4Code (decodeF fmtF32 x) rd = (0, 16)) ∧
       (¬ nan → (¬ finiteCode fmtF32 x ∨ 6 * one < a) → pack4Code (decodeF fmtF32 x) rd = (if neg then 15 else 7, 5)) ∧
       (∀ (j : Nat) (g : Nat), finiteCode fmtF32 x → a ≤ 6 * one →
         (j, g) ∈ [(0, 1), (1, 1), (2, 1), (3, 1), (4, 2), (5, 2), (6, 4), (7, 1)] →
         let low : Nat := [0, 1, 2, 3, 4, 6, 8, 12].getD j 0
         low * one ≤ 2 * a → 2 * a < (low + g) * one →
         let q := 2 * a - low * one
         let mag (y : Nat) : Nat := if neg ∧ y ≠ 0 then y + 8 else y
         let fl := (if q = 0 then 0 else 1) + if q ≠ 0 ∧ a < one then 2 else 0
         (upBy neg (j % 2 == 1) q (g * one) rd → pack4Code (decodeF fmtF32 x) rd = (mag (j + 1), fl)) ∧
         (¬ upBy neg (j % 2 == 1) q (g * one) rd → pack4Code (decodeF fmtF32 x) rd = (mag j, fl))))))

/-- Uniform arithmetic (R291, R292): the register takes the result, 32 bits wide, of two uniform registers or a register and an immediate;
SMOV, SMOVI and SSEL likewise. VRD and VWR move a word between a uniform register and a v register of the lane a uniform register names;
SLEA adds a scaled uniform offset to a uniform handle pair whose index field stays the same (R293, R294). -/
def Obligations.UniformInstructions : Prop :=
  ((∀ (i : Instr) d a k y f, uniformResult i = some (d, a, k, y, f) → ∀ (s : State) (x : Iss) (g : Group) (p q : BitVec 32),
     Ready s i x g → x.act ≠ [] → g.getS a.toNat = regWord p → UniformY x g k y q →
     ∃ dep t, exec i s = .next t ∧ Done i (s.setGroup x.gid (uniformWritten g d.toNat (f p q) dep)) x (fun _ => x.pc + 4#64) t) ∧
   (∀ (d b : BitVec 6) (s : State) (x : Iss) (g : Group) (p : BitVec 32), Ready s (.smov d b) x g → x.act ≠ [] → g.getS b.toNat = regWord p →
     ∃ dep t, exec (.smov d b) s = .next t ∧ Done (.smov d b) (s.setGroup x.gid (uniformWritten g d.toNat p dep)) x (fun _ => x.pc + 4#64) t) ∧
   (∀ (d : BitVec 6) (i : BitVec 9) (s : State) (x : Iss) (g : Group), Ready s (.smovi d i) x g → x.act ≠ [] →
     ∃ dep t, exec (.smovi d i) s = .next t ∧
       Done (.smovi d i) (s.setGroup x.gid (uniformWritten g d.toNat (BitVec.ofInt 32 (x.imm i)) dep)) x (fun _ => x.pc + 4#64) t) ∧
   (∀ (d a b : BitVec 6) (s : State) (x : Iss) (g : Group) (c p q : BitVec 32), Ready s (.ssel d a b) x g → x.act ≠ [] →
     g.getS d.toNat = regWord c → g.getS a.toNat = regWord p → g.getS b.toNat = regWord q →
     ∃ dep t, exec (.ssel d a b) s = .next t ∧
       Done (.ssel d a b) (s.setGroup x.gid (uniformWritten g d.toNat (if c = 0#32 then q else p) dep)) x (fun _ => x.pc + 4#64) t)) ∧
  ((∀ (d a : BitVec 6) (j : BitVec 7) (s : State) (x : Iss) (g : Group) (l v : BitVec 32), Ready s (.vrd d a j) x g → x.act ≠ [] →
     g.getS a.toNat = regWord l → g.getV (l.toNat % 32) j.toNat = regWord v →
     ∃ dep t, exec (.vrd d a j) s = .next t ∧
       Done (.vrd d a j) (s.setGroup x.gid (uniformWritten g d.toNat v dep)) x (fun _ => x.pc + 4#64) t) ∧
   (∀ (d a : BitVec 6) (j : BitVec 7) (s : State) (x : Iss) (g : Group) (l v : BitVec 32), Ready s (.vwr d a j) x g → x.act ≠ [] →
     g.getS a.toNat = regWord l → g.getS d.toNat = regWord v →
     ∃ dep t, exec (.vwr d a j) s = .next t ∧
       Done (.vwr d a j) (s.setGroup x.gid { g.setV (l.toNat % 32) j.toNat (regWord v) with vdeps := dep }) x (fun _ => x.pc + 4#64) t) ∧
   (∀ (c : BitVec 2) (d a : BitVec 6) (k : BitVec 1) (y : BitVec 9) (s : State) (x : Iss) (g : Group) (lo hi q : BitVec 32),
     Ready s (.slea c d a k y) x g → x.act ≠ [] → g.getS a.toNat = regWord lo → g.getS (a.toNat + 1) = regWord hi → UniformY x g k y q →
     let scale : Nat := if c = 0#2 then 1 else if c = 1#2 then 4 else if c = 2#2 then 8 else 16
     let h : BitVec 64 := hi ++ lo
     let off : Int := if k = 0#1 then q.toInt else x.imm y
     let r := h + BitVec.ofInt 64 (off * scale)
     r.extractLsb' 48 16 = h.extractLsb' 48 16 →
     ∃ dep t, exec (.slea c d a k y) s = .next t ∧
       Done (.slea c d a k y) (s.setGroup x.gid { (g.setS d.toNat (regWord (r.extractLsb' 0 32))).setS (d.toNat + 1)
         (regWord (r.extractLsb' 32 32)) with sdeps := dep }) x (fun _ => x.pc + 4#64) t))

/-- Loads (R298, R300 to R302, R304): LD from a handle address, LDS from scratchpad, LDU once for the entry to uniform registers, LDX from
the group's own registers by address, PREF without a result. -/
def Obligations.Loads : Prop :=
  (∀ w d p n i, CompletesLive (.ld w d p n i) (EachLane (LaneLd w d p n i))) ∧
  (∀ w d p n i, CompletesLive (.lds w d p n i) (fun x s u => (x.pos = 0 ∨ ∀ l ∈ x.act, ldsUnserved w p n i x l s = none) ∧
    EachLane (LaneLds w d p n i) x s u)) ∧
  (∀ w d p i, CompletesLive (.ldu w d p i) (Once (LduOnce w d p i))) ∧
  (∀ d p i, Completes (.ldx d p i) (fun x s u => EachLane (LaneLdx s d p i) x s u)) ∧
  (∀ p, CompletesLive (.pref p) (EachLane (LanePref p)))

/-- Stores (R298, R299, R300, R302): ST to a handle address, STS to scratchpad, STU once for the entry, STX to the group's own registers
in lane order. -/
def Obligations.Stores : Prop :=
  (∀ w d p n i, CompletesLive (.st w d p n i) (EachLane (LaneSt w d p n i))) ∧
  (∀ w d p n i, CompletesLive (.sts w d p n i) (EachLane (LaneSts w d p n i))) ∧
  (∀ w d p i, CompletesLive (.stu w d p i) (Once (StuOnce w d p i))) ∧
  (∀ d p i, Completes (.stx d p i) fun x s u => ∃ vs m, Gathers (StxRead d p i x) x.act s vs m ∧ u = stxWrites x vs m)

/-- A handle address that is not aligned to its access traps MISALIGN, one that leaves its index field BUFBOUND, both with TVAL its pair's
value; a scratchpad address likewise MISALIGN (R296, R400): LD, ST and LDS by one thread. -/
def Obligations.MisalignedAccessesTrap : Prop :=
  ∀ (s m : State) (x : Iss) (g : Group) (w : BitVec 2) (d : BitVec 7) (p : BitVec 6) (i : BitVec 9) (l : Nat) (vs : List (List Word)),
    x.act = [l] → x.lanes = [l] → x.pos = 0 →
    (Ready s (.ld w d p 0#1 i) x g → readOps x l [(oAddr p false, true)] s = .ok vs m →
      let pair := numberOf (vs.getD 0 [])
      let size : Nat := 4 * 2 ^ w.toNat
      let h := ((pair + displacement x i size) % 2 ^ 64).toNat
      h / 2 ^ 48 = pair / 2 ^ 48 → h % size ≠ 0 → ∃ v, Back { m with groups := s.groups } x [l] v ∧ exec (.ld w d p 0#1 i) s =
        .next (((v.takeTrap x.gid [(l, trapOf .misalign (BitVec.ofNat 64 h))] x.first).settleMasks x.gid).colIfBlocked x.gid)) ∧
    (Ready s (.ld w d p 0#1 i) x g → readOps x l [(oAddr p false, true)] s = .ok vs m →
      let pair := numberOf (vs.getD 0 [])
      let h := ((pair + displacement x i (4 * 2 ^ w.toNat)) % 2 ^ 64).toNat
      h / 2 ^ 48 ≠ pair / 2 ^ 48 → ∃ v, Back { m with groups := s.groups } x [l] v ∧ exec (.ld w d p 0#1 i) s =
        .next (((v.takeTrap x.gid [(l, trapOf .bufbound (BitVec.ofNat 64 pair))] x.first).settleMasks x.gid).colIfBlocked x.gid)) ∧
    (Ready s (.lds w d p 0#1 i) x g → readOps x l [(oAddr p true, false)] s = .ok vs m →
      let size : Nat := 4 * 2 ^ w.toNat
      let c := ((numberOf (vs.getD 0 []) + displacement x i size) % 2 ^ 32).toNat
      c % size ≠ 0 → ∃ v, Back { m with groups := s.groups } x [l] v ∧ exec (.lds w d p 0#1 i) s =
        .next (((v.takeTrap x.gid [(l, trapOf .misalign (BitVec.ofNat 64 c))] x.first).settleMasks x.gid).colIfBlocked x.gid))

/-- Acquiring loads and releasing stores (R131, R132, R303): the load acquires what was released to its unit at its scope; the store waits
for the group's earlier stores, and releases. -/
def Obligations.AcquireAndRelease : Prop :=
  (∀ w d p c sp i, CompletesLive (.ldacq w d p c sp i) (EachLane (LaneLdacq w d p c sp i))) ∧
  (∀ w d p c sp i, CompletesLive (.strel w d p c sp i) (EachLane (LaneStrel w d p c sp i))) ∧
  (∀ c, CompletesLive (.fence c) (EachLane (LaneFence c)))

/-- Atomics and reductions (R307 to R310): each active thread's operation is performed at the unit's place, ordered at its scope, and the
old value returned where asked for. The values atomics store (R308): sum, signed or unsigned minimum and maximum, the bit operations,
exchange, and the value of a compare-and-swap where the comparand is there, on units of 32 and 64 bits. -/
def Obligations.Atomics : Prop :=
  ((∀ (i : Instr) op d p sp f c t, atomicForm i = some (op, d, p, sp, f, c, t) → CompletesLive i (EachLane (LaneAtomic op d p sp f c t))) ∧
   (∀ w d p sp f t o, CompletesLive (.red w d p sp f t o) (EachLane (LaneRed d p sp f t o)))) ∧
  (∀ (op typ : Nat), op ≤ 7 → typ ≤ 5 → ∀ (n : Nat), n = 8 * typSize typ → ∀ old v cmp : BitVec n,
     atomicNew op typ old.toNat v.toNat cmp.toNat = (atomicValue op typ old v cmp).toNat)

/-- Range operations and publication (R101, R103, R304, R311): write back, invalidate, discard and publish, on the lines of a range.
Full/empty bits and segment ownership (R69, R91, R305, R306). -/
def Obligations.CachesAndOwnership : Prop :=
  ((∀ (i : Instr) op kind l p c, rangeForm i = some (op, kind, l, p, c) → CompletesLive i (EachLane (LaneRange op kind l p c))) ∧
   (∀ l p c, CompletesLive (.xpub l p c) (EachLane (LaneXpub l p c)))) ∧
  ((∀ p c d, CompletesLive (.setf p c d) (EachLane (LaneFull p d (some c)))) ∧
   (∀ p d, CompletesLive (.clrf p d) (EachLane (LaneFull p d none))) ∧
   (∀ d p, CompletesLive (.ownseg d p) (EachLane (LaneOwn d p))) ∧
   (∀ d p, CompletesLive (.dropseg d p) (EachLane (LaneDrop d p))))

/-- Barrier objects (R312, R313): initialised, arrived at, waited for and killed once per issue, the result to every active thread. -/
def Obligations.Barriers : Prop :=
  (∀ d p sp c, CompletesLive (.barinit d p sp c) (Once (Barinit d p sp c))) ∧
  (∀ d p sp c, CompletesLive (.bararr d p sp c) (Once (Bararr d p sp c))) ∧
  (∀ d p sp c, CompletesLive (.barwait d p sp c) fun x s u => (∀ l ∈ x.act, s.releasedWait x.gid l = none) ∧ Once (Barwait d p sp c) x s u) ∧
  (∀ d p sp c, CompletesLive (.barkill d p sp c) (Once (Barkill d p sp c)))

/-- Waits that end at once, timelines and time (R148, R316 to R318, R321): WAITADDR whose condition holds, TLWAIT that has been reached,
TLREAD, TIMEAT whose time has come, TIMERD. -/
def Obligations.WaitsAndTime : Prop :=
  (∀ w d p k sp c, CompletesLive (.waitaddr w d p k sp c) (EachLane (LaneWaitaddr w d p k sp c))) ∧
  (∀ t n d, CompletesLive (.tlwait t n d) (EachLane (LaneTlwait t n d))) ∧
  (∀ t d, CompletesLive (.tlread t d) (EachLane (LaneTlread t d))) ∧
  (∀ t, Completes (.timeat t) (EachLane (LaneTimeat t))) ∧
  (∀ d, Completes (.timerd d) (Once fun x s u =>
    writeAll x x.lanes (oOut .pair d 2) [regWord (s.gtb.extractLsb' 0 32), regWord (s.gtb.extractLsb' 32 32)] s = .ok () u))

/-- Read sections and grace periods (R154, R155, R182, R319, R320): RSECT and RSECX count the group's depth, QPASS is a quiescent point
outside sections, a col still owed is made before a section begins, GPWAIT ends with status 0 once its period has, and answers status 1
and target 0 inside a section. RSECT at depth 255, RSECX at depth 0, and QPASS inside a read section trap ILLOP with reason 0x10 (R319).
-/
def Obligations.ReadSections : Prop :=
  (Completes .rsect (Once fun x s u => ∃ g, s.group? x.gid = some g ∧ g.depth < 255 ∧ g.colDue = false ∧
     u = s.setGroup x.gid { g with depth := g.depth + 1 }) ∧
   CompletesLive .rsect (Once fun x s u => ∃ g m, s.group? x.gid = some g ∧ g.depth < 255 ∧ g.colDue = true ∧ waitRelease x.gid 2 s = .ok () m ∧
     u = (m.col x.gid).updGroup x.gid fun k => { k with depth := k.depth + 1 }) ∧
   Completes .rsecx (Once fun x s u => ∃ g, s.group? x.gid = some g ∧ g.depth ≠ 0 ∧ u = s.setGroup x.gid { g with depth := g.depth - 1 }) ∧
   CompletesLive .qpass (Once QpassEffect) ∧
   (∀ t d, CompletesLive (.gpwait t d) fun x s u => (∀ l ∈ x.act, (s.graceWait x.gid l).isSome = true) ∧
     Chain (fun l a b => ∃ r n, a.graceWait x.gid l = some (r, n) ∧
       writeVals x l (oOut .status d 1) [0#32] [] (a.acquireAt x.gid l (fun q => q == colLoc r n) 2) = .ok () b) x.act s u) ∧
   (∀ t d, CompletesLive (.gpwait t d) fun x s u => x.act ≠ [] ∧ (∀ l ∈ x.act, s.graceWait x.gid l = none) ∧
     ∃ g m, s.group? x.gid = some g ∧ g.depth ≠ 0 ∧ writeAll x x.act (oOut .comp t 2) [regWord 0#32, regWord 0#32] s = .ok () m ∧
       writeAll x x.act (oOut .status d 1) [regWord 1#32] m = .ok () u)) ∧
  (∀ (i : Instr) (s : State) (x : Iss) (g : Group), Ready s i x g → x.act ≠ [] → x.pos = 0 →
     (i = .rsect ∧ 255 ≤ g.depth ∨ i = .rsecx ∧ g.depth = 0 ∨ i = .qpass ∧ g.depth ≠ 0) →
     ∃ w v, encode i = some w ∧ Back s x x.lanes v ∧ exec i s = .next (((v.takeTrap x.gid
       (x.lanes.map (·, trapOf .illop (BitVec.ofNat 64 (w.toNat + 0x10 * 2 ^ 32)))) x.first).settleMasks x.gid).colIfBlocked x.gid))

/-- Branches, calls and returns (R172, R323 to R325): each active thread goes to its target, with its return entry kept on chip or
spilled. -/
def Obligations.Branches : Prop :=
  (∀ m p o, Transfers (.bra m p o) (BraEffect m p o)) ∧
  (∀ a, Transfers (.brx a) fun nt x s u => Chain (LaneTarget a nt x) x.act s u) ∧
  TransfersLive .call (fun nt x s u => (∀ l ∈ x.act, nt l = callTarget x ∧ SameBuffer (callTarget x) x.pc) ∧ Chain (LaneCall nt x) x.act s u) ∧
  (∀ a, TransfersLive (.callx a) fun nt x s u => Chain (LaneCallx a nt x) x.act s u) ∧
  TransfersLive .ret (fun nt x s u => Chain (LaneRet nt x) x.act s u)

/-- Masks (R326 to R329): JOIN and LEAVE by each thread, WAITM once every thread of the mask stands there, and the mask instructions of
the whole group. PRIO changes the active threads' priority (R330), NOP nothing (R332). -/
def Obligations.Masks : Prop :=
  ((∀ m, Completes (.join m) (EachLane (LaneMask m.toNat true))) ∧
   (∀ m, Completes (.leave m) (EachLane (LaneMask m.toNat false))) ∧
   (∀ m, Completes (.waitm m) fun x s u => u = s ∧ ∃ g, s.group? x.gid = some g ∧ MaskMet m.toNat x g) ∧
   (∀ (i : Instr) d f, maskValue i = some (d, f) → Completes i (Once fun x s u => Regrouped x (fun g => g.setMask d (f g)) s u)) ∧
   (∀ d a, Completes (.mset d a) (Once fun x s u => ∃ vs m, readOps x (x.lanes.headD 0) [(oIn .mset a 1, false)] s = .ok vs m ∧
     u = m.updGroup x.gid fun g => g.setMask d.toNat ((vs.getD 0 []).getD 0 0#32))) ∧
   (∀ (d a : BitVec 7), 104 ≤ d.toNat → Completes (.mmov d a) (Once fun x s u => ∃ g, s.group? x.gid = some g ∧
     u = s.setGroup x.gid (uniformWritten g (d.toNat - 104) (g.mask a.toNat) (setSDep g.sdeps (d.toNat - 104) []))))) ∧
  ((∀ n, Completes (.prio n) (EachLane (LanePrio n))) ∧ Completes .nop (fun _ s u => u = s))

/-- EXIT (R132, R332): the group's stores are visible, the active threads have exited, the others of the entry stand at the next word;
then masks settle, and the trap and the group end with their last thread. TRAP, SYSC and BKPT take their traps (R331, R338, R400): the
first two with TPC the next word and TVAL the immediate, plus 2^16 for TRAP; BKPT with TPC its first hint. -/
def Obligations.ThreadsExit : Prop :=
  (∀ (s u : State) (x : Iss) (g : Group), Ready s .exitI x g → EachLane LaneExit x s u →
     ∃ v, Left u x v ∧ exec .exitI s = .next (((v.settleMasks x.gid).colIfBlocked x.gid).afterExit x.gid)) ∧
  ((∀ (k : BitVec 16) (s : State) (x : Iss) (g : Group), Ready s (.trap k) x g → ∃ u, Done (.trap k) s x (fun _ => x.pc + 4#64) u ∧
     exec (.trap k) s = .next (u.takeTrap x.gid (x.act.map (·, trapOf .syscall (BitVec.ofNat 64 (k.toNat + 2 ^ 16)))) (x.pc + 4#64))) ∧
   (∀ (k : BitVec 16) (s : State) (x : Iss) (g : Group), Ready s (.sysc k) x g → ∃ u, Done (.sysc k) s x (fun _ => x.pc + 4#64) u ∧
     exec (.sysc k) s = .next (u.takeTrap x.gid (x.lanes.map (·, trapOf .syscall (k.setWidth 64))) (x.pc + 4#64))) ∧
   (∀ (k : BitVec 16) (s : State) (x : Iss) (g : Group), Ready s (.bkpt k) x g → x.act ≠ [] → x.pos = 0 → ∃ v, Back s x x.act v ∧
     exec (.bkpt k) s = .next (((v.takeTrap x.gid (x.act.map (·, trapOf .bkpt (k.setWidth 64))) x.first).settleMasks x.gid).colIfBlocked
       x.gid)))

/-- A trap is taken (R398 to R403): of a group outside trap mode, with a handler that can be fetched and no debugger that takes the cause,
the trap state and the entry registers say what happened, the faulting lanes of the lowest one's cause stand at the handler with priority
255, the others are held. A handler whose fetch has to wait leaves the trap pending, one whose fetch fails kills the region's work (R399).
A trap where none can be taken (R402, R404): in trap mode it is a nested trap, which is recorded and kills the region's work; without a
handler, it kills it at once. -/
def Obligations.TrapEntry : Prop :=
  (∀ (s t : State) (gid : Nat) (g : Group) (traps : NMap LaneTrap) (l0 : Nat) (t0 : LaneTrap) (tpc : DWord) (th : Thread),
     s.group? gid = some g → g.trap = none → l0 < 32 → traps.look l0 = some t0 → (∀ l < l0, traps.look l = none) →
     g.thread? l0 = some th → t0.fatal = false → (∀ r, routeRight t0.cause = some r →
       s.tableWaits (s.regionOf g) (List.range (s.dcCount (s.regionOf g))) = none ∧ s.routeOf (s.regionOf g) r = none) →
     let handler := if s.regionOf g = 0 then s.reg 0 .tvecs else s.reg 0 .tvecp
     let fetched := fetchWord { Who.thread (s.regionOf g) g.core true with queued := false } (s.viaOf g gid l0) handler s
     handler ≠ 0 →
     (∀ w, fetched = .ok w t → (∀ n, t.group? n = s.group? n) →
       let lanes := (List.range 32).filter fun l => ((traps.look l).map fun p => p.cause == t0.cause && p.sub == t0.sub && p.late == t0.late).getD false
       Entered s gid g lanes (fun l => (traps.look l).getD t0) t0 th.prio tpc (BitVec.ofNat 64 handler) (s.takeTrap gid traps tpc)) ∧
     (∀ r, fetched = .error (.stall r) t →
       s.takeTrap gid traps tpc = t.updGroup gid fun g => { g with entering := some (traps, tpc), stall := some .fetch }) ∧
     (∀ e, fetched = .error e t → (∀ r, e ≠ .stall r) → s.takeTrap gid traps tpc = t.fatalFault (s.regionOf g) t0.cause.code)) ∧
  (∀ (s : State) (gid : Nat) (g : Group) (l0 : Nat) (t0 : LaneTrap) (tpc : DWord), s.group? gid = some g → l0 < 32 →
     t0.fatal = false → routeRight t0.cause = none →
     (∀ old, g.trap = some old → s.takeTrap gid [(l0, t0)] tpc =
       (s.machineEvent (basinOf g.core) 9 (s.regionOf g) (t0.cause.code + (old.tcause.extractLsb' 0 8).toNat * 256)).fatalFault
         (s.regionOf g) t0.cause.code) ∧
     (g.trap = none → (if s.regionOf g = 0 then s.reg 0 .tvecs else s.reg 0 .tvecp) = 0 →
       s.takeTrap gid [(l0, t0)] tpc = s.fatalFault (s.regionOf g) t0.cause.code))

/-- ERET (R405): the threads that trapped and live stand at TPC with their saved priority, the held ones where they stood, and trap mode
has ended; a TPC of zero kills the region's work with the trap's cause, a misaligned one is a nested trap; outside trap mode it traps
ILLOP. -/
def Obligations.TrapReturn : Prop :=
  (∀ (s : State) (x : Iss) (g : Group) (ts : Trap), Ready s .eret x g → g.trap = some ts → ts.tpc ≠ 0#64 → ts.tpc.toNat % 4 = 0 →
    ∃ k, Returned g ts k ∧ exec .eret s = .next (s.setGroup x.gid k)) ∧
  (∀ (s : State) (x : Iss) (g : Group) (ts : Trap), Ready s .eret x g → g.trap = some ts → ts.tpc = 0#64 →
    exec .eret s = .next (s.fatalFault (s.regionOf g) (ts.tcause.extractLsb' 0 8).toNat)) ∧
  (∀ (s : State) (x : Iss) (g : Group) (ts : Trap), Ready s .eret x g → g.trap = some ts → ts.tpc ≠ 0#64 → ts.tpc.toNat % 4 ≠ 0 →
    (∃ l p, l < 32 ∧ g.thread? l = some p ∧ ts.tmask.getLsbD l = true ∧ p.exited = false) →
    exec .eret s = .next ((s.machineEvent (basinOf g.core) 9 (s.regionOf g) (2 + (ts.tcause.extractLsb' 0 8).toNat * 256)).fatalFault
      (s.regionOf g) 2)) ∧
  (∀ (s : State) (x : Iss) (g : Group), Ready s .eret x g → g.trap = none → x.act ≠ [] → x.pos = 0 →
    ∃ w v, encode .eret = some w ∧ Back s x x.lanes v ∧ exec .eret s = .next (((v.takeTrap x.gid
      (x.lanes.map (·, trapOf .illop (BitVec.ofNat 64 (w.toNat + 0x10 * 2 ^ 32)))) x.first).settleMasks x.gid).colIfBlocked x.gid))

/-- CSRR, CSRW, CSRS and CSRC (R334, R335): uniform registers take a CSR's value; a CSR that may be written takes the operand, or has its
bits set or cleared, and the old value comes back. What CSRs read as (R335, R336): FPCTL, FPSTAT, the GTB, the part's words 0x010 to
0x013, the group's place and level, and the trap state, which reads 0 and takes no write outside trap mode; and what writes of FPCTL,
FPSTAT and TPC leave. -/
def Obligations.SpecialRegisters : Prop :=
  ((∀ d c, Completes (.csrr d c) (Once (CsrRead d c))) ∧
   (∀ (i : Instr) d c f back, csrUpdate i = some (d, c, f, back) → Completes i (Once (CsrWrite d c f back)))) ∧
  ((∀ (s : State) (gid : Nat) (g : Group),
     s.csrValue gid g 0x000 = g.fpctl.toNat ∧ s.csrValue gid g 0x001 = g.fpstat.toNat ∧ s.csrValue gid g 0x030 = s.gtb.toNat ∧
     s.csrValue gid g 0x011 = 0 ∧ s.csrValue gid g 0x012 = 0 ∧ s.csrValue gid g 0x013 = 22 * 2 ^ 24 + 4 * 2 ^ 16 ∧
     (s.csrValue gid g 0x010).testBit 0 = s.full ∧ (s.csrValue gid g 0x010).testBit 1 = !s.full ∧
     s.csrValue gid g 0x031 = g.core + (if s.levelOf g = 0 then 0 else g.pipe / 16 * 2 ^ 7 + g.pipe % 16 * 2 ^ 10 + g.slot * 2 ^ 14) ∧
     s.csrValue gid g 0x044 = s.levelOf g + (if g.trap.isSome then 4 else 0) ∧
     (g.trap = none → ∀ c ∈ [0x040, 0x041, 0x042, 0x043], s.csrValue gid g c = 0 ∧ (c = 0x041 → csrWritable g c = false)) ∧
     (∀ t, g.trap = some t → s.csrValue gid g 0x040 = t.tcause.toNat ∧ s.csrValue gid g 0x041 = t.tpc.toNat ∧
       s.csrValue gid g 0x042 = t.tval.toNat ∧ s.csrValue gid g 0x043 = t.tmask.toNat ∧ csrWritable g 0x041 = true)) ∧
   (∀ (s : State) (gid v : Nat) (g : Group), s.group? gid = some g →
     (∃ k, (s.csrWrite gid 0x000 v).group? gid = some k ∧ k = { g with fpctl := k.fpctl } ∧
       k.fpctl.getLsbD 4 = v.testBit 4 ∧ (∀ b, 8 ≤ b → b < 13 → k.fpctl.getLsbD b = v.testBit b) ∧
       (∀ b < 32, (b = 3 ∨ 5 ≤ b ∧ b < 8 ∨ 13 ≤ b) → k.fpctl.getLsbD b = false) ∧
       (k.fpctl.extractLsb' 0 3).toNat = if v % 8 ∈ [0, 6, 7] then 1 else v % 8) ∧
     (∃ k, (s.csrWrite gid 0x001 v).group? gid = some k ∧ k = { g with fpstat := BitVec.ofNat 32 (v % 32) }) ∧
     (∀ t, g.trap = some t → ∃ k, (s.csrWrite gid 0x041 v).group? gid = some k ∧
       k = { g with trap := some { t with tpc := BitVec.ofNat 64 v } })))

/-- The system instructions at the level that may run them (R38, R39, R52 to R55, R60, R333, R338 to R340, R437): ROLE, PSTAT, HALT,
BTINV, TFENCE, CTXSV and CTXLD. The privileged instructions at program level trap ILLOP with reason 0x10 for every thread of the entry
(R333). -/
def Obligations.SystemInstructions : Prop :=
  ((∀ d a, CompletesLive (.role d a) (Once (RoleEffect d a))) ∧
   (∀ d sel, Completes (.pstat d sel) (Once (PstatEffect d sel))) ∧
   Completes .halt (Once HaltEffect) ∧
   (∀ d c l, CompletesLive (.btinv d c l) (Once (BtinvEffect d c l))) ∧
   (∀ d c l k, CompletesLive (.tfence d c l k) (Once (TfenceEffect d c l k))) ∧
   (∀ d, CompletesLive (.ctxsv d) (Once (CtxsvEffect d))) ∧
   (∀ d, CompletesLive (.ctxld d) (Once (CtxldEffect d)))) ∧
  (∀ (i : Instr) (s : State) (x : Iss) (g : Group) (w : BitVec 32), supervisorOnly i = true → Ready s i x g → x.act ≠ [] → x.pos = 0 →
     s.levelOf g = 0 → encode i = some w → ∃ v, Back s x x.lanes v ∧ exec i s = .next (((v.takeTrap x.gid
       (x.lanes.map (·, trapOf .illop (BitVec.ofNat 64 (w.toNat + 0x10 * 2 ^ 32)))) x.first).settleMasks x.gid).colIfBlocked x.gid))

/-- Hints (R224 to R227): XW, XH and XM move every thread of the entry to the next word, which then finds them with the hints before. -/
def Obligations.Hints : Prop :=
  ∀ (i : Instr) (s : State) (x : Iss) (g : Group) (th : Thread) (h h' : Hint), s.issuer = some (x.gid, g, x.lanes) →
    s.issueOf x.gid g x.lanes = x → g.thread? (x.lanes.headD 0) = some th →
    h = th.hint.getD { first := x.pc, xh := none, xm := none, xw := [] } → i.isHint = true → hintOf i h = some h' →
    hintBad i h g.window = none → s.failedLanes x.gid x.lanes = [] → s.watchHit (s.regionOf g) x.pc.toNat 4 2 = none →
    ∃ t, exec i s = .next t ∧ HintTaken s x h' t

/-- Commands of the matrix engine (R346 to R366): WLOAD, WSWAP, ACLR and MXRES by the entry, MMA, MMAX and AST with the active threads'
handles, each queued and numbered; ARD, AWR and MXCFG while the engine stands idle; MXSTAT. -/
def Obligations.MatrixCommands : Prop :=
  (∀ t d b c, CompletesLive (.wload t d b c) (Once fun x => QueuedMatrix x x.lanes c (WloadMade t d b x))) ∧
  (∀ c, CompletesLive (.wswap c) (Once fun x => QueuedMatrix x x.lanes c (PlainMade .wswap x))) ∧
  (∀ c, CompletesLive (.aclr c) (Once fun x => QueuedMatrix x x.lanes c (PlainMade .aclr x))) ∧
  (∀ a c, CompletesLive (.aclrRows a c) (Once fun x => QueuedMatrix x x.lanes c (RowsMade a x))) ∧
  (∀ c, CompletesLive (.mxres c) (Once fun x => QueuedMatrix x x.lanes c (ResumeMade x))) ∧
  (∀ h v sc c, CompletesLive (.mma h v sc c) (StreamIssue .mma h v sc c fun _ _ _ => 0)) ∧
  (∀ h v sc c, CompletesLive (.mmax h v sc c) (StreamIssue .mmax h v sc c fun _ _ _ => 0)) ∧
  (∀ h v sc c, CompletesLive (.ast h v sc c) (StreamIssue .ast h v sc c drainMode)) ∧
  (∀ d i, CompletesLive (.ard d i) (EachLane (LaneArd d i))) ∧
  (∀ d i, CompletesLive (.awr d i) (EachLane (LaneAwr d i))) ∧
  (∀ a, CompletesLive (.mxcfg a) (Once (MxcfgEffect a))) ∧
  (∀ sel d, CompletesLive (.mxstat sel d) (Once (MxstatEffect sel d)))

/-- Streams (R374 to R377): STRM binds a stream, STRQ reads a queue's state and STRQ.end ends its stream. -/
def Obligations.Streams : Prop :=
  (∀ q b c, CompletesLive (.strm q b c) (Once (StrmEffect q b c))) ∧
  (∀ q d, CompletesLive (.strq q d) (Once (StrqEffect q d))) ∧
  (∀ q, CompletesLive (.strqEnd q) (Once (StrqEndEffect q))) ∧
  (∀ (x : Iss) (q : Nat) (s u : State), StreamEnds x q s u → endStream x q s = .ok () u)

/-- Copies and records of commands (R369 to R373, R378 to R383): the copies queue commands; CPST reads the record of a command. -/
def Obligations.Copies : Prop :=
  (∀ (i : Instr) kind b v c, copyForm i = some (kind, b, v, c) → CompletesLive i (Once (CopyIssue i kind b v c))) ∧
  (∀ d n t, CompletesLive (.cpst d n t) (Once (CpstEffect d n t)))

/-- Doorbells, near-memory commands, launches, tasks and collectives (R384, R387 to R397): each is read, checked and queued, or answered
with the status that refuses it. -/
def Obligations.CommandsToTheRest : Prop :=
  (∀ h v c, CompletesLive (.dbw h v c) (Once (DoorbellIssue h v c 1))) ∧
  (∀ h v c, CompletesLive (.dbwX2 h v c) (Once (DoorbellIssue h v c 2))) ∧
  (∀ b w c, CompletesLive (.nmc b w c) (Once (NmcIssue b w c))) ∧
  (∀ p st c, CompletesLive (.launch p st c) (Once (LaunchEffect p st c))) ∧
  (∀ p r c, CompletesLive (.tpost p r c) (Once (PostEffect false p r c))) ∧
  (∀ p r c, CompletesLive (.defer p r c) (Once (PostEffect true p r c))) ∧
  (∀ i st c, CompletesLive (.tjoin i st c) (Once (TjoinEffect i st c))) ∧
  (∀ b c, CompletesLive (.coll b c) (Once (CollEffect b c))) ∧
  (∀ a c, CompletesLive (.cabort a c) (Once (CabortEffect a c))) ∧
  (∀ a d, CompletesLive (.cstat a d) (Once (CstatEffect a d)))

/-- What register instructions leave alone (R5, R263, R268, R282): memory, every v register but the destination's of the active lanes,
every uniform register but the destination's, masks, control and trap state; comparisons change no register and of the masks only the bits
of the active lanes. -/
def Obligations.RegisterFrame : Prop :=
  (∀ (i : Instr) (n : Nat) (f : (n : Nat) → Iss → List (BitVec n) → BitVec n), arithmetic i = some (n, f) ∨ logical i = some (n, f) →
    KeepsRegisters i false (EachLane fun x => LaneResult i n (f n x) x)) ∧
  (∀ (i : Instr) (f : Iss → List (BitVec 32) → BitVec 32), bitwise i = some f →
    KeepsRegisters i false (EachLane fun x => LaneResult i 32 (f x) x)) ∧
  (∀ (i : Instr) (n : Nat) (f : (n : Nat) → List (BitVec n) → BitVec n), counts i = some (n, f) →
    KeepsRegisters i false (EachLane fun x => LaneResult i n (f n) x)) ∧
  (∀ (i : Instr) (f : Fmt) (op : Rnd → List FX → FX × Nat), floatExact i = some (f, op) →
    KeepsRegisters i true (EachLane (LaneFloat i f (roundOnce f op)))) ∧
  (∀ (i : Instr) (f : Fmt) (op : Rnd → List Nat → Nat × Nat), floatPick i = some (f, op) →
    KeepsRegisters i true (EachLane (LaneFloat i f op))) ∧
  (∀ w c m a b o, KeepsMasks (.icmp w c m a b o) m false (EachLane (LaneCompare (.icmp w c m a b o) (elemBits w) c m o none))) ∧
  (∀ o c m a i, KeepsMasks (.icmpi o c m a i) m false
    (EachLane fun x => LaneCompare (.icmpi o c m a i) 32 c m o (some (immOf x 32 i)) x)) ∧
  (∀ w c m a b o, KeepsMasks (.fcmp w c m a b o) m true (EachLane (LaneFcmp w c m a b o)))

/-- What a store changes (R5, R90, R299): of scratchpad STS changes the bytes at its address and no other, no register and nothing in main
memory; a store to system-core memory changes the bytes at its physical address and no other, of no scratchpad any; a store that hits a
line this core may write, in whose stack no re-encryption is due (R123), changes the line's bytes at its offset and no other line's. A
load reads what was stored (R5, R90, R129): in system-core memory that is not poisoned, in scratchpad, and in a line that the core may
write, which holds no poison, in whose banks no error stands (R76) and in whose stack no re-encryption is due (R123). -/
def Obligations.StoreFrame : Prop :=
  ((∀ (w : BitVec 2) (d : BitVec 7) (p : BitVec 6) (n : BitVec 1) (i : BitVec 9) (s u : State) (x : Iss) (g : Group) (l : Nat)
       (vs : List (List Word)) (m : State) (c : Nat) (at_ : ScrAt), Inv s → Ready s (.sts w d p n i) x g → x.act = [l] → x.pos = 0 →
     LaneSts w d p n i x l s u → Live x u →
     readOps x l [(oIn .store d (memN w n), false), (oAddr p true, false)] s = .ok vs m →
     ScratchAt (numberOf (vs.getD 1 [])) (displacement x i (accessBytes w n)) (accessBytes w n) c →
     scrResolve g.wg c (accessBytes w n) m = .ok at_ m →
     ∃ t k, exec (.sts w d p n i) s = .next t ∧ t.mem.bytes = s.mem.bytes ∧
       (∀ v a, cellGet (t.scr v) a = if v = at_.wg then byteAfter (s.scr v) at_.addr (storedBytes (accessBytes w n) (vs.getD 0 [])) a
         else cellGet (s.scr v) a) ∧
       t.group? x.gid = some k ∧ k.regs = g.regs ∧ k.sregs = g.sregs ∧ k.masks = g.masks) ∧
   (∀ (v : Via) (q : Xlat) (bs : List Byte) (s u : State), Inv s → targetOf q.pa = .sysmem → storeAt v q bs s = .ok () u →
     (∀ a, cellGet u.mem.bytes a = byteAfter s.mem.bytes q.pa bs a) ∧ u.wgs = s.wgs ∧ u.cores = s.cores) ∧
   (∀ (c l off region gid : Nat) (bs : List Byte) (s u : State) (y : CchLine), off + bs.length ≤ 128 →
     (isHbmKey (lineKey l) = true → (s.seal (stackOf (lineKey l))).reenc = []) →
     homeOf (lineKey l) = basinOf c → s.watched l = false → (s.core c).cch.look l = some y → y.state = .modified →
     cchStore c l off bs region gid s = .ok () u → u.mem = s.mem ∧ u.wgs = s.wgs ∧
       (∀ k, k ≠ c → u.core k = s.core k) ∧ (∀ k, k ≠ l → (u.core c).cch.look k = (s.core c).cch.look k) ∧
       ∃ z, (u.core c).cch.look l = some z ∧ z.state = .modified ∧
         ∀ b < 128, z.data.extractLsb' (8 * b) 8 = if off ≤ b ∧ b < off + bs.length then bs.getD (b - off) 0#8 else y.data.extractLsb' (8 * b) 8)) ∧
  ((∀ (v w : Via) (q : Xlat) (bs : List Byte) (s u : State), Inv s → targetOf q.pa = .sysmem → q.por = false → q.badKey = false → bs ≠ [] →
     s.rangeBad q.pa bs.length = false → storeAt v q bs s = .ok () u → loadAt w q bs.length u = .ok (bs, false) u) ∧
   (∀ (w v : Nat) (a : ScrAt) (bs : List Byte) (s t u : State) (r : List Byte × Bool), Inv s → (s.wgs.look a.wg).isSome = true →
     scrStore w a bs s = .ok () t → scrLoad v a bs.length t = .ok r u → r.1 = bs) ∧
   (∀ (c l off region gid r : Nat) (bs : List Byte) (s u : State) (y : CchLine), off + bs.length ≤ 128 →
     (isHbmKey (lineKey l) = true → (s.seal (stackOf (lineKey l))).reenc = []) →
     homeOf (lineKey l) = basinOf c → s.watched l = false → (s.core c).cch.look l = some y → y.state = .modified → y.poison = 0#128 → y.badW = 0#32 →
     (s.core c).soft = [] → cchStore c l off bs region gid s = .ok () u → cchLoad c l off bs.length r u = .ok (bs, false) u))

/-- Translation at work: buffer table entries and walks fill the caches (R33, R465), frames gain and lose their execute flag (R99), lines
are fetched and published by force (R100, R102). -/
def Obligations.TranslationEvents : Prop :=
  (∀ (c r i e : Nat) (s t : State), c < 88 → 0 < i → i ≤ s.btCount r → (s.core c).bte.look (bteKey (s.ptRoot r) (s.btBase r) i) = none →
    bteOf { Who.thread r c true with queued := false } i (i * 2 ^ 48) s = .ok e t →
    exec (.bteFetch c r i) s = .next t ∧ ((t.core c).bte.look (bteKey (s.ptRoot r) (s.btBase r) i)).map (·.toNat) = some e) ∧
  (∀ (b : Nat) (s : State) (q : Walk), (s.basin b).walks.find? (fun p => !p.started) = some q →
    ((s.basin b).walks.filter (·.started)).length < 64 → exec (.walkStart b) s = .next (s.updBasin b fun x => { x with
      walks := x.walks.map fun (p : Walk) => if p.root = q.root ∧ p.vpn = q.vpn then { p with started := true } else p })) ∧
  (∀ (b : Nat) (s t : State) (q : Walk), (s.basin b).walks.find? (fun p => p.started && !p.failed) = some q →
    walkBody (q.who b) q s = .ok () t → ∃ u, exec (.walkComplete b) s = .next u ∧ u = t.setBasin b (u.basin b) ∧
      u.basin b = { t.basin b with walks := (u.basin b).walks } ∧
      ∀ p : Walk, p ∈ (u.basin b).walks ↔ p ∈ (t.basin b).walks ∧ ¬(p.root = q.root ∧ p.vpn = q.vpn)) ∧
  (∀ (n : Nat) (s t : State) (g : Group) (l : Nat) (ls : List Nat) (p : Thread) (w : Word), s.group? n = some g → s.entry g = l :: ls →
    g.thread? l = some p → fetchWord { s.whoOf g with queued := false } (s.viaOf g n l) p.pc.toNat s = .ok w t →
    exec (.ifetchMiss n) s = .next t) ∧
  (∀ (f : Nat) (s : State), ∃ t, exec (.xframeSet f) s = .next t ∧ t = s.setMem { s.mem with xf := t.mem.xf } ∧
    ∀ l, l ∈ t.mem.xf ↔ l ∈ s.mem.xf ∨ l ∈ frameLines f) ∧
  (∀ (f : Nat) (s : State), ∃ t, exec (.xframeClear f) s = .next t ∧
    t = s.setMem { s.mem with xf := t.mem.xf, dx := t.mem.dx, pub := t.mem.pub } ∧
    (∀ l, l ∈ t.mem.xf ↔ l ∈ s.mem.xf ∧ l ∉ frameLines f) ∧ (∀ l, l ∈ t.mem.dx ↔ l ∈ s.mem.dx ∧ l ∉ frameLines f) ∧
    ∀ l, t.mem.pub.look l = if l ∈ frameLines f then none else s.mem.pub.look l) ∧
  (∀ (l : Nat) (s t : State), l ∈ s.mem.dx → (s.mem.dx.filter fun k => l2Line k == l2Line l) = [l] → publishLine l none s = .ok () t →
    exec (.dxForcedPublish l) s = .next (t.updBasin (homeOf (lineKey l)) fun x => { x with dxForced := x.dxForced + 1 }) ∧
    t.mem.pub.look l = none ∧ ∀ c, (t.core c).icache.look l = none)

/-- Page faults at work (R35 to R37): a record waits for room and is written with its sequence number and its interrupt; a response
retries or fails everything that the record parked. -/
def Obligations.PageFaultEvents : Prop :=
  (∀ (b : Nat) (s : State) (r : PfRec), (s.basin b).pfq.find? (fun r => r.seq.isNone) = some r → (s.reg b .pfqbase).testBit 63 = true →
    let put := s.reg b .pfqptr % 2 ^ 32
    let take := s.reg b .pfqptr / 2 ^ 32 % 2 ^ 32
    (put + 2 ^ 32 - take) % 2 ^ 32 < 4096 →
    let r' : PfRec := { r with seq := some (put % 2 ^ 16) }
    let s1 := s.updBasin b fun x => { x with pfq := x.pfq.map fun (q : PfRec) => if q.id = r.id then r' else q }
    ∃ s2, s2 = s1.setBasin b (s2.basin b) ∧ s2.reg b .pfqptr = (put + 1) % 2 ^ 32 + take * 2 ^ 32 ∧
      (∀ k, k ≠ .pfqptr → s2.reg b k = s1.reg b k) ∧ exec (.pageFaultRecord b) s = .next ((s2.pfWrite b r').raiseIrq b 0)) ∧
  (∀ (b q : Nat) (s : State) (r : PfRec), s.pfFind b q = some r →
    exec (.pfqrespRetry b q) s = .next (((s.unparkThreads r.id false).unparkEngines r.id false).pfAnswer b r 3) ∧
    exec (.pfqrespFail b q) s = .next (((s.unparkThreads r.id true).unparkEngines r.id true).pfAnswer b r 4)) ∧
  (∀ (s : State) (id n l : Nat) (fail : Bool) (p : Thread), s.thread? n l = some p → (s.unparkThreads id fail).thread? n l =
    some (match p.park with
      | some (k, trap) => if k = id then { p with park := none, failed := if fail then some trap else p.failed } else p
      | none => p)) ∧
  (∀ (b q : Nat) (s : State), s.pfFind b q = none → exec (.pfqrespRetry b q) s = .next (s.setReg b .pfqresp (2 ^ 61)) ∧
    exec (.pfqrespFail b q) s = .next (s.setReg b .pfqresp (2 ^ 61))) ∧
  (∀ (b : Nat) (s : State), exec (.pfqrespClearErr b) s = .next (s.setReg b .pfqresp 0) ∧
    exec (.pfqrespIgnored b) s = .next (s.setReg b .pfqresp (2 ^ 61)))

/-- The strath pool at work (R50, R56, R57, R65, R77, R78, R200): initialisation, wakes, drains and clears of banks, moves of windows and
segments, scrubbing, and the compaction of a glen. -/
def Obligations.PoolEvents : Prop :=
  (∀ (c : Nat) (s : State), exec (.pinitStart c) s = .next (s.updCore c fun k => { k with busy := k.busy || !k.ready })) ∧
  (∀ (c : Nat) (s : State), (s.core c).busy = true → ∃ t, exec (.poolInitDone c) s = .next t ∧ t = s.setCore c (t.core c) ∧
    t.core c = { s.core c with busy := false, ready := true, moveCount := 0, ceCount := 0, banks := (t.core c).banks } ∧
    (∀ b < 80, (t.bank c b).role = if b % 10 < 7 then .reg else .scr) ∧ (∀ b, 80 ≤ b → b < 88 → (t.bank c b).role = .mxs) ∧
    (∀ b, 88 ≤ b → b < 92 → (t.bank c b).role = .scr) ∧ (∀ b, 92 ≤ b → b < 96 → (t.bank c b).role = .cch) ∧
    ∀ b < 96, (t.bank c b).region = 0) ∧
  (∀ (c b : Nat) (s : State), (s.bank c b).role = .trn → (s.bank c b).outgoing = .off →
    exec (.bankWake c b) s = .next (s.updBank c b fun x => { x with drained := true })) ∧
  (∀ (c b : Nat) (s : State), (s.bank c b).role = .trn → s.bankDrained c b = true → ∃ t, exec (.bankClear c b) s = .next t ∧
    t = s.setCore c (t.core c) ∧
    t.bank c b = { role := (s.bank c b).incoming, region := (s.bank c b).region, outgoing := .off, incoming := .off, drained := false } ∧
    ∀ k, k ≠ b → t.bank c k = s.bank c k) ∧
  (∀ (c : Nat) (s : State) (m : Move) (g : Group), (s.nextMoves c).find? s.movable = some m → s.group? m.group = some g →
    (s.liveOn c).any (fun p => p.1 == m.group) = true →
    (g.paused = false → exec (.windowMove c) s = .next (s.setGroup m.group
      { g with paused := true, threads := g.threads.map fun (p : Nat × Thread) => (p.1, { p.2 with latches := [] }) })) ∧
    (g.paused = true → exec (.windowMove c) s = .next
      ((s.setGroup m.group { g with slabs := m.dest, paused := false, moves := g.moves + 1 }).updCore c fun k =>
        { k with moves := k.moves.erase m, moveCount := min 0xFFFF (k.moveCount + 1), compact := k.compact.erase (g.pipe / 16) }))) ∧
  (∀ (c : Nat) (s : State) (m : SegMove) (ms : List SegMove) (w : Workgroup), (s.core c).segMoves = m :: ms →
    s.wgs.look m.wg = some w → w.core = c → w.saved = .resident → (w.segMap.look m.seg).isSome = true →
    ∃ t v, exec (.segmentMove c) s = .next t ∧ t.wgs.look m.wg = some v ∧ v = { w with segMap := w.segMap.set m.seg m.dest, poisonW := v.poisonW } ∧
      (∀ n, n ≠ m.wg → t.wgs.look n = s.wgs.look n) ∧ (t.core c).segMoves = ms ∧ t.mem = s.mem ∧ t.groups = s.groups ∧
      ∀ k, k ≠ c → t.core k = s.core k) ∧
  (∀ (c b : Nat) (s : State), (s.bank c b).role = .trn → (s.bank c b).outgoing = .cch → exec (.cchBankDrain c b) s = .next
    ((((s.core c).cch.filter fun p => p.2.bank == b).foldl (fun s p => s.evict c p.1) s).updBank c b fun x => { x with drained := true })) ∧
  (∀ (c b w : Nat) (s : State), (s.bank c b).role ∈ [.scr, .cch, .mxs] →
    let key := 32768 * b + w
    ((s.core c).soft.look key = none → exec (.patrolScrub c b w) s = .next s) ∧
    ((s.core c).soft.look key = some 1 → exec (.patrolScrub c b w) s = .next (s.updCore c fun k =>
      { k with soft := k.soft.del key, ceCount := min 0xFFFFFFFF (k.ceCount + 1) })) ∧
    (∀ n, n ≠ 1 → (s.core c).soft.look key = some n → exec (.patrolScrub c b w) s =
      .next ((s.updCore c fun k => { k with soft := k.soft.del key }).poisonBankWord c b w))) ∧
  (∀ (c g n : Nat) (s : State), (s.core c).sliding.look g = none → (s.compactable c).find? (fun p => p.1 == g) = some (g, n) →
    (let a : Slide := { want := n, rest := (s.windowsIn c g).map (·.1), moved := 0 }
    exec (.glenCompaction c g) s = .next (s.updCore c fun k => { k with sliding := k.sliding.set g a }))) ∧
  (∀ (c g : Nat) (a : Slide) (s : State), (s.core c).sliding.look g = some a → (∀ m ∈ (s.core c).moves, s.moveGlen m ≠ some g) →
    exec (.glenCompaction c g) s = .next (s.slide c g a))

/-- Coherence at the homes (R84 to R86, R90, R91, R309): misses, atomics, write-backs and recalls of lines, operations and transfers of
scratchpad segments. -/
def Obligations.CoherenceEvents : Prop :=
  (∀ (c l : Nat) (s t : State) (d : BitVec 1024 × BitVec 128), c < 88 → coherentLine l = true → homeLoadMiss c l 0 s = .ok d t →
    exec (.homeLoadMiss c l) s = .next t) ∧
  (∀ (c l : Nat) (s t : State) (r : Bool), c < 88 → coherentLine l = true → homeStoreMiss c l 0 s = .ok r t →
    exec (.homeStoreMiss c l) s = .next t) ∧
  (∀ (c l op typ : Nat) (s t : State) (r : Bool), c < 88 → coherentLine l = true → op ≤ 5 → typ ≤ 5 → (4 ≤ typ → op = 0) →
    homeRedMiss c l 0 op typ s = .ok r t → exec (.homeRedMiss c l op typ) s = .next t) ∧
  (∀ (c key op typ v k : Nat) (s m m1 t : State) (old : List Byte), c < 88 → coherentLine (lineOf key) = true → op ≤ 7 → typ ≤ 5 →
    key % typSize typ = 0 → atHome (basinOf c) (lineOf key) true 0 s = .ok () m →
    backBytes (basinOf c) (lineOf key) (key % 128) (typSize typ) m = .ok (old, false) m1 →
    backWrite (basinOf c) (lineOf key) (key % 128) (natToBytes (typSize typ) (atomicNew op typ (bytesToNat old) v k)) false m1 = .ok () t →
    exec (.homeAtomic c key op typ v k) s = .next t) ∧
  (∀ (c l : Nat) (s : State) (x : CchLine), (s.core c).cch.look l = some x → (x.state = .modified ∨ x.state = .update) →
    exec (.writeBack c l) s = .next (s.evict c l)) ∧
  (∀ (c l : Nat) (s : State), ∃ t, exec (.recall c l) s = .next t ∧ (t.core c).cch.look l = none) ∧
  (∀ (w a op typ v k : Nat) (s m : State) (at_ : ScrAt), op ≤ 8 → typ ≤ 5 → (4 ≤ typ → op = 0 ∨ op = 8) → a % typSize typ = 0 →
    scrResolve w (0xFF000000 + a % 2 ^ 24) (typSize typ) s = .ok at_ m →
    (op = 8 → exec (.shuOperation w a op typ v k) s = .next (m.scrWrite at_ (natToBytes (typSize typ) v))) ∧
    (∀ r t, op ≠ 8 → scrAtomic at_ op typ v k m = .ok r t → exec (.shuOperation w a op typ v k) s = .next t)) ∧
  (∀ (w seg r : Nat) (s : State) (v : Workgroup), s.wgs.look w = some v → (v.dirOf seg).moving = some r →
    exec (.segmentTransfer w seg) s = .next (s.setSeg w seg { owner := r, holders := 0#24, moving := none }))

/-- Leases at work (R92 to R98): a lease is asked for, released, or ends with its time; an agent beyond its guard band gives up what it
holds; entries of lapses are cleared. -/
def Obligations.LeaseEvents : Prop :=
  (∀ (b l w : Nat) (s t : State) (r : Bool), b < 4 → coherentLine l = true → homeOf (lineKey l) ≠ b →
    leaseRequest b l (w != 0) 0 s = .ok r t → exec (.leaseRequest b l w) s = .next t) ∧
  (∀ (h l : Nat) (s : State), h < 4 → homeOf (lineKey l) ≠ h → ∃ t, exec (.leaseReleaseRequest h l) s = .next t ∧
    exec (.leaseRelease h l) s = .next t ∧ t = s.holderRelease h l ∧ (t.basin h).rdc.look l = none ∧
    ∀ g ∈ (t.basin (homeOf (lineKey l))).leases, ¬(g.hclass = 1 ∧ g.holder = h ∧ g.line = l)) ∧
  (∀ (h l : Nat) (s : State), 2 ^ 20 ≤ h → exec (.leaseRelease h l) s = .next (s.updBasin (homeOf (lineKey l)) fun x => { x with
    leases := x.leases.filter fun g => !(g.hclass == 4 && g.holder == h - 2 ^ 20 && g.line == l) })) ∧
  (∀ (b l : Nat) (s : State) (r : RdcLine), (s.basin b).rdc.look l = some r → homeOf (lineKey l) ≠ b → r.expiry ≤ s.time →
    exec (.holderLeaseExpiry b l) s = .next (s.loseLine b l)) ∧
  (∀ (b l : Nat) (s : State) (g : Lease), (s.basin b).leases = [g] → g.line = l → homeOf (lineKey l) = b → s.homeEnd b g ≤ s.time →
    let u := s.updBasin b fun x => { x with leases := [] }
    exec (.homeLeaseExpiry b l) s = .next (if g.write then u.lapse b g else u)) ∧
  (∀ (b u : Nat) (s : State), b < 4 → u ≤ s.reg b .lguard % 2 ^ 14 →
    exec (.leaseDrift b u) s = .next (s.updBasin b fun x => { x with uncert := u })) ∧
  (∀ (b u : Nat) (s : State), b < 4 → s.reg b .lguard % 2 ^ 14 < u → (s.basin b).rdc = [] →
    exec (.leaseDrift b u) s = .next ((s.updBasin b fun x => { x with uncert := u }).machineEvent b 1 0 (min u (2 ^ 64 - 1)))) ∧
  (∀ (b k : Nat) (s : State), exec (.lapseEntryClear b k) s = .next (s.updBasin b fun x => { x with lapses := x.lapses.del k })) ∧
  (∀ (b : Nat) (s : State), ∃ t, exec (.lapsectlClear b) s = .next t ∧ t = s.setBasin b (t.basin b) ∧
    (t.basin b).lapses = (s.basin b).lapses ∧ (t.basin b).lapsers = (s.basin b).lapsers ∧ (t.reg b .lapsectl).testBit 63 = false ∧
    ∀ k, k ≠ .lapsectl → t.reg b k = s.reg b k)

/-- Stacks, expanders and sealed storage (R109 to R112, R118 to R125): retirement and rebuild of channels, containment of a port and its
end, completions, which a request ended by containment discards, key slots, which firmware alone loads (R426), and the commands on sealed
frames. -/
def Obligations.StackAndSealEvents : Prop :=
  (∀ (k ch : Nat) (s : State), k < 8 → ch < 512 → (s.stack k).retired.length < 8 → ch ∉ (s.stack k).retired → ch ∉ (s.stack k).queued →
    (s.stack k).remain = 0 → (s.stack k).queued = [] →
    let t := (s.setStack k { s.stack k with retired := (s.stack k).retired ++ [ch], remain := 62464 * ((s.stack k).retired.length + 1) }).machineEvent
      (k / 2) 4 0 (k * 512 + ch)
    exec (.hbmctlRetire k ch) s = .next t ∧ exec (.channelTrainingFail k ch) s = .next t ∧
    exec (.repairLimit k ch) s = .next (if 64 ≤ s.repairsOf k ch then t else s)) ∧
  (∀ (k : Nat) (s : State), (s.stack k).queued = [] →
    exec (.rebuildSegment k) s = .next (s.setStack k { s.stack k with remain := (s.stack k).remain - 1 })) ∧
  (∀ (p : Nat) (s : State), (∃ q ∈ s.cxlReqs, q.port = p ∧ q.ready = false ∧ q.down = false ∧ q.since + 1000 * (s.reg (p / 4) (.cxlctl (p % 4)) % 1024) ≤ s.time) →
    exec (.cxlTimeout p) s = .next (s.contain p 1)) ∧
  (∀ (p : Nat) (s : State), p < 16 → exec (.cxlLinkEvent p 2) s = .next ((s.linkLost p).contain p 2) ∧
    (∀ c ∈ [4, 5], exec (.cxlLinkEvent p c) s = .next (s.contain p c)) ∧
    exec (.cxlLinkEvent p 3) s = .next (((s.linkLost p).setReg (p / 4) (.rpctl (p % 4))
      (setBits ((s.linkLost p).reg (p / 4) (.rpctl (p % 4))) 29 1 1)).contain p 3)) ∧
  (∀ (p : Nat) (s : State), p < 16 → (s.reg (p / 4) (.cxlctl (p % 4))).testBit 30 = true →
    (s.reg (p / 4) (.cxlctl (p % 4))).testBit 28 = true → ∃ v, exec (.cxlctlResume p) s = .next (s.setReg (p / 4) (.cxlctl (p % 4)) v) ∧
      v < 2 ^ 64 ∧ ∀ i < 64, v.testBit i = if i = 29 ∨ i = 30 then false else (s.reg (p / 4) (.cxlctl (p % 4))).testBit i) ∧
  (∀ (p bad : Nat) (s : State) (q : CxlReq), s.cxlReqs.find? (fun r => r.port == p && !r.ready) = some q →
    (∀ r ∈ s.cxlReqs, r.port = p → r.down = false) → (s.basin (p / 4)).rdc.length < 262144 →
    (s.reg (p / 4) (.cxlctl (p % 4))).testBit 30 = false → ∃ t, exec (.cxlMemCompletion p bad) s = .next t ∧
      (q.dev = false → (∀ r ∈ t.cxlReqs, ¬(r.port = p ∧ r.line = q.line ∧ r.dev = false)) ∧
        ((t.basin (p / 4)).rdc.look q.line).isSome = true) ∧
      (q.dev = true → t.cxlReqs = s.cxlReqs.map (fun r => if r = q then { r with ready := true } else r) ∧
        t.basin (p / 4) = s.basin (p / 4)) ∧
      (bad ≠ 0 → t.sectorBad (lineKey q.line) = true ∧ t.sectorBad (lineKey q.line + 64) = true) ∧
      (bad = 0 → t.mem = s.mem) ∧ t.mem.bytes = s.mem.bytes) ∧
  (∀ (p bad : Nat) (s : State), (∃ r ∈ s.cxlReqs, r.port = p ∧ r.ready = false) →
    (∀ r ∈ s.cxlReqs, r.port = p → r.ready = false → r.down = true) →
    ∃ t, exec (.cxlMemCompletion p bad) s = .next t ∧ t = { s with cxlReqs := t.cxlReqs }) ∧
  (∀ (k : Nat) (s : State), s.firmware = false → exec (.keySlotLoad k) s = .next s) ∧
  (∀ (k : Nat) (s : State), k < 256 → s.firmware = true → ∃ t, exec (.keySlotLoad k) s = .next t ∧ t.keyGen.get 0#16 k = s.keyGen.get 0#16 k + 1#16 ∧
    (∀ j, j ≠ k → t.keyGen.get 0#16 j = s.keyGen.get 0#16 j) ∧ t.mem = s.mem) ∧
  (∀ (k f : Nat) (slot : Nat) (s : State), k < 8 → slot < 256 → s.sealIsBusy k = false →
    let w := s.reg (k / 2) (.sealpool (k % 2))
    let gen := (s.keyGen.get 0#16 slot).toNat
    w.testBit 63 = true → w % 2 ^ 24 ≤ f → f < w % 2 ^ 24 + w / 2 ^ 24 % 2 ^ 24 → (s.seal k).frames.look f = none →
    (s.seal k).nodeExhausted f = false → let z := s.zeroFrame k f
    exec (.sealctlReinit k f slot) s = .next ((z.setSeal k { z.seal k with
      frames := (z.seal k).frames.set f { major := 0, minors := [], slot := slot, gen := gen }, reenc := (z.seal k).reenc.erase f }).setReg (k / 2) (.sealctl (k % 2)) (2 ^ 59))) ∧
  (∀ (k : Nat) (s : State), k < 8 → s.sealIsBusy k = false →
    let w := s.reg (k / 2) (.sealpool (k % 2))
    let z := (if w.testBit 63 then rangeFrom (w % 2 ^ 24) (w / 2 ^ 24 % 2 ^ 24) else []).foldl (fun s f => s.zeroFrame k f) s
    let q : SealState := { z.seal k with epoch := (z.seal k).epoch + 1#17, frames := [], nodes := [], reenc := [], initing := true }
    exec (.sealctlPoolinit k) s = .next ((z.setSeal k q).setReg (k / 2) (.sealctl (k % 2)) (2 ^ 59))) ∧
  (∀ (k : Nat) (s : State), ∃ v, exec (.sealCommandDone k) s =
    .next ((s.setSeal k { s.seal k with initing := false }).setReg (k / 2) (.sealctl (k % 2)) v) ∧
    ∀ i < 64, v.testBit i = if i = 59 then false else (s.reg (k / 2) (.sealctl (k % 2))).testBit i)

/-- Regions and service (R158 to R163, R420, R421, R425, R429, R430, R29): registering and removing a region, killing one; reset, boot and
measurement, full service, power, the GTB's source, and writes of registers. -/
def Obligations.RegionAndServiceEvents : Prop :=
  (∀ (r : Nat) (s : State), (s.reg 0 .rcbupd).testBit 63 = false → r < 2 ^ 20 →
    let e := s.dirEntry r
    let words := s.rcbWords (e / 2 ^ 8 % 2 ^ 44 * 256)
    (∀ why, s.rcbWhy r e words false = some why → exec (.rcbupdUpdate r) s = .next (s.setReg 0 .rcbupd (2 ^ 62 + why * 2 ^ 56))) ∧
    (s.rcbWhy r e words false = none → exec (.rcbupdUpdate r) s = .next
      (({ s with rcbPend := some { id := r, words := words, remove := !e.testBit 63 } } : State).setReg 0 .rcbupd (2 ^ 63))) ∧
    (s.rcbWhy r e words true = none → exec (.rcbupdClrfault r) s = .next
      (({ s.clearFault r with rcbPend := some { id := r, words := words, remove := !e.testBit 63 } } : State).setReg 0 .rcbupd (2 ^ 63)))) ∧
  (∀ (s : State) (p : RcbPending), s.rcbPend = some p → ∃ t, exec .rcbupdApply s = .next t ∧ t.rcbPend = none ∧ t.reg 0 .rcbupd = 0 ∧
    t.regions = (if p.remove then s.regions.del p.id else
      s.regions.set p.id { (s.region? p.id).getD .fresh with words := p.words }) ∧ t.mem = s.mem ∧ t.groups = s.groups) ∧
  (∀ (r : Nat) (s : State), exec (.rgnkill r) s = .next (s.fatalFault r 0xFF)) ∧
  (∀ (d : Nat) (s : State), ∃ t, exec (.moduleReset 0 d) s = .next t ∧ t.firmware = true ∧ t.reg 0 .bootstat = 2 ^ 31 ∧
    t.meas.get 0#512 0 = extendMeas 0#512 d ∧ t.groups = [] ∧ t.regions = [] ∧ t.mem = State.reset.mem ∧ t.full = false ∧ t.gtb = 0#64) ∧
  (∀ (c d : Nat) (s : State), 1 ≤ c → c ≤ 4 → ∃ t, exec (.moduleReset c d) s = .next t ∧ t.firmware = false ∧ t.reg 0 .bootstat = c ∧
    t.bootFailed = true ∧ t.mem = State.reset.mem ∧ t.groups = []) ∧
  (∀ (r d : Nat) (s : State), s.firmware = true → 1 ≤ r → r ≤ 7 → exec (.measExtend r d) s =
    .next { s with meas := s.meas.set r (extendMeas (s.meas.get 0#512 r) d) }) ∧
  (∀ s : State, exec .hbmTrainingDone s = .next { s with trained := true }) ∧
  (∀ s : State, exec .svcupUp s = .next { s with full := s.full || s.trained }) ∧
  (∀ (n capped : Nat) (s : State), ∃ v, exec (.powerStep n capped) s = .next (s.setReg 0 .pwrlimit v) ∧
    let now := s.reg 0 .pwrlimit / 2 ^ 28 % 16
    let new := v / 2 ^ 28 % 16
    (now < min 8 n → new = now + 1) ∧ (min 8 n < now → new = now - 1) ∧ (now = min 8 n → new = now) ∧
    (v.testBit 27 = true ↔ new = 8 ∧ capped ≠ 0)) ∧
  (∀ (k : Nat) (s : State), k ≤ 2 → ∃ v, exec (.gtbsyncSrc k) s = .next (s.setReg 0 .gtbsync v) ∧ v / 2 ^ 60 % 8 = k ∧
    v % 2 ^ 60 = s.reg 0 .gtbsync % 2 ^ 60 ∧
    v.testBit 63 = ((s.reg 0 .gtbsync).testBit 63 && s.reg 0 .gtbsync / 2 ^ 60 % 8 == k)) ∧
  (∀ (u : Nat) (s : State), u ≤ 50 → (∀ b < 4, u ≤ s.reg b .lguard % 2 ^ 14) → ∃ t, exec (.gtbDiscipline u) s = .next t ∧
    t.reg 0 .gtbsync % 2 ^ 32 = u ∧ ((t.reg 0 .gtbsync).testBit 63 = true ↔ s.reg 0 .gtbsync / 2 ^ 60 % 8 ≠ 0) ∧
    ∀ b < 4, (t.basin b).uncert = u) ∧
  (∀ (b off v : Nat) (s : State), b < 4 → regSizeOk b off 8 = true →
    exec (.registerWrite b off 8 v) s = .next (s.slotWrite b (slotOf b (off / 8 * 8)) v))

/-- The debug unit (R433 to R444): halting and resuming a region, stepping, reading and writing the registers of its threads under the
rights of a capability, watchpoints, the check of a halt's capability, PC samples. -/
def Obligations.DebugEvents : Prop :=
  (∀ (c : Nat) (s t : State), s.tableWaits (dbgTarget c) [dbgCap c] = some t →
    exec (.dbgcmdHalt c) s = .next (t.defer (.dbgcmdHalt c)) ∧ exec (.dbgcmdResume c) s = .next (t.defer (.dbgcmdResume c)) ∧
    exec (.dbgcmdStep c) s = .next (t.defer (.dbgcmdStep c)) ∧ exec (.dbgcmdRead c) s = .next (t.defer (.dbgcmdRead c)) ∧
    exec (.dbgcmdWrite c) s = .next (t.defer (.dbgcmdWrite c))) ∧
  (∀ (c : Nat) (s : State), s.tableWaits (dbgTarget c) [dbgCap c] = none → (∀ h, s.capability (dbgTarget c) (dbgCap c) ≠ some h) →
    ∀ i ∈ [Instr.dbgcmdHalt c, .dbgcmdResume c, .dbgcmdStep c, .dbgcmdRead c, .dbgcmdWrite c], exec i s = .next (s.setReg 0 .dbgcmd (2 ^ 56))) ∧
  (∀ (c rights : Nat) (s : State), s.tableWaits (dbgTarget c) [dbgCap c] = none →
    s.capability (dbgTarget c) (dbgCap c) = some (dbgHolder c, rights) → rights.testBit 0 = true →
    let halted : Bool := (s.chain 17 (dbgTarget c)).any fun x => ((s.region? x).map (·.halt.isSome)).getD false
    exec (.dbgcmdHalt c) s = .next ((if halted then s else s.updRegion (dbgTarget c) fun r =>
      { r with halt := some (some (dbgCap c), s.time) }).setReg 0 .dbgcmd 0)) ∧
  (∀ (c rights : Nat) (s : State), s.tableWaits (dbgTarget c) [dbgCap c] = none → s.capability (dbgTarget c) (dbgCap c) = some (dbgHolder c, rights) → rights.testBit 1 = true →
    ∃ t, exec (.dbgcmdResume c) s = .next t ∧ (∀ r, t.region? (dbgTarget c) = some r → r.halt = none) ∧ t.reg 0 .dbgcmd = 0 ∧
      t.mem = s.mem ∧ ∀ n l p, s.thread? n l = some p → ∃ q, t.thread? n l = some q ∧ q.pc = p.pc ∧ q.prio = p.prio ∧ q.stack = p.stack) ∧
  (∀ (c rights n l : Nat) (s : State) (g : Group), s.tableWaits (dbgTarget c) [dbgCap c] = none → s.capability (dbgTarget c) (dbgCap c) = some (dbgHolder c, rights) →
    s.haltedRegion (dbgTarget c) = true → s.dbgThread (dbgTarget c) s.dbgName = some (n, l) → s.group? n = some g →
    (rights.testBit 4 = true → exec (.dbgcmdStep c) s = .next ((s.setGroup n { g with stepOnce := true }).setReg 0 .dbgcmd 0)) ∧
    (rights.testBit 5 = true → dbgArg c < 96 → dbgArg c < g.count → (g.ownV l (dbgArg c)).bad = false →
      exec (.dbgcmdRead c) s = .next ((s.setReg 0 .dbgdata (g.ownV l (dbgArg c)).val.toNat).setReg 0 .dbgcmd 0)) ∧
    (∀ p, g.thread? l = some p → rights.testBit 5 = true →
      (dbgArg c = 96 → exec (.dbgcmdRead c) s = .next ((s.setReg 0 .dbgdata (p.pc.toNat % 2 ^ 32)).setReg 0 .dbgcmd 0)) ∧
      (dbgArg c = 97 → exec (.dbgcmdRead c) s = .next ((s.setReg 0 .dbgdata (p.pc.toNat / 2 ^ 32)).setReg 0 .dbgcmd 0)) ∧
      (dbgArg c = 98 → exec (.dbgcmdRead c) s = .next ((s.setReg 0 .dbgdata p.prio.toNat).setReg 0 .dbgcmd 0))) ∧
    (rights.testBit 6 = true → dbgArg c < 96 → dbgArg c < g.count → exec (.dbgcmdWrite c) s = .next ((s.setGroup n { g with
      regs := g.regs.set (dbgArg c * 32 + l) (regWord (BitVec.ofNat 32 (s.reg 0 .dbgdata)))
      vdeps := g.vdeps.del (dbgArg c * 32 + l) }).setReg 0 .dbgcmd 0))) ∧
  (∀ (n v : Nat) (s : State), n < 16 →
    (v.testBit 63 = true → s.tableWaits (v / 2 ^ 40 % 2 ^ 20) [v / 2 ^ 32 % 2 ^ 8] = none) → ∃ w, exec (.dbgwpbWrite n v) s = .next (s.setReg 0 (.dbgwpb n) w) ∧ (∀ i < 63, w.testBit i = v.testBit i) ∧
    (w.testBit 63 = true ↔ v.testBit 63 = true ∧
      ∃ h rights, s.capability (v / 2 ^ 40 % 2 ^ 20) (v / 2 ^ 32 % 2 ^ 8) = some (h, rights) ∧ rights.testBit 3 = true)) ∧
  (∀ (r c since : Nat) (s : State) (k : Region), s.region? r = some k → k.halt = some (some c, since) → s.tableWaits r [c] = none →
    s.capability r c = none →
    exec (.capabilityRecheck r) s = .next (s.resumeRegion r)) ∧
  (∀ (c n l holder : Nat) (ls : List Nat) (rest : List (Nat × Group)) (g : Group) (p : Thread) (s : State),
    (s.reg 0 .sampctl).testBit 31 = true → s.sampleOrder c = (n, g) :: rest →
    s.tableWaits (s.regionOf g) (List.range (s.dcCount (s.regionOf g))) = none → s.sampler (s.regionOf g) = some holder →
    s.entry g = l :: ls → g.thread? l = some p → ∃ rec_, exec (.pcSample c) s = .next
      ((s.updCore c fun x => { x with sampleGrp := n }).ringWrite 0 .sampqbase .sampqptr 14 10 32 [rec_]))

/-- The dispatchers at work (R175, R180, R187 to R191, R196 to R209): packets and tasks taken, workgroups placed, saved and restored. -/
def Obligations.DispatchEvents : Prop :=
  (∀ (b n put : Nat) (s : State), let take := s.reg b (.hqptr n) / 2 ^ 32
    put < 2 ^ 32 → ((put + 2 ^ 32 - take) % 2 ^ 32 ≤ hostSlots (s.reg b (.hqbase n)) →
      exec (.hqptrPut b n put) s = .next (s.setReg b (.hqptr n) (put + take * 2 ^ 32))) ∧
    (hostSlots (s.reg b (.hqbase n)) < (put + 2 ^ 32 - take) % 2 ^ 32 → ∃ t, exec (.hqptrPut b n put) s = .next t ∧
      (t.reg b (.hqbase n)).testBit 63 = false ∧ t.reg b (.hqstat n) / 2 ^ 56 = 7 ∧ t.reg b (.hqptr n) = s.reg b (.hqptr n))) ∧
  (∀ (b n : Nat) (p : List DWord) (g : Grid) (s m t : State), (s.reg 0 .rgndir).testBit 63 = true → s.descriptors b < 1024 →
    s.nextSource b = some (.host n) → readPacket b (.host n) false s = .ok p m → m.checkPacket (some p) none b = (some (.ok g), t) →
    let h : Grid := { g with ctx := none, parent := none, hostq := some (b, n) }
    let q := t.newLid.2.takeSlot b (.host n)
    t.newLid.1 < 2 ^ 32 ∧
    exec (.packetTake b) s = .next (({ q with grids := q.grids.set t.newLid.1 h } : State).enlist t.newLid.1 g)) ∧
  (∀ (b n code : Nat) (p : List DWord) (s m t : State), (s.reg 0 .rgndir).testBit 63 = true → s.descriptors b < 1024 →
    s.nextSource b = some (.host n) → readPacket b (.host n) false s = .ok p m → m.checkPacket (some p) none b = (some (.error code), t) →
    exec (.packetTake b) s = .next ((t.newLid.2.takeSlot b (.host n)).queueError b n code)) ∧
  (∀ (b : Nat) (e : Waiting) (s t : State), s.waitOrder b = [e] → e.restore = none → e.task = false →
    (s.reg 0 .rgndir).testBit 63 = true → s.placeUnit e = some t → exec (.workgroupPlace b) s = .next t) ∧
  (∀ (w : Nat) (x : Workgroup) (e : Waiting) (s t : State), s.wgs.look w = some x → s.waitOrder (basinOf x.core) = [e] →
    e.restore = some w → e.task = false → s.restoreUnit e w = some t → exec (.workgroupRestore w) s = .next t) ∧
  (∀ (c w : Nat) (s t : State) (r : Record) (x : Workgroup) (f : Fit) (e : Waiting), (s.reg 0 .steppecfg).testBit 63 = true →
    (s.reg 0 .rgndir).testBit 63 = true → s.bucketHead c = some r → r.saved = some w → s.wgs.look w = some x → x.exited = false →
    s.waitOrder (basinOf c) = [e] → e.task = true → e.core = some c → s.fit c (s.needOf w) false = some f →
    ({ s with steppe := s.steppe.erase r } : State).restoreOrLose w c f = some t → exec (.taskStart c) s = .next t) ∧
  (∀ (c : Nat) (s m t : State) (r : Record) (hb : Header × List Bucket) (e : Waiting), (s.reg 0 .steppecfg).testBit 63 = true →
    (s.reg 0 .rgndir).testBit 63 = true → s.bucketHead c = some r → r.saved = none → s.regionUsable r.region = true →
    s.kernel (r.who c) r.code.toNat = (some (some hb), m) → m.waitOrder (basinOf c) = [e] → e.task = true → e.core = some c →
    m.startTask c = some t → exec (.taskStart c) s = .next t) ∧
  (∀ (w : Nat) (x : Workgroup) (s t : State), s.wgs.look w = some x → x.task = true → x.saved = .resident → x.exited = false →
    s.allBlocked w (s.quantum x.region) = true → s.saveToPool w (fun pa => .task (s.time + s.quantum x.region) s.time pa) = some t →
    exec (.taskWaitSave w) s = .next t) ∧
  (∀ (w due since pa : Nat) (x : Workgroup) (s : State), s.wgs.look w = some x → x.saved = .task due since pa → x.exited = false →
    due ≤ s.time → (∀ r ∈ s.steppe, r.saved ≠ some w) → ∃ r : Record, exec (.taskRequeue w) s = .next { s with steppe := r :: s.steppe } ∧
      r.home = x.core ∧ r.saved = some w ∧ r.runnable = true ∧ r.region = x.region ∧ r.since = since) ∧
  (∀ (w : Nat) (x : Workgroup) (s : State), s.wgs.look w = some x → x.task = false → x.saved = .resident → x.exited = false →
    x.resident + s.quantum x.region ≤ s.time → exec (.quantumExpiry w) s = .next (s.setWg w { x with yieldable := true })) ∧
  (∀ (w : Nat) (x : Workgroup) (s t : State), s.wgs.look w = some x → x.task = false → x.saved = .resident → x.exited = false →
    (x.yieldable = true → s.wantsCore w = true → s.poolSave w true = some t → exec (.quantumSave w) s = .next t) ∧
    (s.allBlocked w 0 = true → s.yieldFor x.region (basinOf x.core) = true → s.poolSave w false = some t →
      exec (.yieldSave w) s = .next t))

/-- Turns of the pipes, ends of waits, timed starts and budget periods (R70, R170, R185, R203, R204, R210, R211, R321). -/
def Obligations.TurnEvents : Prop :=
  (∀ (k : Nat) (p : Pipe) (s : State), (s.core (k / 128)).pipes.look (k % 128) = some p → 64 ≤ p.count →
    (∀ q ∈ s.onPipe k, q.2.window = none) → exec (.turnLimit k) s = .next (s.updCore (k / 128) fun c =>
      { c with pipes := c.pipes.set (k % 128) { p with group := none, count := 0 } })) ∧
  (∀ (n : Nat) (g : Group) (s : State), (n, g) ∈ s.onPipe g.pipeKey → s.group? n = some g → s.readyGroup g = true → g.lastIssue + 65536 ≤ s.time →
    (∀ q ∈ s.onPipe g.pipeKey, q.2.window = none ∧ s.keepsTurn g.pipeKey q = false) →
    (∀ q ∈ s.onPipe g.pipeKey, q.1 ≠ n → s.readyGroup q.2 = true → g.lastIssue < q.2.lastIssue) →
    exec (.starvedTurn n) s = .next (s.updPipe g.pipeKey fun p => { p with group := some n, count := 0 })) ∧
  (∀ (n : Nat) (g : Group) (s : State), s.group? n = some g →
    exec (.entryAgeLimit n) s = .next (s.setGroup n { g with row := min g.row 1024 })) ∧
  (∀ (n l : Nat) (g : Group) (p : Thread) (f : FebWait) (s : State), s.group? n = some g → g.threads = [(l, p)] → l < 32 → p.exited = false →
    p.feb = some f → s.resident g = true → s.lineEmpty { wg := f.wg, addr := f.addr } = true →
    f.since + s.febTimeout (s.regionOf g) < s.clockOf (s.regionOf g) → ∃ trap, trap.cause = .febtimeout ∧
    trap.tval.toNat % 2 ^ 24 = f.addr % 2 ^ 24 ∧ exec (.febTimeout n l) s =
      .next (s.setGroup n { g with stall := none, threads := [(l, { p with feb := none, failed := some trap })] })) ∧
  (∀ (n l : Nat) (g : Group) (p : Thread) (w : Wait) (s : State), s.group? n = some g → g.threads = [(l, p)] → l < 32 → p.exited = false →
    p.wait = some w → g.trap = none → s.resident g = true → s.waitMet g w = false →
    w.since + s.waitTimeout (s.regionOf g) < s.clockOf (s.regionOf g) + w.elapsed → ∃ t q, exec (.waitTimeout n l) s = .next t ∧
    t.thread? n l = some q ∧ q = { p with wait := none, failed := some (trapOf .waittimeout w.tval) }) ∧
  (∀ (n : Nat) (g : Group) (s : State), s.group? n = some g → ∃ t k, exec (.timeatRelease n) s = .next t ∧ t.group? n = some k ∧
    t = s.setGroup n k ∧ k = { g with threads := k.threads } ∧ ∀ l p, g.thread? l = some p → ∃ q, k.thread? l = some q ∧
      q = { p with wait := q.wait } ∧ (p.wait = none → q.wait = none) ∧ ∀ w, p.wait = some w → q.wait = some (match w.what with
        | .time at_ => if at_ ≤ s.time ∧ w.outcome = none then { w with outcome := some (0, 0#64) } else w
        | _ => w)) ∧
  (∀ (w n : Nat) (x : Workgroup) (s : State), s.wgs.look w = some x → s.ranks = [] → exec (.timedStart w n) s = .next (s.setWg w { x with
    copies := x.copies.map fun q => if q.num = n then { q with slices := q.slices.map fun (l : Slice) =>
      { l with start := match l.start with
          | some t => if t ≤ s.time then none else some t
          | none => none } } else q })) ∧
  (∀ (b : Nat) (s : State), ∃ t, exec (.budgetPeriod b) s = .next t ∧ t = s.setBasin b { s.basin b with spent := (t.basin b).spent } ∧
    ∀ k n, (k, n) ∈ (t.basin b).spent ↔ ∃ m q, (k, m) ∈ (s.basin b).spent ∧ s.activityShare (k / 4) (k % 4) = some q ∧ q < m ∧ n = m - q)

/-- The engines at work (R344 to R349, R355, R374): claims and units of the matrix engine, and words of streams. -/
def Obligations.EngineEvents : Prop :=
  (∀ (c w : Nat) (ws : List Nat) (s : State), (s.core c).mxe.holder = none → (s.core c).mxe.waiters = w :: ws → ∃ t,
    exec (.engineClaim c) s = .next t ∧ (t.core c).mxe = { Mxe.reset with holder := some w, waiters := ws } ∧
    (∀ k, k ≠ c → t.core k = s.core k) ∧ t.mem = s.mem ∧ ∀ n g, s.group? n = some g → ∃ k, t.group? n = some k ∧
      k = if g.wg = w then { g with stopped := none, stoppedStatus := 0 } else g) ∧
  (∀ (c : Nat) (q : MxCmd) (qs : List MxCmd) (s : State), (s.core c).mxe.queue = q :: qs → q.status = none → q.park = none →
    s.shareLeft (basinOf c) q.region 2 = true → q.started = false → (s.hasMxs c = true → (s.freeUnit c).isSome = true) →
    exec (.matrixUnit c) s = .next (s.mxStart c q)) ∧
  (∀ (c : Nat) (q : MxCmd) (s : State), (s.core c).mxe.queue = [q] → q.kind = .wswap → q.status = none → q.park = none → q.started = false →
    s.shareLeft (basinOf c) q.region 2 = true → exec (.matrixUnit c) s = .next (s.updMxe c fun e =>
      { e with front := !e.front, queue := [{ q with status := some 0 }] })) ∧
  (∀ (c : Nat) (q : MxCmd) (qs : List MxCmd) (s t : State), (s.core c).mxe.queue = q :: qs → q.status = none → q.park = none →
    s.shareLeft (basinOf c) q.region 2 = true → q.started = true → q.struck = false → (q.unit.isSome = true ∨ s.hasMxs c = false) →
    (((s.mxStaged c q).core c).mxe.queue.map (·.struck)).headD false = false → wholeUnit (mxUnit c q q.done) (s.mxStaged c q) = .ok () t →
    exec (.matrixUnit c) s = .next ((t.charge (basinOf c) q.region 2 1).updMx c fun q =>
      { q with done := q.done + 1, status := if q.total ≤ q.done + 1 then some (if q.ue then 1 else 0) else q.status })) ∧
  (∀ (c st : Nat) (q : MxCmd) (qs : List MxCmd) (s : State), (s.core c).mxe.queue = q :: qs → q.status = some st →
    exec (.matrixComplete c) s = .next (s.mxComplete c q st)) ∧
  (∀ (n q : Nat) (g : Group) (k : Queue) (t : Stream) (w : QWord) (s m : State), s.group? n = some g → g.queues.look q = some k →
    k.stream = some t → t.park = none → k.dir = false → s.stagingBad n q g k = false → k.words.length < k.cap → s.shareLeft (basinOf g.core) t.region 2 = true →
    t.moved + 1 < streamTotal t.desc → streamRead g t t.moved s.answersKept = .ok w m → m.group? n = some g →
    exec (.streamWord n q) s = .next (((m.queueWrite g.core n q k 1).updQueue n q fun k => { k with
      words := k.words ++ [w], stream := some { t with moved := t.moved + 1, ue := t.ue || w.poison } }).answersGone.charge
        (basinOf g.core) t.region 2 1))

/-- Commands at work (R115 to R117, R378 to R384, R387): copies, near-memory commands and doorbells, each completed on its timeline, and
the end of a wait for a busy queue. -/
def Obligations.CommandEvents : Prop :=
  (∀ (n since : Nat) (g : Group) (s : State), s.group? n = some g → g.engqSince = some since → g.stall = some .engq →
    since + s.quantum (s.regionOf g) ≤ s.time → exec (.cqbusyTimeout n) s = .next (s.setGroup n { g with stall := none })) ∧
  (∀ (w n : Nat) (x : Workgroup) (q : CopyCmd) (s : State), s.wgs.look w = some x → x.copies.find? (fun q => q.num == n) = some q →
    q.started = false → s.copyReady x q = true →
    let r : CopyCmd := { q with slices := if q.kind = 0 then sortSlices q.slices else q.slices }
    (s.copyBad w r = false → exec (.copyStart w n) s =
      .next ((s.updCopy w n fun _ => { r with started := true }).copyRun w n (r.steps + 2))) ∧
    (s.copyBad w r = true → ∃ a b t, exec (.copyStart w n) s = .next t ∧ t = { s with wgs := t.wgs, freeCount := t.freeCount } ∧ b = 0 ∧ (q.kind ≠ 0 → a = 0) ∧
      (∀ l, q.kind = 0 → r.slices.find? (fun l => l.bad 0 (r.leads l)) = some l → a = l.gix) ∧
      t.wgs = (s.updCopy w n fun q => { q with started := true, outcome := some (2, a, b) }).wgs)) ∧
  (∀ (w n st a b : Nat) (x : Workgroup) (q : CopyCmd) (l : Slice) (ls : List Slice) (s : State), s.wgs.look w = some x →
    x.copies.find? (fun q => q.num == n) = some q → q.outcome = some (st, a, b) → q.slices = l :: ls → q.park = none →
    let done (s : State) : State := (s.completeTl w 1 n st a b).updWg w fun x => { x with copies := x.copies.filter fun q => q.num != n }
    (2 ≤ st ∨ q.kind = 1 → exec (.copyComplete w n) s = .next (done s)) ∧
    (∀ t, st < 2 → q.kind ≠ 1 → wholeUnit (noteAction x.core w q l.nkind l.nsp (l.note (2 ≤ q.kind)) l.notify) s = .ok () t →
      exec (.copyComplete w n) s = .next (done t))) ∧
  (∀ (p pa : Nat) (d : Doorbell) (s : State), s.bells = [d] → d.target = some (p, pa) →
    (s.portUp p = true → s.forwards p pa = true → exec (.doorbellSend p) s = .next (({ s with sent := s.sent ++
      [{ port := p, peer := none, master := 0, pa := pa, size := d.size, value := d.value.toNat }] } : State).bellDone d 0)) ∧
    (s.portUp p = true → s.forwards p pa = false → exec (.doorbellSend p) s =
      .next ((s.fabricLog (basinOf d.core) pa (dopWho d).master).bellDone d 4)) ∧
    (s.portUp p = false → exec (.doorbellSend p) s = .next (s.bellDone d 5))) ∧
  (∀ (w : Nat) (x : Workgroup) (q : NmuCmd) (qs : List NmuCmd) (s t : State) (r : Nat × Nat × Nat × Nat), s.wgs.look w = some x →
    x.nmus = q :: qs → q.result = none → q.park = none → s.shareLeft (basinOf x.core) q.region 3 = true → nmuRun x.core w q s = .ok r t →
    exec (.nmuExecute w) s = .next ((t.charge (basinOf x.core) q.region 3 q.count).updNmu w q.num fun q =>
      { q with result := some r, status := if q.statusBad then none else q.status })) ∧
  (∀ (w : Nat) (x : Workgroup) (q : NmuCmd) (qs : List NmuCmd) (s : State) (st a b e : Nat), s.wgs.look w = some x → x.nmus = q :: qs →
    q.result = some (st, a, b, e) → q.park = none → q.status = none → exec (.nmuComplete w) s =
      .next ((s.completeTl w 4 q.num st e (a + 4 * b)).updWg w fun x => { x with nmus := x.nmus.filter fun p => p.num != q.num }))

/-- Root ports, endpoints and peers (R38, R40, R92, R385, R386, R411 to R418, R466): requests from outside with their checks and replies,
interrupt messages, links that train and go down, completions and timeouts. -/
def Obligations.PortEvents : Prop :=
  (∀ (p rid off i : Nat) (s : State), p < 16 → i < 2 ^ 16 → off = 4 * i →
    (∀ e ∈ s.later ++ s.agenda, ∀ pasid k h z v, e = .endpointRequest p rid pasid k h z v → pasid < 2 ^ 20 ∨ k % 8 ≠ 1) →
    s.matAdmits 0 13 (endpointMaster p rid noPasid) (0xFFFFF00000000 + off % 2 ^ 32) 2 = true → (s.reg 0 .iatbase).testBit 63 = true →
    let e := s.paNat (s.iatBase + 32 * i) 32
    let count := e / 2 ^ 108 % 2 ^ 16
    let region := e / 2 ^ 88 % 2 ^ 20
    iatBad e rid = false →
    let held : Held :=
      { entry := i, launch := e / 2 ^ 160 % 2 ^ 32, wix := e / 2 ^ 128 % 2 ^ 32, addr := e / 2 ^ 192 % 2 ^ 24, count := count,
        region := region }
    (∀ t, e.testBit 126 = true → s.heldTry held = some t → exec (.msixArrival p rid off 4) s = .next t) ∧
    let who : Who := { region := region, master := endpointMaster p rid noPasid, basin := 0, core := none, sup := region == 0, queued := true }
    (∀ l m r t, e.testBit 126 = false → iatReach who (e / 2 ^ 192 % 2 ^ 64) s = .ok l m → barArrive l count m = .ok (some r) t →
      exec (.msixArrival p rid off 4) s = .next t)) ∧
  (∀ (p rid pasid kind h size v e d : Nat) (x : Xlat) (s m t : State), p < 16 → kind < 5 → outsideOk kind h size = true →
    s.pasidEntry p pasid = some e → let region := e % 2 ^ 20
    let w := endpointWho p rid pasid region
    let a := outsideAccess w (endpointVia p rid pasid region)
    let answer (d : Nat) (t : State) : State := if kind = 1 then t else
      { t with replies := t.replies ++ [{ port := p, rid := rid, status := 0, data := d }] }
    (s.region? region).isSome = true →
    (∀ m0, handlePieces w h size (outsideKind kind) s.answersKept = .ok [(0, size)] m0 → translate w h size (outsideKind kind) m0 = .ok x m →
      a x kind size v m = .ok d t → exec (.endpointRequest p rid pasid kind h size v) s = .next (answer d t.answersGone)) ∧
    (∀ n k m0 m1 m2 y c, handlePieces w h size (outsideKind kind) s.answersKept = .ok [(0, n), (n, k)] m0 →
      translate w h n (outsideKind kind) m0 = .ok x m → translate w (h + n) k (outsideKind kind) m = .ok y m1 → a x kind n v m1 = .ok d m2 →
      a y kind k (v / 2 ^ (8 * n)) m2 = .ok c t →
      exec (.endpointRequest p rid pasid kind h size v) s = .next (answer (d + c * 2 ^ (8 * n)) t.answersGone))) ∧
  (∀ (p rid pasid kind h size v w : Nat) (s : State), p < 16 → s.pasidEntry p pasid = none →
    let u := ({ s with replies := s.replies ++ [{ port := p, rid := rid, status := 1, data := 0 }]
                       aer := s.aer ++ [{ port := p, rid := rid, status := 1 }] } : State).portDown p true
    (outsideOk (kind % 8) h size = true → exec (.endpointRequest p rid pasid kind h size v) s = .next u) ∧
    exec (.atsTranslationRequest p rid pasid h) s = .next u ∧ exec (.priPageRequest p rid pasid h w) s = .next u) ∧
  (∀ (p rid pasid h e d : Nat) (s t : State), p < 16 → s.pasidEntry p pasid = some e → e.testBit 62 = true →
    atsAnswer (endpointWho p rid pasid (e % 2 ^ 20)) h s = .ok d t → ∃ u, exec (.atsTranslationRequest p rid pasid h) s = .next u ∧
      (p, rid, e % 2 ^ 20) ∈ u.atsHeld ∧ u = { t with atsHeld := u.atsHeld, replies := t.replies ++
        [{ port := p, rid := rid, status := 0, data := d }] }) ∧
  (∀ (p rid pasid h w e : Nat) (s : State), p < 16 → s.pasidEntry p pasid = some e → e.testBit 61 = true →
    let who := endpointWho p rid pasid (e % 2 ^ 20)
    (s.region? (e % 2 ^ 20)).isSome = true →
    let kind : Kind := if w ≠ 0 then .store else .load
    let record (m : State) (root va i cls sub : Nat) : State :=
      let q := m.park (p / 4) (e % 2 ^ 20) who.master root va i cls sub
      q.2.updBasin (p / 4) fun x => { x with
        pfq := x.pfq.map fun (r : PfRec) => if r.id = q.1 then { r with pages := r.pages ++ [(p, rid)] } else r }
    (64 ≤ s.pagesOut p rid → exec (.priPageRequest p rid pasid h w) s = .next (s.defer (.priPageRequest p rid pasid h w))) ∧
    (s.pagesOut p rid < 64 →
      (∀ x m va t, translate who h 1 kind s = .ok x m → pageVa who h m = .ok va t → ∃ sub, sub < 2 ^ 8 ∧
        exec (.priPageRequest p rid pasid h w) s = .next (record { t with freeCount := t.freeCount + 1 }
          (t.ptRoot (e % 2 ^ 20)) va (h / 2 ^ 48) kind.cls sub)) ∧
      (∀ sub root va i cls k m, translate who h 1 kind s = .error (.fault sub root va i cls k) m →
        exec (.priPageRequest p rid pasid h w) s = .next (record m root va i cls sub)))) ∧
  (∀ (p rid : Nat) (q : AtsWait) (s : State), q ∈ s.atsWaits → q.port = p → q.rid = rid → q.since + 1000000 ≤ s.time →
    let u : State := { s with atsWaits := s.atsWaits.filter fun q => !(q.port == p && q.rid == rid) }
    exec (.atsInvalTimeout p rid) s = .next (u.portDown p true)) ∧
  (∀ (p rid : Nat) (s : State), exec (.atsInvalidationCompletion p rid) s =
    .next { s with atsWaits := s.atsWaits.filter fun q => !(q.port == p && q.rid == rid) }) ∧
  (∀ (n st d : Nat) (q : BarReq) (s : State), s.barReqs.find? (fun q => q.id == n && q.result.isNone) = some q → st < 4 →
    let gone : State := { s with barReqs := s.barReqs.filter fun r => r.id != n }
    let h : DWord := BitVec.ofNat 64 q.cmp
    (q.op ≠ storeOp → exec (.rootPortCompletion n st d) s = .next { s with
      aer := if st = 1 ∧ q.peer = none then s.aer ++ [{ port := q.port, rid := 0, status := 3 }] else s.aer
      barReqs := s.barReqs.map fun (r : BarReq) => if r.id = n then { r with result := some (st, d) } else r }) ∧
    (q.op = storeOp → exec (.rootPortCompletion n st d) s = .next (if st = 0 then gone
      else if st = 3 then (gone.fabricLog (basinOf q.core) q.pa 0).lateTrap q.group q.lanes .accessdeny h n
      else gone.lateTrap q.group q.lanes .linkdown h n))) ∧
  (∀ (n : Nat) (q : BarReq) (s : State), s.barReqs.find? (fun q => q.id == n && q.result.isNone) = some q →
    q.since + s.portTimeout q.port ≤ s.time → exec (.barRequestTimeout n) s = .next (if q.op = storeOp then
        ({ s with barReqs := s.barReqs.filter fun r => r.id != n } : State).lateTrap q.group q.lanes .linkdown (BitVec.ofNat 64 q.cmp) n
      else { s with barReqs := s.barReqs.map fun (r : BarReq) => if r.id = n then { r with result := some (2, 0) } else r })) ∧
  (∀ (p dpc : Nat) (s : State), p < 16 → ∃ t, exec (.pcieLinkDown p dpc) s = .next t ∧ t = s.portDown p (dpc != 0) ∧
    (∀ q ∈ t.barReqs, q.port = p → q.result.isSome = true) ∧ (t.reg (p / 4) (.rpctl (p % 4))).testBit 30 = false ∧
    (t.reg (p / 4) (.cxlctl (p % 4))).testBit 30 = true) ∧
  (∀ (p speed width flit : Nat) (s : State), p < 16 → (s.reg (p / 4) (.rpctl (p % 4))).testBit 31 = true →
    (s.reg (p / 4) (.rpctl (p % 4))).testBit 29 = false → 1 ≤ speed → speed ≤ 7 → 1 ≤ width → width ≤ 16 → ∃ v w,
    exec (.linkTrained p speed width flit) s = .next ((s.setReg (p / 4) (.rpctl (p % 4)) v).setReg (p / 4) (.cxlctl (p % 4)) w) ∧
    v.testBit 30 = true ∧ v / 2 ^ 16 % 16 = speed ∧ v / 2 ^ 11 % 32 = width ∧ (v.testBit 10 = true ↔ flit ≠ 0 ∧ 6 ≤ speed) ∧ w.testBit 28 = true ∧
    (∀ i < 64, (i < 10 ∨ 20 ≤ i ∧ i ≠ 30) → v.testBit i = (s.reg (p / 4) (.rpctl (p % 4))).testBit i) ∧
    ∀ i < 64, i ≠ 28 → w.testBit i = (s.reg (p / 4) (.cxlctl (p % 4))).testBit i) ∧
  (∀ (p : Nat) (s : State), p < 16 → ∃ v, exec (.rpctlDpcRelease p) s = .next (s.setReg (p / 4) (.rpctl (p % 4)) v) ∧
    ∀ i < 64, v.testBit i = if i = 29 then false else (s.reg (p / 4) (.rpctl (p % 4))).testBit i) ∧
  (∀ (peer a kind size v : Nat) (s m1 m2 : State), let home := homeOf (keyOf a)
    let w : Who := { region := 0, master := 4 * 2 ^ 44 + peer % 2 ^ 18, basin := home, core := none, sup := true }
    let v' : Via := { engineVia (22 * home) 0 (2 ^ 42 + peer) with peer := some (peer % 2 ^ 18) }
    matCheck w a (if kind = 5 then .load else if kind = 6 then .store else outsideKind kind) s.answersKept = .ok () m1 → unsealed a m1 = .ok () m2 →
    m1.lapsedFor home 4 (peer % 2 ^ 18) 0 = false →
    (∀ d t, kind < 5 → outsideOk kind a size = true → outsideAccess w v'
        { pa := a, h := a, dev := !isMain a, check := false, g := false, enc := false, badKey := false, por := false } kind size v m2 = .ok d t →
      exec (.ntbPeerRequest peer a kind size v) s = .next (if kind = 1 then t.answersGone else
        { t.answersGone with replies := t.replies ++ [{ port := 16, rid := peer, status := 0, data := d }] })) ∧
    (∀ granted m3 bs t, (kind = 5 ∨ kind = 6) → a % 128 = 0 → isMain a = true →
      peerLease (peer % 2 ^ 18) (lineOf (keyOf a)) (kind == 6) m2 = .ok granted m3 → (agentReadN a 128 v'.except) m3 = .ok (bs, false) t →
      exec (.ntbPeerRequest peer a kind size v) s = .next { t.answersGone with replies := t.replies ++
        [{ port := 16, rid := peer, status := if granted then 0 else 5, data := bytesToNat bs }] }))

/-- Collectives and communicators (R393 to R395, R422 to R424): steps and their timeouts, abort notices, creating, destroying and re-
forming a communicator, and learning of an exclusion. -/
def Obligations.CollectiveEvents : Prop :=
  (∀ (n from_ to_ : Nat) (q : CommRank) (c : Coll) (d : List Nat) (s t : State), s.rank? n from_ = some q → s.collOf q = some c →
    to_ ∉ c.sent → collBlock c to_ s = .ok d t →
    let m : StepMsg := { epoch := q.epoch, k := c.k, word0 := c.word0, count := c.count, fail := 0, data := d }
    let u := t.updFront n from_ fun c => { c with sent := to_ :: c.sent }
    let sent : Notice := { comm := n, kind := 3, target := to_, culprit := from_, cause := 0, epoch := q.epoch, data := m.toList }
    (s.rank? n to_ = none → exec (.collStep n from_ to_ []) s = .next ((u.post sent).collTry n from_)) ∧
    (∀ r e, s.rank? n to_ = some r → r.state = 0 → s.collOf r = some e → e.k = c.k →
      exec (.collStep n from_ to_ []) s = .next ((u.stepArrives n from_ to_ m).collTry n from_))) ∧
  (∀ (n from_ to_ : Nat) (r : CommRank) (c : Coll) (m : StepMsg) (s : State), s.rank? n from_ = none → s.rank? n to_ = some r →
    s.collOf r = some c → m.epoch = r.epoch → m.k = c.k → s.commEpoch n ≤ m.epoch → exec (.collStep n from_ to_ m.toList) s =
      .next (({ s with ranks := s.ranks.map fun (q : CommRank) => if q.comm = n ∧ (from_, m.toList) ∈ q.inbox then
        { q with inbox := q.inbox.erase (from_, m.toList) } else q } : State).stepArrives n from_ to_ m)) ∧
  (∀ (n from_ to_ : Nat) (m : StepMsg) (s : State), (∃ r ∈ s.ranks, r.comm = n) → m.epoch < s.commEpoch n →
    exec (.collStep n from_ to_ m.toList) s = .next (({ s with ranks := s.ranks.map fun (q : CommRank) =>
      if q.comm = n ∧ (from_, m.toList) ∈ q.inbox then { q with inbox := q.inbox.erase (from_, m.toList) } else q } : State).post
        { comm := n, kind := 2, target := from_, culprit := to_, cause := 9, epoch := s.commEpoch n, data := [] })) ∧
  (∀ (n i from_ : Nat) (r : CommRank) (c : Coll) (s : State), s.rank? n i = some r → s.collOf r = some c → from_ < s.commSize n →
    c.got.look from_ = none → c.due + s.tstep n ≤ s.time → exec (.collStepTimeout n i from_) s = .next (s.breakRank n i from_ 1 true)) ∧
  (∀ (n i who cause : Nat) (r : CommRank) (s : State), s.rank? n i = some r →
    let u : State := { s with notices := s.notices.filter fun q =>
      !(q.comm == n && q.kind == 0 && q.target == i && q.culprit == who && q.cause == cause) }
    exec (.abortNotice n i who cause) s = .next (u.breakRank n i who cause true)) ∧
  (∀ (a : Nat) (d : CommDesc) (s : State), s.commBusy = false → s.commDesc a = some d → s.namesLocal d = true →
    (∀ e ∈ d.table, e.2.2 = false) → s.comms.look d.id = none → ∃ t, exec (.commcmdCreate a) s = .next t ∧ t.reg 0 .commcmd = 0 ∧
      t.comms.look d.id = some { tstep := d.tstep, table := d.table.map fun e => (e.1, e.2.1), reform := none } ∧ t.mem = s.mem ∧
      ∀ i e, d.table[i]? = some e → e.1 = s.moduleId.toNat → ∃ r ∈ t.ranks, r.comm = d.id ∧ r.rank = i ∧ r.region = e.2.1 ∧ r.state = 0 ∧
        r.epoch = 0 ∧ r.colls = []) ∧
  (∀ (a : Nat) (d : CommDesc) (s : State), s.commBusy = false → s.commDesc a = some d → s.namesLocal d = true →
    (s.comms.look d.id).isSome = true → ∃ t, exec (.commcmdDestroy a) s = .next t ∧ t.reg 0 .commcmd = 0 ∧ t.comms.look d.id = none ∧
      (∀ r ∈ t.ranks, r.comm ≠ d.id) ∧ ∀ q ∈ t.notices, q.comm ≠ d.id) ∧
  (∀ (a : Nat) (d : CommDesc) (k : Comm) (s : State), s.commBusy = false → s.commDesc a = some d → s.namesLocal d = true →
    s.comms.look d.id = some k → k.table = d.table.map (fun e => (e.1, e.2.1)) →
    let keep := d.table.filter fun e => !e.2.2
    2 ≤ keep.length → (∃ e ∈ keep, e.1 = s.moduleId.toNat) → ∃ t, exec (.commcmdReform a) s = .next t ∧ (t.reg 0 .commcmd).testBit 61 = true ∧
      t.comms.look d.id = some { tstep := d.tstep, table := keep.map fun e => (e.1, e.2.1), reform := some (s.time + 2 * d.tstep) }) ∧
  (∀ (n due : Nat) (k : Comm) (s : State), s.comms.look n = some k → k.reform = some due →
    (s.time ≤ due → ∃ t, exec (.reformAck n) s = .next t ∧ t.reg 0 .commcmd = 0 ∧ t.comms.look n = some { k with reform := none } ∧
      t.ranks = s.ranks.map fun (r : CommRank) => if r.comm = n ∧ r.excluded = false ∧ r.state = 2 then
        { r with state := 0, cause := 0, culprit := none } else r) ∧
    (due ≤ s.time → ∃ t, exec (.reformAckTimeout n) s = .next t ∧ t.reg 0 .commcmd = 3 * 2 ^ 58 ∧
      t.comms.look n = some { k with reform := none } ∧
      t.ranks = s.ranks.map fun (r : CommRank) => if r.comm = n ∧ r.excluded = false ∧ r.state = 2 then { r with state := 1 } else r)) ∧
  (∀ (n i e : Nat) (r : CommRank) (s : State), s.rank? n i = some r → r.epoch < e →
    let u := (s.excludeRank n i).updRank n i fun r => { r with excluded := true }
    exec (.exclusionNotice n i e) s = .next u ∧ exec (.stepRejection n i e) s = .next u)
end

