-- ==== Sys2Proof/Laws/State.lean ====
section
/-! SUPPORT. Reading back what an update wrote: finite maps, and the fields of the state under its updates. -/
namespace Sys2Proof

variable {α : Type}

@[simp] theorem NMap.look_nil (k : Nat) : NMap.look ([] : NMap α) k = none := rfl

@[simp] theorem NMap.look_cons (j k : Nat) (a : α) (m : NMap α) :
    NMap.look ((j, a) :: m) k = if j = k then some a else NMap.look m k := by
  simp [NMap.look]

@[simp] theorem NMap.look_set (m : NMap α) (k j : Nat) (a : α) :
    (m.set k a).look j = if k = j then some a else m.look j := by
  induction m with
  | nil => simp [NMap.set]
  | cons p m ih =>
    obtain ⟨i, b⟩ := p
    simp only [NMap.set]
    by_cases h : i = k
    · subst h
      simp only [beq_self_eq_true, if_true, NMap.look_cons]
      split <;> rfl
    · rw [if_neg (by simpa using h), NMap.look_cons, NMap.look_cons, ih]
      by_cases hij : i = j <;> by_cases hkj : k = j <;> simp_all

@[simp] theorem NMap.get_set (d : α) (m : NMap α) (k j : Nat) (a : α) :
    (m.set k a).get d j = if k = j then a else m.get d j := by
  simp only [NMap.get, NMap.look_set]
  split <;> rfl

@[simp] theorem NMap.look_upd (m : NMap α) (k j : Nat) (f : α → α) :
    (m.upd k f).look j = if k = j then (m.look k).map f else m.look j := by
  unfold NMap.upd
  split
  · next a h => simp [h]
  · next h =>
    split
    · next e => subst e; simp [h]
    · rfl

/-- Two writes of one key leave the second. -/
theorem NMap.set_set (m : NMap α) (k : Nat) (a b : α) : (m.set k a).set k b = m.set k b := by
  induction m with
  | nil => simp [NMap.set]
  | cons p m ih =>
    obtain ⟨i, c⟩ := p
    by_cases h : i = k <;> simp_all [NMap.set]

theorem NMap.upd_eq_set {m : NMap α} {k : Nat} {a : α} (h : m.look k = some a) (f : α → α) :
    m.upd k f = m.set k (f a) := by simp [NMap.upd, h]

theorem NMap.upd_eq_self {m : NMap α} {k : Nat} (h : m.look k = none) (f : α → α) : m.upd k f = m := by
  simp [NMap.upd, h]

/-- Reading a map whose values have all been changed by `f`, which sees the key. -/
theorem NMap.look_map (m : NMap α) (f : Nat → α → α) (k : Nat) :
    NMap.look (m.map fun p => (p.1, f p.1 p.2)) k = (m.look k).map (f k) := by
  induction m with
  | nil => rfl
  | cons p m ih =>
    obtain ⟨i, c⟩ := p
    simp only [List.map_cons, NMap.look_cons, ih]
    by_cases h : i = k <;> simp [h]

theorem NMap.mem_of_look {m : NMap α} {k : Nat} {a : α} (h : m.look k = some a) : (k, a) ∈ m := by
  induction m with
  | nil => simp at h
  | cons p m ih =>
    obtain ⟨i, c⟩ := p
    rw [NMap.look_cons] at h
    split at h
    · next e => cases h; subst e; simp
    · exact List.mem_cons_of_mem _ (ih h)

namespace Machine

@[simp] theorem group?_updGroup (s : State) (g n : Nat) (f : Group → Group) :
    (s.updGroup g f).group? n = if g = n then (s.group? g).map f else s.group? n := by
  simp [State.updGroup, State.group?]

@[simp] theorem group?_setGroup (s : State) (g n : Nat) (x : Group) :
    (s.setGroup g x).group? n = if g = n then some x else s.group? n := by
  simp [State.setGroup, State.group?]

theorem updGroup_eq_setGroup {s : State} {gid : Nat} {g : Group} (h : s.group? gid = some g) (f : Group → Group) :
    s.updGroup gid f = s.setGroup gid (f g) := by
  simp only [State.updGroup, State.setGroup]
  rw [NMap.upd_eq_set h]

@[simp] theorem setGroup_setGroup (s : State) (gid : Nat) (a b : Group) :
    (s.setGroup gid a).setGroup gid b = s.setGroup gid b := by
  simp [State.setGroup, NMap.set_set]

@[simp] theorem updGroup_setGroup (s : State) (gid : Nat) (a : Group) (f : Group → Group) :
    (s.setGroup gid a).updGroup gid f = s.setGroup gid (f a) := by
  rw [updGroup_eq_setGroup (g := a) (by simp)]
  simp

@[simp] theorem mem_updGroup (s : State) (g : Nat) (f : Group → Group) : (s.updGroup g f).mem = s.mem := rfl
@[simp] theorem wgs_updGroup (s : State) (g : Nat) (f : Group → Group) : (s.updGroup g f).wgs = s.wgs := rfl
@[simp] theorem basins_updGroup (s : State) (g : Nat) (f : Group → Group) : (s.updGroup g f).basins = s.basins := rfl
@[simp] theorem cores_updGroup (s : State) (g : Nat) (f : Group → Group) : (s.updGroup g f).cores = s.cores := rfl
@[simp] theorem regions_updGroup (s : State) (g : Nat) (f : Group → Group) : (s.updGroup g f).regions = s.regions := rfl
@[simp] theorem cur_updGroup (s : State) (g : Nat) (f : Group → Group) : (s.updGroup g f).cur = s.cur := rfl
@[simp] theorem gtb_updGroup (s : State) (g : Nat) (f : Group → Group) : (s.updGroup g f).gtb = s.gtb := rfl
@[simp] theorem mem_setGroup (s : State) (g : Nat) (x : Group) : (s.setGroup g x).mem = s.mem := rfl
@[simp] theorem wgs_setGroup (s : State) (g : Nat) (x : Group) : (s.setGroup g x).wgs = s.wgs := rfl
@[simp] theorem basins_setGroup (s : State) (g : Nat) (x : Group) : (s.setGroup g x).basins = s.basins := rfl
@[simp] theorem cores_setGroup (s : State) (g : Nat) (x : Group) : (s.setGroup g x).cores = s.cores := rfl
@[simp] theorem regions_setGroup (s : State) (g : Nat) (x : Group) : (s.setGroup g x).regions = s.regions := rfl
@[simp] theorem mem_setMem (s : State) (m : MemState) : (s.setMem m).mem = m := rfl
@[simp] theorem groups_setMem (s : State) (m : MemState) : (s.setMem m).groups = s.groups := rfl
@[simp] theorem wgs_setMem (s : State) (m : MemState) : (s.setMem m).wgs = s.wgs := rfl
@[simp] theorem cores_setMem (s : State) (m : MemState) : (s.setMem m).cores = s.cores := rfl
@[simp] theorem basins_setMem (s : State) (m : MemState) : (s.setMem m).basins = s.basins := rfl
@[simp] theorem mem_updWg (s : State) (w : Nat) (f : Workgroup → Workgroup) : (s.updWg w f).mem = s.mem := rfl
@[simp] theorem groups_updWg (s : State) (w : Nat) (f : Workgroup → Workgroup) : (s.updWg w f).groups = s.groups := rfl
@[simp] theorem look_updWg (s : State) (w v : Nat) (f : Workgroup → Workgroup) :
    (s.updWg w f).wgs.look v = if w = v then (s.wgs.look w).map f else s.wgs.look v := by simp [State.updWg]

@[simp] theorem core_updCore (s : State) (c d : Nat) (f : Core → Core) :
    (s.updCore c f).core d = if c = d then f (s.core c) else s.core d := by
  simp [State.updCore, State.core, State.setCore]
@[simp] theorem mem_updCore (s : State) (c : Nat) (f : Core → Core) : (s.updCore c f).mem = s.mem := rfl
@[simp] theorem groups_updCore (s : State) (c : Nat) (f : Core → Core) : (s.updCore c f).groups = s.groups := rfl
@[simp] theorem basin_updBasin (s : State) (b d : Nat) (f : Basin → Basin) :
    (s.updBasin b f).basin d = if b = d then f (s.basin b) else s.basin d := by
  simp [State.updBasin, State.basin, State.setBasin]
@[simp] theorem mem_updBasin (s : State) (b : Nat) (f : Basin → Basin) : (s.updBasin b f).mem = s.mem := rfl
@[simp] theorem groups_updBasin (s : State) (b : Nat) (f : Basin → Basin) : (s.updBasin b f).groups = s.groups := rfl

@[simp] theorem look_setWg (s : State) (w v : Nat) (x : Workgroup) :
    (s.setWg w x).wgs.look v = if w = v then some x else s.wgs.look v := by simp [State.setWg]
@[simp] theorem look_updRegion (s : State) (r q : Nat) (f : Region → Region) :
    (s.updRegion r f).regions.look q = if r = q then (s.regions.look r).map f else s.regions.look q := by simp [State.updRegion]
@[simp] theorem core_setCore (s : State) (c d : Nat) (x : Core) : (s.setCore c x).core d = if c = d then x else s.core d := by
  simp [State.core, State.setCore]
@[simp] theorem basin_setBasin (s : State) (b d : Nat) (x : Basin) : (s.setBasin b x).basin d = if b = d then x else s.basin d := by
  simp [State.basin, State.setBasin]
@[simp] theorem stack_setStack (s : State) (k j : Nat) (x : StackState) : (s.setStack k x).stack j = if k = j then x else s.stack j := by
  simp [State.stack, State.setStack]
@[simp] theorem seal_setSeal (s : State) (k j : Nat) (x : SealState) : (s.setSeal k x).seal j = if k = j then x else s.seal j := by
  simp [State.seal, State.setSeal]
/-- What a basin register reads after one has been written. -/
@[simp] theorem lookupReg_assignReg (l : List (BReg × DWord)) (r q : BReg) (v : DWord) :
    lookupReg (assignReg l r v) q = if r = q then v else lookupReg l q := by
  induction l with
  | nil => by_cases h : r = q <;> simp [assignReg, lookupReg, h]
  | cons p l ih =>
    obtain ⟨k, w⟩ := p
    by_cases h : k = r <;> by_cases hq : r = q <;> by_cases hk : k = q <;> simp_all [assignReg, lookupReg]
@[simp] theorem reg_setReg (s : State) (b d : Nat) (r q : BReg) (v : Nat) :
    (s.setReg b r v).reg d q = if b = d ∧ r = q then v % 2 ^ 64 else s.reg d q := by
  by_cases h : b = d <;> by_cases hq : r = q <;> simp [State.setReg, State.reg, h, hq]

/-! The fields each update leaves as they were. -/

@[simp] theorem updGroup_keeps (s : State) (g : Nat) (f : Group → Group) :
    (s.updGroup g f).hbm = s.hbm ∧ (s.updGroup g f).seals = s.seals ∧ (s.updGroup g f).keyGen = s.keyGen ∧ (s.updGroup g f).mxSaved = s.mxSaved ∧
    (s.updGroup g f).grids = s.grids ∧ (s.updGroup g f).nextWg = s.nextWg ∧ (s.updGroup g f).nextLid = s.nextLid ∧
    (s.updGroup g f).startPtr = s.startPtr ∧ (s.updGroup g f).rcbPend = s.rcbPend ∧ (s.updGroup g f).steppe = s.steppe ∧
    (s.updGroup g f).slotGen = s.slotGen ∧ (s.updGroup g f).comms = s.comms ∧ (s.updGroup g f).ranks = s.ranks ∧
    (s.updGroup g f).notices = s.notices ∧ (s.updGroup g f).bells = s.bells ∧ (s.updGroup g f).sent = s.sent ∧
    (s.updGroup g f).barReqs = s.barReqs ∧ (s.updGroup g f).nextReq = s.nextReq ∧ (s.updGroup g f).cxlReqs = s.cxlReqs ∧
    (s.updGroup g f).atsHeld = s.atsHeld ∧ (s.updGroup g f).atsWaits = s.atsWaits ∧ (s.updGroup g f).replies = s.replies ∧
    (s.updGroup g f).meas = s.meas ∧ (s.updGroup g f).moduleId = s.moduleId ∧ (s.updGroup g f).full = s.full ∧
    (s.updGroup g f).trained = s.trained ∧ (s.updGroup g f).firmware = s.firmware ∧ (s.updGroup g f).irqs = s.irqs ∧
    (s.updGroup g f).agenda = s.agenda ∧ (s.updGroup g f).later = s.later ∧ (s.updGroup g f).rotor = s.rotor ∧ (s.updGroup g f).phase = s.phase ∧
    (s.updGroup g f).parkNext = s.parkNext ∧ (s.updGroup g f).freeCount = s.freeCount ∧
    (s.updGroup g f).aer = s.aer ∧ (s.updGroup g f).cfgWrites = s.cfgWrites :=
  ⟨rfl, rfl, rfl, rfl, rfl, rfl, rfl, rfl, rfl, rfl, rfl, rfl, rfl, rfl, rfl, rfl, rfl, rfl, rfl, rfl, rfl, rfl, rfl, rfl, rfl, rfl, rfl, rfl,
    rfl, rfl, rfl, rfl, rfl, rfl, rfl,
    rfl⟩
@[simp] theorem setGroup_keeps (s : State) (g : Nat) (x : Group) :
    (s.setGroup g x).hbm = s.hbm ∧ (s.setGroup g x).seals = s.seals ∧ (s.setGroup g x).keyGen = s.keyGen ∧ (s.setGroup g x).mxSaved = s.mxSaved ∧
    (s.setGroup g x).grids = s.grids ∧ (s.setGroup g x).nextWg = s.nextWg ∧ (s.setGroup g x).nextLid = s.nextLid ∧
    (s.setGroup g x).startPtr = s.startPtr ∧ (s.setGroup g x).rcbPend = s.rcbPend ∧ (s.setGroup g x).steppe = s.steppe ∧
    (s.setGroup g x).slotGen = s.slotGen ∧ (s.setGroup g x).comms = s.comms ∧ (s.setGroup g x).ranks = s.ranks ∧
    (s.setGroup g x).notices = s.notices ∧ (s.setGroup g x).bells = s.bells ∧ (s.setGroup g x).sent = s.sent ∧
    (s.setGroup g x).barReqs = s.barReqs ∧ (s.setGroup g x).nextReq = s.nextReq ∧ (s.setGroup g x).cxlReqs = s.cxlReqs ∧
    (s.setGroup g x).atsHeld = s.atsHeld ∧ (s.setGroup g x).atsWaits = s.atsWaits ∧ (s.setGroup g x).replies = s.replies ∧
    (s.setGroup g x).meas = s.meas ∧ (s.setGroup g x).moduleId = s.moduleId ∧ (s.setGroup g x).gtb = s.gtb ∧ (s.setGroup g x).full = s.full ∧
    (s.setGroup g x).trained = s.trained ∧ (s.setGroup g x).firmware = s.firmware ∧ (s.setGroup g x).irqs = s.irqs ∧
    (s.setGroup g x).agenda = s.agenda ∧ (s.setGroup g x).later = s.later ∧ (s.setGroup g x).cur = s.cur ∧ (s.setGroup g x).rotor = s.rotor ∧
    (s.setGroup g x).phase = s.phase ∧ (s.setGroup g x).parkNext = s.parkNext ∧ (s.setGroup g x).freeCount = s.freeCount ∧
    (s.setGroup g x).aer = s.aer ∧ (s.setGroup g x).cfgWrites = s.cfgWrites :=
  ⟨rfl, rfl, rfl, rfl, rfl, rfl, rfl, rfl, rfl, rfl, rfl, rfl, rfl, rfl, rfl, rfl, rfl, rfl, rfl, rfl, rfl, rfl, rfl, rfl, rfl, rfl, rfl, rfl,
    rfl, rfl, rfl, rfl, rfl, rfl, rfl, rfl, rfl,
    rfl⟩
@[simp] theorem updWg_keeps (s : State) (w : Nat) (f : Workgroup → Workgroup) :
    (s.updWg w f).basins = s.basins ∧ (s.updWg w f).cores = s.cores ∧ (s.updWg w f).hbm = s.hbm ∧ (s.updWg w f).seals = s.seals ∧
    (s.updWg w f).keyGen = s.keyGen ∧ (s.updWg w f).mxSaved = s.mxSaved ∧ (s.updWg w f).grids = s.grids ∧ (s.updWg w f).nextWg = s.nextWg ∧
    (s.updWg w f).nextLid = s.nextLid ∧ (s.updWg w f).startPtr = s.startPtr ∧ (s.updWg w f).regions = s.regions ∧
    (s.updWg w f).rcbPend = s.rcbPend ∧ (s.updWg w f).steppe = s.steppe ∧ (s.updWg w f).slotGen = s.slotGen ∧ (s.updWg w f).comms = s.comms ∧
    (s.updWg w f).ranks = s.ranks ∧ (s.updWg w f).notices = s.notices ∧ (s.updWg w f).bells = s.bells ∧ (s.updWg w f).sent = s.sent ∧
    (s.updWg w f).barReqs = s.barReqs ∧ (s.updWg w f).nextReq = s.nextReq ∧ (s.updWg w f).cxlReqs = s.cxlReqs ∧
    (s.updWg w f).atsHeld = s.atsHeld ∧ (s.updWg w f).atsWaits = s.atsWaits ∧ (s.updWg w f).replies = s.replies ∧ (s.updWg w f).meas = s.meas ∧
    (s.updWg w f).moduleId = s.moduleId ∧ (s.updWg w f).gtb = s.gtb ∧ (s.updWg w f).full = s.full ∧ (s.updWg w f).trained = s.trained ∧
    (s.updWg w f).firmware = s.firmware ∧ (s.updWg w f).irqs = s.irqs ∧ (s.updWg w f).agenda = s.agenda ∧ (s.updWg w f).later = s.later ∧
    (s.updWg w f).cur = s.cur ∧ (s.updWg w f).rotor = s.rotor ∧ (s.updWg w f).phase = s.phase ∧ (s.updWg w f).parkNext = s.parkNext ∧
    (s.updWg w f).freeCount = s.freeCount ∧
    (s.updWg w f).aer = s.aer ∧ (s.updWg w f).cfgWrites = s.cfgWrites :=
  ⟨rfl, rfl, rfl, rfl, rfl, rfl, rfl, rfl, rfl, rfl, rfl, rfl, rfl, rfl, rfl, rfl, rfl, rfl, rfl, rfl, rfl, rfl, rfl, rfl, rfl, rfl, rfl, rfl,
    rfl, rfl, rfl, rfl, rfl, rfl, rfl, rfl, rfl, rfl, rfl, rfl,
    rfl⟩
@[simp] theorem setWg_keeps (s : State) (w : Nat) (x : Workgroup) :
    (s.setWg w x).mem = s.mem ∧ (s.setWg w x).basins = s.basins ∧ (s.setWg w x).cores = s.cores ∧ (s.setWg w x).hbm = s.hbm ∧
    (s.setWg w x).seals = s.seals ∧ (s.setWg w x).keyGen = s.keyGen ∧ (s.setWg w x).groups = s.groups ∧ (s.setWg w x).mxSaved = s.mxSaved ∧
    (s.setWg w x).grids = s.grids ∧ (s.setWg w x).nextWg = s.nextWg ∧ (s.setWg w x).nextLid = s.nextLid ∧ (s.setWg w x).startPtr = s.startPtr ∧
    (s.setWg w x).regions = s.regions ∧ (s.setWg w x).rcbPend = s.rcbPend ∧ (s.setWg w x).steppe = s.steppe ∧ (s.setWg w x).slotGen = s.slotGen ∧
    (s.setWg w x).comms = s.comms ∧ (s.setWg w x).ranks = s.ranks ∧ (s.setWg w x).notices = s.notices ∧ (s.setWg w x).bells = s.bells ∧
    (s.setWg w x).sent = s.sent ∧ (s.setWg w x).barReqs = s.barReqs ∧ (s.setWg w x).nextReq = s.nextReq ∧ (s.setWg w x).cxlReqs = s.cxlReqs ∧
    (s.setWg w x).atsHeld = s.atsHeld ∧ (s.setWg w x).atsWaits = s.atsWaits ∧ (s.setWg w x).replies = s.replies ∧ (s.setWg w x).meas = s.meas ∧
    (s.setWg w x).moduleId = s.moduleId ∧ (s.setWg w x).gtb = s.gtb ∧ (s.setWg w x).full = s.full ∧ (s.setWg w x).trained = s.trained ∧
    (s.setWg w x).firmware = s.firmware ∧ (s.setWg w x).irqs = s.irqs ∧ (s.setWg w x).agenda = s.agenda ∧ (s.setWg w x).later = s.later ∧
    (s.setWg w x).cur = s.cur ∧ (s.setWg w x).rotor = s.rotor ∧ (s.setWg w x).phase = s.phase ∧ (s.setWg w x).parkNext = s.parkNext ∧
    (s.setWg w x).freeCount = s.freeCount ∧
    (s.setWg w x).aer = s.aer ∧ (s.setWg w x).cfgWrites = s.cfgWrites :=
  ⟨rfl, rfl, rfl, rfl, rfl, rfl, rfl, rfl, rfl, rfl, rfl, rfl, rfl, rfl, rfl, rfl, rfl, rfl, rfl, rfl, rfl, rfl, rfl, rfl, rfl, rfl, rfl, rfl,
    rfl, rfl, rfl, rfl, rfl, rfl, rfl, rfl, rfl, rfl, rfl, rfl, rfl, rfl,
    rfl⟩
@[simp] theorem updCore_keeps (s : State) (c : Nat) (f : Core → Core) :
    (s.updCore c f).basins = s.basins ∧ (s.updCore c f).hbm = s.hbm ∧ (s.updCore c f).seals = s.seals ∧ (s.updCore c f).keyGen = s.keyGen ∧
    (s.updCore c f).wgs = s.wgs ∧ (s.updCore c f).mxSaved = s.mxSaved ∧ (s.updCore c f).grids = s.grids ∧ (s.updCore c f).nextWg = s.nextWg ∧
    (s.updCore c f).nextLid = s.nextLid ∧ (s.updCore c f).startPtr = s.startPtr ∧ (s.updCore c f).regions = s.regions ∧
    (s.updCore c f).rcbPend = s.rcbPend ∧ (s.updCore c f).steppe = s.steppe ∧ (s.updCore c f).slotGen = s.slotGen ∧
    (s.updCore c f).comms = s.comms ∧ (s.updCore c f).ranks = s.ranks ∧ (s.updCore c f).notices = s.notices ∧ (s.updCore c f).bells = s.bells ∧
    (s.updCore c f).sent = s.sent ∧ (s.updCore c f).barReqs = s.barReqs ∧ (s.updCore c f).nextReq = s.nextReq ∧
    (s.updCore c f).cxlReqs = s.cxlReqs ∧ (s.updCore c f).atsHeld = s.atsHeld ∧ (s.updCore c f).atsWaits = s.atsWaits ∧
    (s.updCore c f).replies = s.replies ∧ (s.updCore c f).meas = s.meas ∧ (s.updCore c f).moduleId = s.moduleId ∧ (s.updCore c f).gtb = s.gtb ∧
    (s.updCore c f).full = s.full ∧ (s.updCore c f).trained = s.trained ∧ (s.updCore c f).firmware = s.firmware ∧ (s.updCore c f).irqs = s.irqs ∧
    (s.updCore c f).agenda = s.agenda ∧ (s.updCore c f).later = s.later ∧ (s.updCore c f).cur = s.cur ∧ (s.updCore c f).rotor = s.rotor ∧
    (s.updCore c f).phase = s.phase ∧ (s.updCore c f).parkNext = s.parkNext ∧ (s.updCore c f).freeCount = s.freeCount ∧
    (s.updCore c f).aer = s.aer ∧ (s.updCore c f).cfgWrites = s.cfgWrites :=
  ⟨rfl, rfl, rfl, rfl, rfl, rfl, rfl, rfl, rfl, rfl, rfl, rfl, rfl, rfl, rfl, rfl, rfl, rfl, rfl, rfl, rfl, rfl, rfl, rfl, rfl, rfl, rfl, rfl,
    rfl, rfl, rfl, rfl, rfl, rfl, rfl, rfl, rfl, rfl, rfl, rfl,
    rfl⟩
@[simp] theorem setCore_keeps (s : State) (c : Nat) (x : Core) :
    (s.setCore c x).mem = s.mem ∧ (s.setCore c x).basins = s.basins ∧ (s.setCore c x).hbm = s.hbm ∧ (s.setCore c x).seals = s.seals ∧
    (s.setCore c x).keyGen = s.keyGen ∧ (s.setCore c x).groups = s.groups ∧ (s.setCore c x).wgs = s.wgs ∧ (s.setCore c x).mxSaved = s.mxSaved ∧
    (s.setCore c x).grids = s.grids ∧ (s.setCore c x).nextWg = s.nextWg ∧ (s.setCore c x).nextLid = s.nextLid ∧
    (s.setCore c x).startPtr = s.startPtr ∧ (s.setCore c x).regions = s.regions ∧ (s.setCore c x).rcbPend = s.rcbPend ∧
    (s.setCore c x).steppe = s.steppe ∧ (s.setCore c x).slotGen = s.slotGen ∧ (s.setCore c x).comms = s.comms ∧ (s.setCore c x).ranks = s.ranks ∧
    (s.setCore c x).notices = s.notices ∧ (s.setCore c x).bells = s.bells ∧ (s.setCore c x).sent = s.sent ∧ (s.setCore c x).barReqs = s.barReqs ∧
    (s.setCore c x).nextReq = s.nextReq ∧ (s.setCore c x).cxlReqs = s.cxlReqs ∧ (s.setCore c x).atsHeld = s.atsHeld ∧
    (s.setCore c x).atsWaits = s.atsWaits ∧ (s.setCore c x).replies = s.replies ∧ (s.setCore c x).meas = s.meas ∧
    (s.setCore c x).moduleId = s.moduleId ∧ (s.setCore c x).gtb = s.gtb ∧ (s.setCore c x).full = s.full ∧ (s.setCore c x).trained = s.trained ∧
    (s.setCore c x).firmware = s.firmware ∧ (s.setCore c x).irqs = s.irqs ∧ (s.setCore c x).agenda = s.agenda ∧ (s.setCore c x).later = s.later ∧
    (s.setCore c x).cur = s.cur ∧ (s.setCore c x).rotor = s.rotor ∧ (s.setCore c x).phase = s.phase ∧ (s.setCore c x).parkNext = s.parkNext ∧
    (s.setCore c x).freeCount = s.freeCount ∧
    (s.setCore c x).aer = s.aer ∧ (s.setCore c x).cfgWrites = s.cfgWrites :=
  ⟨rfl, rfl, rfl, rfl, rfl, rfl, rfl, rfl, rfl, rfl, rfl, rfl, rfl, rfl, rfl, rfl, rfl, rfl, rfl, rfl, rfl, rfl, rfl, rfl, rfl, rfl, rfl, rfl,
    rfl, rfl, rfl, rfl, rfl, rfl, rfl, rfl, rfl, rfl, rfl, rfl, rfl, rfl,
    rfl⟩
@[simp] theorem updBasin_keeps (s : State) (b : Nat) (f : Basin → Basin) :
    (s.updBasin b f).cores = s.cores ∧ (s.updBasin b f).hbm = s.hbm ∧ (s.updBasin b f).seals = s.seals ∧ (s.updBasin b f).keyGen = s.keyGen ∧
    (s.updBasin b f).wgs = s.wgs ∧ (s.updBasin b f).mxSaved = s.mxSaved ∧ (s.updBasin b f).grids = s.grids ∧ (s.updBasin b f).nextWg = s.nextWg ∧
    (s.updBasin b f).nextLid = s.nextLid ∧ (s.updBasin b f).startPtr = s.startPtr ∧ (s.updBasin b f).regions = s.regions ∧
    (s.updBasin b f).rcbPend = s.rcbPend ∧ (s.updBasin b f).steppe = s.steppe ∧ (s.updBasin b f).slotGen = s.slotGen ∧
    (s.updBasin b f).comms = s.comms ∧ (s.updBasin b f).ranks = s.ranks ∧ (s.updBasin b f).notices = s.notices ∧
    (s.updBasin b f).bells = s.bells ∧ (s.updBasin b f).sent = s.sent ∧ (s.updBasin b f).barReqs = s.barReqs ∧
    (s.updBasin b f).nextReq = s.nextReq ∧ (s.updBasin b f).cxlReqs = s.cxlReqs ∧ (s.updBasin b f).atsHeld = s.atsHeld ∧
    (s.updBasin b f).atsWaits = s.atsWaits ∧ (s.updBasin b f).replies = s.replies ∧ (s.updBasin b f).meas = s.meas ∧
    (s.updBasin b f).moduleId = s.moduleId ∧ (s.updBasin b f).gtb = s.gtb ∧ (s.updBasin b f).full = s.full ∧
    (s.updBasin b f).trained = s.trained ∧ (s.updBasin b f).firmware = s.firmware ∧ (s.updBasin b f).irqs = s.irqs ∧
    (s.updBasin b f).agenda = s.agenda ∧ (s.updBasin b f).later = s.later ∧ (s.updBasin b f).cur = s.cur ∧ (s.updBasin b f).rotor = s.rotor ∧
    (s.updBasin b f).phase = s.phase ∧ (s.updBasin b f).parkNext = s.parkNext ∧ (s.updBasin b f).freeCount = s.freeCount ∧
    (s.updBasin b f).aer = s.aer ∧ (s.updBasin b f).cfgWrites = s.cfgWrites :=
  ⟨rfl, rfl, rfl, rfl, rfl, rfl, rfl, rfl, rfl, rfl, rfl, rfl, rfl, rfl, rfl, rfl, rfl, rfl, rfl, rfl, rfl, rfl, rfl, rfl, rfl, rfl, rfl, rfl,
    rfl, rfl, rfl, rfl, rfl, rfl, rfl, rfl, rfl, rfl, rfl, rfl,
    rfl⟩
@[simp] theorem setBasin_keeps (s : State) (b : Nat) (x : Basin) :
    (s.setBasin b x).mem = s.mem ∧ (s.setBasin b x).cores = s.cores ∧ (s.setBasin b x).hbm = s.hbm ∧ (s.setBasin b x).seals = s.seals ∧
    (s.setBasin b x).keyGen = s.keyGen ∧ (s.setBasin b x).groups = s.groups ∧ (s.setBasin b x).wgs = s.wgs ∧
    (s.setBasin b x).mxSaved = s.mxSaved ∧ (s.setBasin b x).grids = s.grids ∧ (s.setBasin b x).nextWg = s.nextWg ∧
    (s.setBasin b x).nextLid = s.nextLid ∧ (s.setBasin b x).startPtr = s.startPtr ∧ (s.setBasin b x).regions = s.regions ∧
    (s.setBasin b x).rcbPend = s.rcbPend ∧ (s.setBasin b x).steppe = s.steppe ∧ (s.setBasin b x).slotGen = s.slotGen ∧
    (s.setBasin b x).comms = s.comms ∧ (s.setBasin b x).ranks = s.ranks ∧ (s.setBasin b x).notices = s.notices ∧
    (s.setBasin b x).bells = s.bells ∧ (s.setBasin b x).sent = s.sent ∧ (s.setBasin b x).barReqs = s.barReqs ∧
    (s.setBasin b x).nextReq = s.nextReq ∧ (s.setBasin b x).cxlReqs = s.cxlReqs ∧ (s.setBasin b x).atsHeld = s.atsHeld ∧
    (s.setBasin b x).atsWaits = s.atsWaits ∧ (s.setBasin b x).replies = s.replies ∧ (s.setBasin b x).meas = s.meas ∧
    (s.setBasin b x).moduleId = s.moduleId ∧ (s.setBasin b x).gtb = s.gtb ∧ (s.setBasin b x).full = s.full ∧
    (s.setBasin b x).trained = s.trained ∧ (s.setBasin b x).firmware = s.firmware ∧ (s.setBasin b x).irqs = s.irqs ∧
    (s.setBasin b x).agenda = s.agenda ∧ (s.setBasin b x).later = s.later ∧ (s.setBasin b x).cur = s.cur ∧ (s.setBasin b x).rotor = s.rotor ∧
    (s.setBasin b x).phase = s.phase ∧ (s.setBasin b x).parkNext = s.parkNext ∧ (s.setBasin b x).freeCount = s.freeCount ∧
    (s.setBasin b x).aer = s.aer ∧ (s.setBasin b x).cfgWrites = s.cfgWrites :=
  ⟨rfl, rfl, rfl, rfl, rfl, rfl, rfl, rfl, rfl, rfl, rfl, rfl, rfl, rfl, rfl, rfl, rfl, rfl, rfl, rfl, rfl, rfl, rfl, rfl, rfl, rfl, rfl, rfl,
    rfl, rfl, rfl, rfl, rfl, rfl, rfl, rfl, rfl, rfl, rfl, rfl, rfl, rfl,
    rfl⟩
@[simp] theorem setReg_keeps (s : State) (b : Nat) (r : BReg) (v : Nat) :
    (s.setReg b r v).mem = s.mem ∧ (s.setReg b r v).cores = s.cores ∧ (s.setReg b r v).hbm = s.hbm ∧ (s.setReg b r v).seals = s.seals ∧
    (s.setReg b r v).keyGen = s.keyGen ∧ (s.setReg b r v).groups = s.groups ∧ (s.setReg b r v).wgs = s.wgs ∧
    (s.setReg b r v).mxSaved = s.mxSaved ∧ (s.setReg b r v).grids = s.grids ∧ (s.setReg b r v).nextWg = s.nextWg ∧
    (s.setReg b r v).nextLid = s.nextLid ∧ (s.setReg b r v).startPtr = s.startPtr ∧ (s.setReg b r v).regions = s.regions ∧
    (s.setReg b r v).rcbPend = s.rcbPend ∧ (s.setReg b r v).steppe = s.steppe ∧ (s.setReg b r v).slotGen = s.slotGen ∧
    (s.setReg b r v).comms = s.comms ∧ (s.setReg b r v).ranks = s.ranks ∧ (s.setReg b r v).notices = s.notices ∧
    (s.setReg b r v).bells = s.bells ∧ (s.setReg b r v).sent = s.sent ∧ (s.setReg b r v).barReqs = s.barReqs ∧
    (s.setReg b r v).nextReq = s.nextReq ∧ (s.setReg b r v).cxlReqs = s.cxlReqs ∧ (s.setReg b r v).atsHeld = s.atsHeld ∧
    (s.setReg b r v).atsWaits = s.atsWaits ∧ (s.setReg b r v).replies = s.replies ∧ (s.setReg b r v).meas = s.meas ∧
    (s.setReg b r v).moduleId = s.moduleId ∧ (s.setReg b r v).gtb = s.gtb ∧ (s.setReg b r v).full = s.full ∧
    (s.setReg b r v).trained = s.trained ∧ (s.setReg b r v).firmware = s.firmware ∧ (s.setReg b r v).irqs = s.irqs ∧
    (s.setReg b r v).agenda = s.agenda ∧ (s.setReg b r v).later = s.later ∧ (s.setReg b r v).cur = s.cur ∧ (s.setReg b r v).rotor = s.rotor ∧
    (s.setReg b r v).phase = s.phase ∧ (s.setReg b r v).parkNext = s.parkNext ∧ (s.setReg b r v).freeCount = s.freeCount ∧
    (s.setReg b r v).aer = s.aer ∧ (s.setReg b r v).cfgWrites = s.cfgWrites :=
  ⟨rfl, rfl, rfl, rfl, rfl, rfl, rfl, rfl, rfl, rfl, rfl, rfl, rfl, rfl, rfl, rfl, rfl, rfl, rfl, rfl, rfl, rfl, rfl, rfl, rfl, rfl, rfl, rfl,
    rfl, rfl, rfl, rfl, rfl, rfl, rfl, rfl, rfl, rfl, rfl, rfl, rfl, rfl,
    rfl⟩
@[simp] theorem updRegion_keeps (s : State) (r : Nat) (f : Region → Region) :
    (s.updRegion r f).mem = s.mem ∧ (s.updRegion r f).basins = s.basins ∧ (s.updRegion r f).cores = s.cores ∧ (s.updRegion r f).hbm = s.hbm ∧
    (s.updRegion r f).seals = s.seals ∧ (s.updRegion r f).keyGen = s.keyGen ∧ (s.updRegion r f).groups = s.groups ∧
    (s.updRegion r f).wgs = s.wgs ∧ (s.updRegion r f).mxSaved = s.mxSaved ∧ (s.updRegion r f).grids = s.grids ∧
    (s.updRegion r f).nextWg = s.nextWg ∧ (s.updRegion r f).nextLid = s.nextLid ∧ (s.updRegion r f).startPtr = s.startPtr ∧
    (s.updRegion r f).rcbPend = s.rcbPend ∧ (s.updRegion r f).steppe = s.steppe ∧ (s.updRegion r f).slotGen = s.slotGen ∧
    (s.updRegion r f).comms = s.comms ∧ (s.updRegion r f).ranks = s.ranks ∧ (s.updRegion r f).notices = s.notices ∧
    (s.updRegion r f).bells = s.bells ∧ (s.updRegion r f).sent = s.sent ∧ (s.updRegion r f).barReqs = s.barReqs ∧
    (s.updRegion r f).nextReq = s.nextReq ∧ (s.updRegion r f).cxlReqs = s.cxlReqs ∧ (s.updRegion r f).atsHeld = s.atsHeld ∧
    (s.updRegion r f).atsWaits = s.atsWaits ∧ (s.updRegion r f).replies = s.replies ∧ (s.updRegion r f).meas = s.meas ∧
    (s.updRegion r f).moduleId = s.moduleId ∧ (s.updRegion r f).gtb = s.gtb ∧ (s.updRegion r f).full = s.full ∧
    (s.updRegion r f).trained = s.trained ∧ (s.updRegion r f).firmware = s.firmware ∧ (s.updRegion r f).irqs = s.irqs ∧
    (s.updRegion r f).agenda = s.agenda ∧ (s.updRegion r f).later = s.later ∧ (s.updRegion r f).cur = s.cur ∧ (s.updRegion r f).rotor = s.rotor ∧
    (s.updRegion r f).phase = s.phase ∧ (s.updRegion r f).parkNext = s.parkNext ∧ (s.updRegion r f).freeCount = s.freeCount ∧
    (s.updRegion r f).aer = s.aer ∧ (s.updRegion r f).cfgWrites = s.cfgWrites :=
  ⟨rfl, rfl, rfl, rfl, rfl, rfl, rfl, rfl, rfl, rfl, rfl, rfl, rfl, rfl, rfl, rfl, rfl, rfl, rfl, rfl, rfl, rfl, rfl, rfl, rfl, rfl, rfl, rfl,
    rfl, rfl, rfl, rfl, rfl, rfl, rfl, rfl, rfl, rfl, rfl, rfl, rfl, rfl,
    rfl⟩
@[simp] theorem setMem_keeps (s : State) (m : MemState) :
    (s.setMem m).hbm = s.hbm ∧ (s.setMem m).seals = s.seals ∧ (s.setMem m).keyGen = s.keyGen ∧ (s.setMem m).mxSaved = s.mxSaved ∧
    (s.setMem m).grids = s.grids ∧ (s.setMem m).nextWg = s.nextWg ∧ (s.setMem m).nextLid = s.nextLid ∧ (s.setMem m).startPtr = s.startPtr ∧
    (s.setMem m).regions = s.regions ∧ (s.setMem m).rcbPend = s.rcbPend ∧ (s.setMem m).steppe = s.steppe ∧ (s.setMem m).slotGen = s.slotGen ∧
    (s.setMem m).comms = s.comms ∧ (s.setMem m).ranks = s.ranks ∧ (s.setMem m).notices = s.notices ∧ (s.setMem m).bells = s.bells ∧
    (s.setMem m).sent = s.sent ∧ (s.setMem m).barReqs = s.barReqs ∧ (s.setMem m).nextReq = s.nextReq ∧ (s.setMem m).cxlReqs = s.cxlReqs ∧
    (s.setMem m).atsHeld = s.atsHeld ∧ (s.setMem m).atsWaits = s.atsWaits ∧ (s.setMem m).replies = s.replies ∧ (s.setMem m).meas = s.meas ∧
    (s.setMem m).moduleId = s.moduleId ∧ (s.setMem m).gtb = s.gtb ∧ (s.setMem m).full = s.full ∧ (s.setMem m).trained = s.trained ∧
    (s.setMem m).firmware = s.firmware ∧ (s.setMem m).irqs = s.irqs ∧ (s.setMem m).agenda = s.agenda ∧ (s.setMem m).later = s.later ∧
    (s.setMem m).cur = s.cur ∧ (s.setMem m).rotor = s.rotor ∧ (s.setMem m).phase = s.phase ∧ (s.setMem m).parkNext = s.parkNext ∧
    (s.setMem m).freeCount = s.freeCount ∧
    (s.setMem m).aer = s.aer ∧ (s.setMem m).cfgWrites = s.cfgWrites :=
  ⟨rfl, rfl, rfl, rfl, rfl, rfl, rfl, rfl, rfl, rfl, rfl, rfl, rfl, rfl, rfl, rfl, rfl, rfl, rfl, rfl, rfl, rfl, rfl, rfl, rfl, rfl, rfl, rfl,
    rfl, rfl, rfl, rfl, rfl, rfl, rfl, rfl, rfl, rfl,
    rfl⟩
@[simp] theorem setStack_keeps (s : State) (k : Nat) (x : StackState) :
    (s.setStack k x).mem = s.mem ∧ (s.setStack k x).basins = s.basins ∧ (s.setStack k x).cores = s.cores ∧ (s.setStack k x).seals = s.seals ∧
    (s.setStack k x).keyGen = s.keyGen ∧ (s.setStack k x).groups = s.groups ∧ (s.setStack k x).wgs = s.wgs ∧
    (s.setStack k x).mxSaved = s.mxSaved ∧ (s.setStack k x).grids = s.grids ∧ (s.setStack k x).nextWg = s.nextWg ∧
    (s.setStack k x).nextLid = s.nextLid ∧ (s.setStack k x).startPtr = s.startPtr ∧ (s.setStack k x).regions = s.regions ∧
    (s.setStack k x).rcbPend = s.rcbPend ∧ (s.setStack k x).steppe = s.steppe ∧ (s.setStack k x).slotGen = s.slotGen ∧
    (s.setStack k x).comms = s.comms ∧ (s.setStack k x).ranks = s.ranks ∧ (s.setStack k x).notices = s.notices ∧
    (s.setStack k x).bells = s.bells ∧ (s.setStack k x).sent = s.sent ∧ (s.setStack k x).barReqs = s.barReqs ∧
    (s.setStack k x).nextReq = s.nextReq ∧ (s.setStack k x).cxlReqs = s.cxlReqs ∧ (s.setStack k x).atsHeld = s.atsHeld ∧
    (s.setStack k x).atsWaits = s.atsWaits ∧ (s.setStack k x).replies = s.replies ∧ (s.setStack k x).meas = s.meas ∧
    (s.setStack k x).moduleId = s.moduleId ∧ (s.setStack k x).gtb = s.gtb ∧ (s.setStack k x).full = s.full ∧
    (s.setStack k x).trained = s.trained ∧ (s.setStack k x).firmware = s.firmware ∧ (s.setStack k x).irqs = s.irqs ∧
    (s.setStack k x).agenda = s.agenda ∧ (s.setStack k x).later = s.later ∧ (s.setStack k x).cur = s.cur ∧ (s.setStack k x).rotor = s.rotor ∧
    (s.setStack k x).phase = s.phase ∧ (s.setStack k x).parkNext = s.parkNext ∧ (s.setStack k x).freeCount = s.freeCount ∧
    (s.setStack k x).aer = s.aer ∧ (s.setStack k x).cfgWrites = s.cfgWrites :=
  ⟨rfl, rfl, rfl, rfl, rfl, rfl, rfl, rfl, rfl, rfl, rfl, rfl, rfl, rfl, rfl, rfl, rfl, rfl, rfl, rfl, rfl, rfl, rfl, rfl, rfl, rfl, rfl, rfl,
    rfl, rfl, rfl, rfl, rfl, rfl, rfl, rfl, rfl, rfl, rfl, rfl, rfl, rfl,
    rfl⟩
@[simp] theorem setSeal_keeps (s : State) (k : Nat) (x : SealState) :
    (s.setSeal k x).mem = s.mem ∧ (s.setSeal k x).basins = s.basins ∧ (s.setSeal k x).cores = s.cores ∧ (s.setSeal k x).hbm = s.hbm ∧
    (s.setSeal k x).keyGen = s.keyGen ∧ (s.setSeal k x).groups = s.groups ∧ (s.setSeal k x).wgs = s.wgs ∧ (s.setSeal k x).mxSaved = s.mxSaved ∧
    (s.setSeal k x).grids = s.grids ∧ (s.setSeal k x).nextWg = s.nextWg ∧ (s.setSeal k x).nextLid = s.nextLid ∧
    (s.setSeal k x).startPtr = s.startPtr ∧ (s.setSeal k x).regions = s.regions ∧ (s.setSeal k x).rcbPend = s.rcbPend ∧
    (s.setSeal k x).steppe = s.steppe ∧ (s.setSeal k x).slotGen = s.slotGen ∧ (s.setSeal k x).comms = s.comms ∧ (s.setSeal k x).ranks = s.ranks ∧
    (s.setSeal k x).notices = s.notices ∧ (s.setSeal k x).bells = s.bells ∧ (s.setSeal k x).sent = s.sent ∧ (s.setSeal k x).barReqs = s.barReqs ∧
    (s.setSeal k x).nextReq = s.nextReq ∧ (s.setSeal k x).cxlReqs = s.cxlReqs ∧ (s.setSeal k x).atsHeld = s.atsHeld ∧
    (s.setSeal k x).atsWaits = s.atsWaits ∧ (s.setSeal k x).replies = s.replies ∧ (s.setSeal k x).meas = s.meas ∧
    (s.setSeal k x).moduleId = s.moduleId ∧ (s.setSeal k x).gtb = s.gtb ∧ (s.setSeal k x).full = s.full ∧ (s.setSeal k x).trained = s.trained ∧
    (s.setSeal k x).firmware = s.firmware ∧ (s.setSeal k x).irqs = s.irqs ∧ (s.setSeal k x).agenda = s.agenda ∧ (s.setSeal k x).later = s.later ∧
    (s.setSeal k x).cur = s.cur ∧ (s.setSeal k x).rotor = s.rotor ∧ (s.setSeal k x).phase = s.phase ∧ (s.setSeal k x).parkNext = s.parkNext ∧
    (s.setSeal k x).freeCount = s.freeCount ∧
    (s.setSeal k x).aer = s.aer ∧ (s.setSeal k x).cfgWrites = s.cfgWrites :=
  ⟨rfl, rfl, rfl, rfl, rfl, rfl, rfl, rfl, rfl, rfl, rfl, rfl, rfl, rfl, rfl, rfl, rfl, rfl, rfl, rfl, rfl, rfl, rfl, rfl, rfl, rfl, rfl, rfl,
    rfl, rfl, rfl, rfl, rfl, rfl, rfl, rfl, rfl, rfl, rfl, rfl, rfl, rfl,
    rfl⟩
@[simp] theorem updThread_keeps (s : State) (g l : Nat) (f : Thread → Thread) :
    (s.updThread g l f).mem = s.mem ∧ (s.updThread g l f).basins = s.basins ∧ (s.updThread g l f).cores = s.cores ∧
    (s.updThread g l f).hbm = s.hbm ∧ (s.updThread g l f).seals = s.seals ∧ (s.updThread g l f).keyGen = s.keyGen ∧
    (s.updThread g l f).wgs = s.wgs ∧ (s.updThread g l f).mxSaved = s.mxSaved ∧ (s.updThread g l f).grids = s.grids ∧
    (s.updThread g l f).nextWg = s.nextWg ∧ (s.updThread g l f).nextLid = s.nextLid ∧ (s.updThread g l f).startPtr = s.startPtr ∧
    (s.updThread g l f).regions = s.regions ∧ (s.updThread g l f).rcbPend = s.rcbPend ∧ (s.updThread g l f).steppe = s.steppe ∧
    (s.updThread g l f).slotGen = s.slotGen ∧ (s.updThread g l f).comms = s.comms ∧ (s.updThread g l f).ranks = s.ranks ∧
    (s.updThread g l f).notices = s.notices ∧ (s.updThread g l f).bells = s.bells ∧ (s.updThread g l f).sent = s.sent ∧
    (s.updThread g l f).barReqs = s.barReqs ∧ (s.updThread g l f).nextReq = s.nextReq ∧ (s.updThread g l f).cxlReqs = s.cxlReqs ∧
    (s.updThread g l f).atsHeld = s.atsHeld ∧ (s.updThread g l f).atsWaits = s.atsWaits ∧ (s.updThread g l f).replies = s.replies ∧
    (s.updThread g l f).meas = s.meas ∧ (s.updThread g l f).moduleId = s.moduleId ∧ (s.updThread g l f).gtb = s.gtb ∧
    (s.updThread g l f).full = s.full ∧ (s.updThread g l f).trained = s.trained ∧ (s.updThread g l f).firmware = s.firmware ∧
    (s.updThread g l f).irqs = s.irqs ∧ (s.updThread g l f).agenda = s.agenda ∧ (s.updThread g l f).later = s.later ∧
    (s.updThread g l f).cur = s.cur ∧ (s.updThread g l f).rotor = s.rotor ∧ (s.updThread g l f).phase = s.phase ∧
    (s.updThread g l f).parkNext = s.parkNext ∧ (s.updThread g l f).freeCount = s.freeCount ∧
    (s.updThread g l f).aer = s.aer ∧ (s.updThread g l f).cfgWrites = s.cfgWrites :=
  ⟨rfl, rfl, rfl, rfl, rfl, rfl, rfl, rfl, rfl, rfl, rfl, rfl, rfl, rfl, rfl, rfl, rfl, rfl, rfl, rfl, rfl, rfl, rfl, rfl, rfl, rfl, rfl, rfl,
    rfl, rfl, rfl, rfl, rfl, rfl, rfl, rfl, rfl, rfl, rfl, rfl, rfl, rfl,
    rfl⟩

@[simp] theorem thread?_updThread (s : State) (gid lane n l : Nat) (f : Thread → Thread) :
    (s.updThread gid lane f).thread? n l =
      if gid = n ∧ lane = l then (s.thread? gid lane).map f else s.thread? n l := by
  unfold State.updThread State.thread? Group.thread?
  rw [group?_updGroup]
  by_cases h : gid = n
  · subst h
    cases hg : s.group? gid with
    | none => simp
    | some g =>
      by_cases hl : lane = l <;> simp [hl]
  · simp [h]

end Machine
end Sys2Proof
end

