-- ==== Sys2Proof/Laws/Issue.lean ====
section
/-! SUPPORT. Issuing: where an instruction that stands ready begins, what running its lanes gives, and what the end of an issue
whose lanes all complete leaves. -/
namespace Sys2Proof.Machine

/-- The entry that issues has a thread. -/
theorem Ready.nonempty {s : State} {i : Instr} {x : Iss} {g : Group} (h : Ready s i x g) : x.lanes ≠ [] := by
  have e := h.issuer
  unfold State.issuer at e
  split at e
  · cases e
  · split at e
    · cases e
    · split at e
      · cases e
      · intro hn
        simp only [Option.some.injEq, Prod.mk.injEq] at e
        exact List.cons_ne_nil _ _ (e.2.2.trans hn)

theorem Ready.group {s : State} {i : Instr} {x : Iss} {g : Group} (h : Ready s i x g) : s.group? x.gid = some g := by
  have e := h.issuer
  unfold State.issuer at e
  split at e
  · cases e
  · split at e
    · cases e
    · next g' hg =>
      split at e
      · cases e
      · simp only [Option.some.injEq, Prod.mk.injEq] at e
        obtain ⟨rfl, rfl, -⟩ := e
        exact hg

theorem Ready.entry {s : State} {i : Instr} {x : Iss} {g : Group} (h : Ready s i x g) : s.entry g = x.lanes := by
  have e := h.issuer
  unfold State.issuer at e
  split at e
  · cases e
  · split at e
    · cases e
    · split at e
      · cases e
      · next he =>
        simp only [Option.some.injEq, Prod.mk.injEq] at e
        rw [← e.2.2, ← e.2.1]; exact he

theorem mem_foldl_pick (f : Nat × Thread → Nat × Thread → Bool) (ps : List (Nat × Thread)) (p : Nat × Thread) :
    (ps.foldl (fun b q => if f q b then q else b) p) ∈ p :: ps := by
  induction ps generalizing p with
  | nil => simp
  | cons q qs ih =>
    simp only [List.foldl_cons]
    have h := ih (if f q p then q else p)
    rcases List.mem_cons.1 h with e | e
    · rw [e]; split <;> simp
    · exact List.mem_cons_of_mem _ (List.mem_cons_of_mem _ e)

/-- The threads of the entry are eligible (R168, R169). -/
theorem eligible_of_mem_entry {s : State} {g : Group} {l : Nat} (h : l ∈ s.entry g) :
    ∃ t, (l, t) ∈ s.eligibles g := by
  unfold State.entry at h
  split at h
  · simp only at h
    split at h
    · simp at h
    · obtain ⟨⟨l', t⟩, ht, rfl⟩ := List.mem_map.1 h
      exact ⟨t, (List.mem_filter.1 (List.mem_filter.1 ht).1).1⟩
  · simp only at h
    split at h
    · obtain ⟨⟨l', t⟩, ht, rfl⟩ := List.mem_map.1 h
      exact ⟨t, (List.mem_filter.1 ht).1⟩
    · simp at h

/-- A thread of the entry is live. -/
theorem live_of_mem_entry {s : State} {g : Group} {l : Nat} (h : l ∈ s.entry g) :
    ∃ t, g.thread? l = some t ∧ t.exited = false := by
  obtain ⟨t, ht⟩ := eligible_of_mem_entry h
  obtain ⟨hm, he⟩ := List.mem_filter.1 ht
  simp only [Group.lanesOf, List.mem_filterMap, List.mem_range, Option.map_eq_some_iff, Prod.mk.injEq] at hm
  obtain ⟨a, -, t', hg, rfl, rfl⟩ := hm
  refine ⟨t', hg, ?_⟩
  simp only [State.eligible, Bool.and_eq_true, Bool.not_eq_true'] at he
  exact he.1.1.1

theorem failedLanes_eq_nil {s : State} {gid : Nat} {g : Group} (hg : s.group? gid = some g) :
    ∀ (lanes : List Nat), (∀ l ∈ lanes, ∃ th, g.thread? l = some th ∧ th.failed = none) → s.failedLanes gid lanes = []
  | [], _ => rfl
  | l :: ls, h => by
    obtain ⟨th, ht, hf⟩ := h l (by simp)
    have ih := failedLanes_eq_nil hg ls fun k hk => h k (List.mem_cons_of_mem _ hk)
    unfold State.failedLanes at *
    rw [List.filterMap_cons_none (by simp [State.thread?, hg, ht, hf]), ih]

theorem lateTraps_none {s : State} {i : Instr} {gid : Nat} {g : Group} (hg : s.group? gid = some g) (lanes : List Nat)
    (h : i.endsSfr = true → ∀ l ∈ lanes, ∀ th, g.thread? l = some th → th.late = []) : s.lateTraps i gid lanes = [] := by
  unfold State.lateTraps
  split
  · next he =>
    refine List.filterMap_eq_nil_iff.2 fun l hl => ?_
    unfold State.lateOf State.thread?
    simp only [hg, Option.bind_some]
    cases ht : g.thread? l with
    | none => rfl
    | some th => simp [h he l hl th ht]
  · rfl

theorem issueOf_act_subset (s : State) (gid : Nat) (g : Group) (lanes : List Nat) :
    ∀ l ∈ (s.issueOf gid g lanes).act, l ∈ lanes := by
  intro l hl
  simp only [State.issueOf] at hl
  split at hl
  · exact (List.mem_filter.1 hl).1
  · exact hl

theorem Ready.act {s : State} {i : Instr} {x : Iss} {g : Group} (h : Ready s i x g) : ∀ l ∈ x.act, l ∈ x.lanes := by
  have := issueOf_act_subset s x.gid g x.lanes
  rwa [h.issue] at this

/-- Where an instruction that stands ready begins: its active lanes run. -/
theorem Ready.begin {s : State} {i : Instr} {x : Iss} {g : Group} (h : Ready s i x g) :
    s.begin i x.gid g x.lanes = .ok (x, x.act, [], s) := by
  have hg := h.group
  have hf : s.failedLanes x.gid x.lanes = [] :=
    failedLanes_eq_nil hg _ fun l hl => by obtain ⟨th, a, b, -⟩ := h.free l hl; exact ⟨th, a, b⟩
  have hl : s.lateTraps i x.gid x.act = [] :=
    lateTraps_none hg _ fun he l hl th ht => by
      obtain ⟨th', a, -, b⟩ := h.free l (h.act l hl)
      rw [ht] at a; cases a; exact b he
  have hn := h.nonempty
  have ht (ls : List Nat) : ls.filter (fun _ => true) = ls := List.filter_eq_self.2 fun _ _ => rfl
  unfold State.begin
  simp only [h.issue, hf, h.legal, h.watch, h.masks, NMap.look_nil, Option.isNone_none, ht, List.map_nil, List.isEmpty_nil,
    List.nil_append, Bool.not_true, Bool.false_eq_true, if_false, hl]
  rw [if_neg (by simpa [List.isEmpty_iff] using hn)]

/-- What a jointly run instruction that stands ready answers. -/
theorem Ready.jointlyOr {s : State} {i : Instr} {x : Iss} {g : Group} (h : Ready s i x g)
    (pre : Iss → List Nat → State → Option State) (body : Iss → List Nat → State → List (Nat × LaneOut) × State) :
    Machine.jointlyOr i pre body s = match pre x x.act s with
      | some t => .next t
      | none => .next (finish i x (body x x.act s).1 (body x x.act s).2) := by
  unfold Machine.jointlyOr
  simp only [h.issuer, h.begin, List.nil_append]
  all_goals cases pre x x.act s <;> rfl

theorem Ready.jointly {s : State} {i : Instr} {x : Iss} {g : Group} (h : Ready s i x g)
    (body : Iss → List Nat → State → List (Nat × LaneOut) × State) :
    Machine.jointly i body s = .next (finish i x (body x x.act s).1 (body x x.act s).2) := by
  unfold Machine.jointly
  rw [h.jointlyOr]

/-- Lanes that complete one after another. -/
theorem runLanes_of_chain {x : Iss} {body : Nat → M LaneEnd} {e : Nat → LaneEnd} {lanes : List Nat} {s t : State}
    (h : Chain (fun l a b => body l a = .ok (e l) b) lanes s t) :
    runLanes x body lanes s = (lanes.map fun l => (l, .ok (e l)), t) := by
  induction h with
  | nil s => rfl
  | cons hr _ ih => simp [runLanes, runLane, hr, ih]

/-- A once-per-issue body that completes. -/
theorem onceFor_of_ok {x : Iss} {others run : List Nat} {body : List Nat → M LaneEnd} {e : LaneEnd} {s t : State}
    (hn : run ≠ []) (h : body run s = .ok e t) : onceFor x others body run s = (run.map (·, .ok e), t) := by
  cases run with
  | nil => exact absurd rfl hn
  | cons l ls => simp [onceFor, runLane, h]

theorem look_ok_map (lanes : List Nat) (e : Nat → LaneEnd) (l : Nat) :
    NMap.look (lanes.map fun l => (l, LaneOut.ok (e l))) l = if l ∈ lanes then some (.ok (e l)) else none := by
  induction lanes with
  | nil => rfl
  | cons k ks ih =>
    rw [List.map_cons, NMap.look_cons]
    by_cases hk : k = l
    · subst hk; simp
    · simp [hk, ih, Ne.symm hk]

theorem look_append {α : Type} (a b : NMap α) (k : Nat) : NMap.look (a ++ b) k = (NMap.look a k).orElse fun _ => NMap.look b k := by
  induction a with
  | nil => simp
  | cons p a ih =>
    obtain ⟨j, v⟩ := p
    rw [List.cons_append, NMap.look_cons, NMap.look_cons, ih]
    split <;> simp

/-- The outcomes `finish` sees when every active lane completes. -/
theorem look_all (lanes act : List Nat) (hs : ∀ l ∈ act, l ∈ lanes) (e : Nat → LaneEnd) (l : Nat) :
    NMap.look (act.map (fun l => (l, LaneOut.ok (e l))) ++
      (lanes.filter fun l => !((act.map fun l => (l, LaneOut.ok (e l))).map (·.1)).contains l).map fun l => (l, LaneOut.ok .next)) l
      = if l ∈ lanes then some (.ok (if l ∈ act then e l else .next)) else none := by
  rw [look_append, look_ok_map]
  by_cases ha : l ∈ act
  · simp [ha, hs l ha]
  · simp only [ha, if_false, Option.orElse_none]
    have := look_ok_map (lanes.filter fun l => !((act.map fun l => (l, LaneOut.ok (e l))).map (·.1)).contains l) (fun _ => .next) l
    rw [this]
    simp [ha]

theorem traps_of_ok (x : Iss) (lanes : List Nat) (e : Nat → LaneEnd) :
    (lanes.map fun l => (l, LaneOut.ok (e l))).filterMap (fun p => (outTrap x p.2).map (p.1, ·)) = [] := by
  induction lanes with
  | nil => rfl
  | cons l ls ih => simp [outTrap]

theorem outStall_of_ok (lanes : List Nat) (e : Nat → LaneEnd) : outStall (lanes.map fun l => (l, LaneOut.ok (e l))) = none := by
  induction lanes with
  | nil => rfl
  | cons l ls ih => simp [outStall]

theorem parkLanes_of_ok (x : Iss) (w : Who) (lanes : List Nat) (e : Nat → LaneEnd) (s : State) :
    parkLanes x w (lanes.map fun l => (l, LaneOut.ok (e l))) s = s := by
  unfold parkLanes
  induction lanes with
  | nil => rfl
  | cons l ls ih => rw [List.map_cons, List.foldl_cons]; exact ih

/-- A WAITM that ends moves only threads that stand at one (R327). -/
def settled (done : List Nat) (t : Thread) : Thread :=
  match t.wait with
  | some w => match w.what with
    | .mask m => if done.contains m && !t.exited then
        { t with wait := none, pc := t.pc + 4#64, hint := none, nowatch := false } else t
    | _ => t
  | none => t

theorem settled_of_wait_none {done : List Nat} {t : Thread} (h : t.wait = none) : settled done t = t := by
  simp [settled, h]

theorem settled_kept (i : Instr) (done : List Nat) (t : Thread) : ThreadKept i t (settled done t) := by
  unfold settled
  split
  · split
    · split
      · exact ⟨rfl, rfl, rfl, rfl, rfl, rfl, rfl, fun _ => rfl⟩
      · exact ⟨rfl, rfl, rfl, rfl, rfl, rfl, rfl, fun _ => rfl⟩
    · exact ⟨rfl, rfl, rfl, rfl, rfl, rfl, rfl, fun _ => rfl⟩
  · exact ⟨rfl, rfl, rfl, rfl, rfl, rfl, rfl, fun _ => rfl⟩

theorem settleMasks_eq {s : State} {gid : Nat} {g : Group} (h : s.group? gid = some g) :
    s.settleMasks gid = s.setGroup gid { g with threads := g.threads.map fun p =>
      (p.1, settled ((List.range 12).filter g.maskSettled) p.2) } := by
  unfold State.settleMasks
  simp only [h]
  rw [updGroup_eq_setGroup h]
  congr 2
  apply List.map_congr_left
  intro p _
  unfold settled
  obtain ⟨l, th⟩ := p
  cases hw : th.wait with
  | none => simp
  | some w =>
    cases hq : w.what <;> simp only [hq]
    split <;> rfl

/-- A group with a live thread at no wait, in no trap or trapped, is not blocked. -/
theorem blockedGroup_false {s : State} {g : Group} {l : Nat} {t : Thread} (h : g.thread? l = some t) (he : t.exited = false)
    (hw : t.wait = none) : s.blockedGroup g = false := by
  unfold State.blockedGroup
  have hm := NMap.mem_of_look h
  cases hx : g.exited with
  | true => simp
  | false =>
    simp only [Bool.not_false, Bool.true_and, List.all_eq_false]
    exact ⟨(l, t), hm, by simp [he, hw]⟩

theorem colIfBlocked_eq {s : State} {gid : Nat} {g : Group} {l : Nat} {t : Thread} (hg : s.group? gid = some g)
    (h : g.thread? l = some t) (he : t.exited = false) (hw : t.wait = none) : s.colIfBlocked gid = s := by
  unfold State.colIfBlocked
  simp [hg, blockedGroup_false h he hw]

/-- What a completed lane's thread is, and what becomes of the others' (`doneThread`). -/
theorem doneThread_kept (i : Instr) (x : Iss) (e : LaneEnd) (he : e ≠ .exit) (ends : Bool) (t : Thread) : ThreadKept i t (doneThread x e ends t) := by
  cases e with
  | exit => exact absurd rfl he
  | _ => exact ⟨rfl, rfl, rfl, rfl, rfl, rfl, rfl, fun _ => rfl⟩

theorem ThreadKept.trans {i : Instr} {a b c : Thread} (h : ThreadKept i a b) (k : ThreadKept i b c) : ThreadKept i a c :=
  ⟨k.prio.trans h.prio, k.stack.trans h.stack, k.spilled.trans h.spilled, k.exited.trans h.exited, k.park.trans h.park,
    k.late.trans h.late, k.clock.trans h.clock, fun p => (k.latches p).trans (h.latches p)⟩

theorem ThreadKept.refl (i : Instr) (a : Thread) : ThreadKept i a a := ⟨rfl, rfl, rfl, rfl, rfl, rfl, rfl, fun _ => rfl⟩

/-- Where a lane stands after an outcome that is neither a wait nor an exit. -/
def LaneEnd.target (x : Iss) : LaneEnd → DWord
  | .goto pc => pc
  | _ => x.pc + 4#64

/-- The group as the end of an issue leaves it before waits on masks are settled. -/
theorem shiftInactive_spec (i : Instr) (x : Iss) (g : Group) :
    ∃ f : Nat → Thread → Thread, shiftInactive i x g = { g with threads := g.threads.map fun p => (p.1, f p.1 p.2) } ∧
      ∀ l t, ThreadKept i t (f l t) ∧ (f l t).sfr = t.sfr ∧ (f l t).wait = t.wait := by
  have hid : ({ g with threads := g.threads.map fun p => (p.1, p.2) } : Group) = g := by
    have : (g.threads.map fun p => (p.1, p.2)) = g.threads := by simp
    rw [this]
  unfold shiftInactive
  split
  · next w o hw ho =>
    refine ⟨fun l t => if x.lanes.contains l && !x.act.contains l then
        t.shift (if o.code < 96 then dword (g.getV l o.code).val (if 2 ≤ o.n then (g.getV l (o.code + 1)).val else 0#32)
            else 0#64) else t, ?_, ?_⟩
    · congr 1
      apply List.map_congr_left
      rintro ⟨l, th⟩ _
      dsimp only
      split <;> rfl
    · intro l t
      dsimp only
      split
      · exact ⟨⟨rfl, rfl, rfl, rfl, rfl, rfl, rfl, fun h => by simp [hw] at h⟩, rfl, rfl⟩
      · exact ⟨ThreadKept.refl _ _, rfl, rfl⟩
  · exact ⟨fun _ t => t, hid.symm, fun l t => ⟨ThreadKept.refl _ _, rfl, rfl⟩⟩

/-- The end of an issue all of whose active lanes go on: `Done`. -/
theorem finish_done {s : State} {i : Instr} {x : Iss} {g : Group} (h : Ready s i x g) {u : State} {k : Group}
    (e : Nat → LaneEnd) (hk : u.group? x.gid = some k) (he : ∀ l ∈ x.act, e l = .next ∨ ∃ pc, e l = .goto pc)
    (hl : ∀ l ∈ x.lanes, ∃ t, k.thread? l = some t ∧ t.exited = false) :
    Done i u x (fun l => if l ∈ x.act then (e l).target x else x.pc + 4#64)
      (finish i x (x.act.map fun l => (l, .ok (e l))) u) := by
  obtain ⟨f, hf, hfk⟩ := shiftInactive_spec i x k
  let ends (l : Nat) : Bool := i.endsSfr && x.act.contains l
  let out (l : Nat) : LaneEnd := if l ∈ x.act then e l else .next
  let f2 (l : Nat) (t : Thread) : Thread := if l ∈ x.lanes then doneThread x (out l) (ends l) (f l t) else f l t
  let k1 : Group := { k with
    stall := none
    window := stepWindow i x k []
    threads := k.threads.map fun p => (p.1, f2 p.1 p.2) }
  let done := (List.range 12).filter k1.maskSettled
  let k2 : Group := { k1 with threads := k1.threads.map fun p => (p.1, settled done p.2) }
  have hout (l : Nat) : out l = .next ∨ ∃ pc, out l = .goto pc := by
    by_cases ha : l ∈ x.act
    · simpa [out, ha] using he l ha
    · simp [out, ha]
  have hwait (l : Nat) (t : Thread) (hm : l ∈ x.lanes) : (f2 l t).wait = none ∧ (f2 l t).hint = none ∧
      (f2 l t).pc = (out l).target x ∧ (f2 l t).sfr = t.sfr + (if ends l then 1 else 0) := by
    have hs := (hfk l t).2.1
    rcases hout l with ho | ⟨pc, ho⟩ <;> simp [f2, hm, ho, doneThread, LaneEnd.target, hs] <;> split <;> rfl
  have hkept (l : Nat) (t : Thread) : ThreadKept i t (f2 l t) := by
    by_cases hm : l ∈ x.lanes
    · have : out l ≠ .exit := by rcases hout l with ho | ⟨pc, ho⟩ <;> simp [ho]
      simpa [f2, hm] using (hfk l t).1.trans (doneThread_kept i x (out l) this (ends l) (f l t))
    · simpa [f2, hm] using (hfk l t).1
  have hthr (l : Nat) : k2.thread? l = (k.thread? l).map fun t => settled done (f2 l t) := by
    have h1 := NMap.look_map k1.threads (fun _ t => settled done t) l
    have h2 := NMap.look_map k.threads f2 l
    simp only [k2, Group.thread?] at *
    rw [h1, h2, Option.map_map]
    rfl
  have hfin : finish i x (x.act.map fun l => (l, .ok (e l))) u = u.setGroup x.gid k2 := by
    obtain ⟨l0, hl0⟩ := List.exists_mem_of_ne_nil _ h.nonempty
    obtain ⟨t0, ht0, hx0⟩ := hl l0 hl0
    unfold finish
    simp only [hk, traps_of_ok, outStall_of_ok, parkLanes_of_ok, NMap.keys, List.map_nil, List.isEmpty_nil, if_true]
    rw [updGroup_eq_setGroup hk]
    have e1 : (u.setGroup x.gid k1).settleMasks x.gid = u.setGroup x.gid k2 := by
      rw [settleMasks_eq (g := k1) (by simp), setGroup_setGroup]
    have e2 : (u.setGroup x.gid k2).colIfBlocked x.gid = u.setGroup x.gid k2 := by
      have hw := hwait l0 t0 hl0
      refine colIfBlocked_eq (g := k2) (l := l0) (t := f2 l0 t0) (by simp) ?_ ?_ hw.1
      · rw [hthr, ht0, Option.map_some, settled_of_wait_none hw.1]
      · rw [(hkept l0 t0).exited, hx0]
    rw [← e2, ← e1]
    congr 3
    simp only [hf, k1]
    congr 1
    rw [List.map_map]
    apply List.map_congr_left
    intro p _
    have := look_all x.lanes x.act h.act e p.1
    simp only [Function.comp] at this ⊢
    simp only [List.map_map] at *
    rw [this]
    by_cases hm : p.1 ∈ x.lanes
    · simp only [hm, if_true, f2, outThread, ends, out]
    · simp only [hm, if_false, f2]
  rw [hfin]
  refine ⟨rfl, fun n hn => by simp [Ne.symm hn], ⟨k, k2, hk, by simp, rfl⟩, ?_, ?_⟩
  · intro l hm
    obtain ⟨t, ht, hx⟩ := hl l hm
    have hw := hwait l t hm
    refine ⟨t, f2 l t, by simp [State.thread?, hk, ht], ?_, ?_, hw.2.1, hw.1, hw.2.2.2⟩
    · simp only [State.thread?, group?_setGroup, if_true, Option.bind_some, hthr, ht, Option.map_some,
        settled_of_wait_none hw.1]
    · rw [hw.2.2.1]
      by_cases ha : l ∈ x.act <;> simp [out, ha, LaneEnd.target]
  · intro l p hp
    simp only [State.thread?, hk, Option.bind_some] at hp
    refine ⟨settled done (f2 l p), ?_, (hkept l p).trans (settled_kept i _ _)⟩
    simp [State.thread?, hthr, hp]

/-- A per-thread instruction that stands ready and whose active lanes complete in turn. -/
theorem Ready.perThread {s : State} {i : Instr} {x : Iss} {g : Group} (h : Ready s i x g) {body : Iss → Nat → M LaneEnd}
    {e : Nat → LaneEnd} {u : State} {k : Group} (hc : Chain (fun l a b => body x l a = .ok (e l) b) x.act s u)
    (he : ∀ l ∈ x.act, e l = .next ∨ ∃ pc, e l = .goto pc) (hk : u.group? x.gid = some k)
    (hl : ∀ l ∈ x.lanes, ∃ t, k.thread? l = some t ∧ t.exited = false) :
    ∃ t, Machine.perThread i body s = .next t ∧ Done i u x (fun l => if l ∈ x.act then (e l).target x else x.pc + 4#64) t := by
  refine ⟨_, ?_, finish_done h e hk he hl⟩
  unfold Machine.perThread
  rw [h.jointly, runLanes_of_chain hc]

/-- A once-per-issue instruction that stands ready and whose body completes. -/
theorem Ready.oncePer {s : State} {i : Instr} {x : Iss} {g : Group} (h : Ready s i x g) {body : Iss → List Nat → M LaneEnd}
    {u : State} {k : Group} (hn : x.act ≠ []) (hb : body x x.act s = .ok .next u) (hk : u.group? x.gid = some k)
    (hl : ∀ l ∈ x.lanes, ∃ t, k.thread? l = some t ∧ t.exited = false) :
    ∃ t, Machine.oncePer i body s = .next t ∧ Done i u x (fun _ => x.pc + 4#64) t := by
  have d := finish_done h (fun _ => .next) hk (fun _ _ => .inl rfl) hl
  refine ⟨finish i x (x.act.map fun l => (l, .ok .next)) u, ?_, ?_⟩
  · unfold Machine.oncePer
    rw [h.jointly, onceFor_of_ok hn hb]
  · simpa [LaneEnd.target] using d

/-- The threads of a ready entry are live. -/
theorem Ready.live {s : State} {i : Instr} {x : Iss} {g : Group} (h : Ready s i x g) :
    ∀ l ∈ x.lanes, ∃ t, g.thread? l = some t ∧ t.exited = false :=
  fun _ hl => live_of_mem_entry (h.entry ▸ hl)

end Sys2Proof.Machine
end

