-- ==== Sys2Proof/Laws/Memory.lean ====
section
/-! SUPPORT. Byte memory: what a write leaves, and that every operation keeps the canonical form. -/
namespace Sys2Proof.Machine

/-- Canonical form with every address at least `lo`: the form an induction on the list needs. -/
def CellsFrom : Nat → List Host.Cell → Prop
  | _, [] => True
  | lo, (k, v) :: m => lo ≤ k ∧ v ≠ 0#8 ∧ CellsFrom (k + 1) m

theorem cellsFrom_weaken {lo hi : Nat} {m : List Host.Cell} (h : CellsFrom hi m) (hl : lo ≤ hi) : CellsFrom lo m := by
  cases m with
  | nil => trivial
  | cons p m => exact ⟨Nat.le_trans hl h.1, h.2⟩

theorem cellsFrom_of_wf : ∀ {m : List Host.Cell} {k : Nat} {v : Byte}, cellsWf ((k, v) :: m) = true → CellsFrom k ((k, v) :: m)
  | [], k, v, h => by simpa [cellsWf, CellsFrom] using h
  | (j, w) :: m, k, v, h => by
    simp only [cellsWf, Bool.and_eq_true, bne_iff_ne, ne_eq, decide_eq_true_eq] at h
    exact ⟨Nat.le_refl _, h.1.1, cellsFrom_weaken (cellsFrom_of_wf h.2) h.1.2⟩

theorem wf_of_cellsFrom : ∀ {m : List Host.Cell} {lo : Nat}, CellsFrom lo m → cellsWf m = true
  | [], _, _ => rfl
  | [(k, v)], _, h => by simpa [cellsWf] using h.2.1
  | (k, v) :: (j, w) :: m, _, h => by
    have hw : cellsWf ((j, w) :: m) = true := wf_of_cellsFrom h.2.2
    have hk : k < j := h.2.2.1
    simp [cellsWf, hw, hk, h.2.1]

theorem cellsWf_iff (m : List Host.Cell) : cellsWf m = true ↔ CellsFrom 0 m := by
  constructor
  · intro h
    cases m with
    | nil => trivial
    | cons p m => exact cellsFrom_weaken (cellsFrom_of_wf h) (Nat.zero_le _)
  · exact wf_of_cellsFrom

theorem cellsFrom_cellSet : ∀ {m : List Host.Cell} {lo a : Nat} (b : Byte), CellsFrom lo m → lo ≤ a → CellsFrom lo (cellSet m a b)
  | [], lo, a, b, _, ha => by
    simp only [cellSet]
    split
    · trivial
    · next h => exact ⟨ha, by simpa using h, trivial⟩
  | (k, v) :: m, lo, a, b, h, ha => by
    simp only [cellSet]
    split
    · next hk => exact ⟨h.1, h.2.1, cellsFrom_cellSet b h.2.2 hk⟩
    · next hk =>
      split
      · next e =>
        have e : k = a := by simpa using e
        subst e
        split
        · exact cellsFrom_weaken h.2.2 (by omega)
        · next hb => exact ⟨h.1, by simpa using hb, h.2.2⟩
      · next e =>
        have e : k ≠ a := by simpa using e
        split
        · exact h
        · next hb => exact ⟨ha, by simpa using hb, by omega, h.2.1, h.2.2⟩

/-- Writing a byte keeps the canonical form. -/
theorem cellSet_wf {m : List Host.Cell} (h : cellsWf m = true) (a : Nat) (b : Byte) : cellsWf (cellSet m a b) = true :=
  (cellsWf_iff _).2 (cellsFrom_cellSet b ((cellsWf_iff _).1 h) (Nat.zero_le _))

/-- Writing bytes keeps the canonical form. -/
theorem cellsWrite_wf : ∀ (bs : List Byte) {m : List Host.Cell} (_ : cellsWf m = true) (a : Nat), cellsWf (cellsWrite m a bs) = true
  | [], _, h, _ => h
  | b :: bs, _, h, a => cellsWrite_wf bs (cellSet_wf h a b) (a + 1)

theorem cellGet_of_below : ∀ {m : List Host.Cell} {lo a : Nat}, CellsFrom lo m → a < lo → cellGet m a = 0#8
  | [], _, _, _, _ => rfl
  | (k, v) :: m, lo, a, h, ha => by
    have hk : k ≠ a := by have := h.1; omega
    simp only [cellGet, beq_iff_eq, hk, if_false]
    exact cellGet_of_below h.2.2 (by have := h.1; omega)

theorem cellGet_cellSet_from : ∀ {m : List Host.Cell} {lo : Nat} (a c : Nat) (b : Byte), CellsFrom lo m →
    cellGet (cellSet m a b) c = if c = a then b else cellGet m c
  | [], _, a, c, b, _ => by
    by_cases hb : b = 0#8
    · subst hb; simp [cellSet, cellGet]
    · simp only [cellSet, beq_iff_eq, hb, if_false, cellGet]
      by_cases hc : a = c
      · simp [hc]
      · simp [hc, Ne.symm hc]
  | (k, v) :: m, lo, a, c, b, h => by
    simp only [cellSet]
    by_cases h1 : k < a
    · rw [if_pos h1]
      simp only [cellGet, beq_iff_eq, cellGet_cellSet_from a c b h.2.2]
      by_cases hk : k = c
      · have : c ≠ a := by omega
        simp [hk, this]
      · simp [hk]
    · rw [if_neg h1]
      by_cases h2 : k = a
      · subst h2
        simp only [beq_self_eq_true, if_true]
        by_cases hb : b = 0#8
        · subst hb
          simp only [beq_self_eq_true, if_true, cellGet, beq_iff_eq]
          by_cases hc : c = k
          · subst hc; rw [if_pos rfl, cellGet_of_below h.2.2 (by omega)]
          · rw [if_neg hc, if_neg (Ne.symm hc)]
        · simp only [beq_iff_eq, hb, if_false, cellGet]
          by_cases hc : k = c
          · simp [hc]
          · simp [hc, Ne.symm hc]
      · simp only [beq_iff_eq, h2, if_false]
        by_cases hb : b = 0#8
        · subst hb
          simp only [if_true]
          by_cases hc : c = a
          · subst hc
            rw [if_pos rfl]
            have hw : CellsFrom k ((k, v) :: m) := ⟨Nat.le_refl _, h.2⟩
            exact cellGet_of_below hw (by omega)
          · rw [if_neg hc]
        · simp only [hb, if_false, cellGet, beq_iff_eq]
          by_cases hc : a = c
          · simp [hc]
          · simp [hc, Ne.symm hc]

/-- A byte read after a byte written: that byte, or what the address held. -/
theorem cellGet_cellSet {m : List Host.Cell} (h : cellsWf m = true) (a c : Nat) (b : Byte) :
    cellGet (cellSet m a b) c = if c = a then b else cellGet m c :=
  cellGet_cellSet_from a c b ((cellsWf_iff _).1 h)

/-- A byte outside the bytes written reads as before. -/
theorem cellGet_cellsWrite_outside : ∀ (bs : List Byte) {m : List Host.Cell} (_ : cellsWf m = true) (a c : Nat),
    c < a ∨ a + bs.length ≤ c → cellGet (cellsWrite m a bs) c = cellGet m c
  | [], _, _, _, _, _ => rfl
  | b :: bs, m, h, a, c, hc => by
    have hl : (b :: bs).length = bs.length + 1 := rfl
    simp only [cellsWrite]
    rw [cellGet_cellsWrite_outside bs (cellSet_wf h a b) (a + 1) c (by omega), cellGet_cellSet h, if_neg (by omega)]

/-- The bytes written read back. -/
theorem cellsRead_cellsWrite : ∀ (bs : List Byte) {m : List Host.Cell} (_ : cellsWf m = true) (a : Nat),
    cellsRead (cellsWrite m a bs) a bs.length = bs
  | [], _, _, _ => rfl
  | b :: bs, m, h, a => by
    simp only [cellsWrite, List.length_cons, cellsRead]
    rw [cellsRead_cellsWrite bs (cellSet_wf h a b) (a + 1), cellGet_cellsWrite_outside bs (cellSet_wf h a b) (a + 1) a (by omega),
      cellGet_cellSet h, if_pos rfl]

theorem length_natToBytes (n v : Nat) : (natToBytes n v).length = n := by
  induction n generalizing v with
  | zero => rfl
  | succ n ih => simp [natToBytes, ih]

/-- A number's bytes are the number again. -/
theorem bytesToNat_natToBytes (n v : Nat) (h : v < 256 ^ n) : bytesToNat (natToBytes n v) = v := by
  induction n generalizing v with
  | zero => simp [natToBytes, bytesToNat] at *; omega
  | succ n ih =>
    simp only [natToBytes, bytesToNat]
    rw [ih (v / 256) (by rw [Nat.pow_succ] at h; omega)]
    simp; omega

/-- A write to main memory keeps its canonical form. -/
theorem rawWrite_wf {s : State} (h : Memory.wf s.mem.bytes = true) (key : Nat) (bs : List Byte) :
    Memory.wf (s.rawWrite key bs).mem.bytes = true := cellsWrite_wf bs h (storageOf key)

/-- What was written to main memory reads back. -/
theorem rawRead_rawWrite {s : State} (h : Memory.wf s.mem.bytes = true) (key : Nat) (bs : List Byte) :
    (s.rawWrite key bs).rawRead key bs.length = bs := cellsRead_cellsWrite bs h (storageOf key)

end Sys2Proof.Machine
end

