-- ==== Sys2Proof/Laws/PerInstr.lean ====
section
/-! SUPPORT. For every instruction by itself: its encoding fits the 32-bit instruction word (R212). -/
namespace Sys2Proof.Laws

/-- What the encoder answers for an instruction is a number of 32 bits. -/
def EncodesFit.Statement (i : Instr) : Prop := ∀ n, encodeNat i = some n → n < 2 ^ 32

theorem EncodesFit.iadd (w : BitVec 2) (d : BitVec 7) (a : BitVec 7) (b : BitVec 7) : EncodesFit.Statement (.iadd w d a b) := by
  intro n h
  cases h
  have := w.isLt
  have := d.isLt
  have := a.isLt
  have := b.isLt
  omega
theorem EncodesFit.isub (w : BitVec 2) (d : BitVec 7) (a : BitVec 7) (b : BitVec 7) : EncodesFit.Statement (.isub w d a b) := by
  intro n h
  cases h
  have := w.isLt
  have := d.isLt
  have := a.isLt
  have := b.isLt
  omega
theorem EncodesFit.iadds (w : BitVec 2) (d : BitVec 7) (a : BitVec 7) (b : BitVec 7) : EncodesFit.Statement (.iadds w d a b) := by
  intro n h
  cases h
  have := w.isLt
  have := d.isLt
  have := a.isLt
  have := b.isLt
  omega
theorem EncodesFit.isubs (w : BitVec 2) (d : BitVec 7) (a : BitVec 7) (b : BitVec 7) : EncodesFit.Statement (.isubs w d a b) := by
  intro n h
  cases h
  have := w.isLt
  have := d.isLt
  have := a.isLt
  have := b.isLt
  omega
theorem EncodesFit.imul (w : BitVec 2) (d : BitVec 7) (a : BitVec 7) (b : BitVec 7) : EncodesFit.Statement (.imul w d a b) := by
  intro n h
  cases h
  have := w.isLt
  have := d.isLt
  have := a.isLt
  have := b.isLt
  omega
theorem EncodesFit.imulhI32 (w : BitVec 2) (d : BitVec 7) (a : BitVec 7) (b : BitVec 7) : EncodesFit.Statement (.imulhI32 w d a b) := by
  intro n h
  cases h
  have := w.isLt
  have := d.isLt
  have := a.isLt
  have := b.isLt
  omega
theorem EncodesFit.imulhN32 (w : BitVec 2) (d : BitVec 7) (a : BitVec 7) (b : BitVec 7) : EncodesFit.Statement (.imulhN32 w d a b) := by
  intro n h
  cases h
  have := w.isLt
  have := d.isLt
  have := a.isLt
  have := b.isLt
  omega
theorem EncodesFit.imad (w : BitVec 2) (d : BitVec 7) (a : BitVec 7) (b : BitVec 7) : EncodesFit.Statement (.imad w d a b) := by
  intro n h
  cases h
  have := w.isLt
  have := d.isLt
  have := a.isLt
  have := b.isLt
  omega
theorem EncodesFit.idiv (w : BitVec 2) (d : BitVec 7) (a : BitVec 7) (b : BitVec 7) (s : BitVec 1) : EncodesFit.Statement (.idiv w d a b s) := by
  intro n h
  cases h
  have := w.isLt
  have := d.isLt
  have := a.isLt
  have := b.isLt
  have := s.isLt
  omega
theorem EncodesFit.irem (w : BitVec 2) (d : BitVec 7) (a : BitVec 7) (b : BitVec 7) (s : BitVec 1) : EncodesFit.Statement (.irem w d a b s) := by
  intro n h
  cases h
  have := w.isLt
  have := d.isLt
  have := a.isLt
  have := b.isLt
  have := s.isLt
  omega
theorem EncodesFit.imin (w : BitVec 2) (d : BitVec 7) (a : BitVec 7) (b : BitVec 7) (s : BitVec 1) : EncodesFit.Statement (.imin w d a b s) := by
  intro n h
  cases h
  have := w.isLt
  have := d.isLt
  have := a.isLt
  have := b.isLt
  have := s.isLt
  omega
theorem EncodesFit.imax (w : BitVec 2) (d : BitVec 7) (a : BitVec 7) (b : BitVec 7) (s : BitVec 1) : EncodesFit.Statement (.imax w d a b s) := by
  intro n h
  cases h
  have := w.isLt
  have := d.isLt
  have := a.isLt
  have := b.isLt
  have := s.isLt
  omega
theorem EncodesFit.andR (w : BitVec 2) (d : BitVec 7) (a : BitVec 7) (b : BitVec 7) : EncodesFit.Statement (.andR w d a b) := by
  intro n h
  cases h
  have := w.isLt
  have := d.isLt
  have := a.isLt
  have := b.isLt
  omega
theorem EncodesFit.orR (w : BitVec 2) (d : BitVec 7) (a : BitVec 7) (b : BitVec 7) : EncodesFit.Statement (.orR w d a b) := by
  intro n h
  cases h
  have := w.isLt
  have := d.isLt
  have := a.isLt
  have := b.isLt
  omega
theorem EncodesFit.xorR (w : BitVec 2) (d : BitVec 7) (a : BitVec 7) (b : BitVec 7) : EncodesFit.Statement (.xorR w d a b) := by
  intro n h
  cases h
  have := w.isLt
  have := d.isLt
  have := a.isLt
  have := b.isLt
  omega
theorem EncodesFit.andn (w : BitVec 2) (d : BitVec 7) (a : BitVec 7) (b : BitVec 7) : EncodesFit.Statement (.andn w d a b) := by
  intro n h
  cases h
  have := w.isLt
  have := d.isLt
  have := a.isLt
  have := b.isLt
  omega
theorem EncodesFit.shl (w : BitVec 2) (d : BitVec 7) (a : BitVec 7) (b : BitVec 7) : EncodesFit.Statement (.shl w d a b) := by
  intro n h
  cases h
  have := w.isLt
  have := d.isLt
  have := a.isLt
  have := b.isLt
  omega
theorem EncodesFit.shr (w : BitVec 2) (d : BitVec 7) (a : BitVec 7) (b : BitVec 7) : EncodesFit.Statement (.shr w d a b) := by
  intro n h
  cases h
  have := w.isLt
  have := d.isLt
  have := a.isLt
  have := b.isLt
  omega
theorem EncodesFit.sar (w : BitVec 2) (d : BitVec 7) (a : BitVec 7) (b : BitVec 7) : EncodesFit.Statement (.sar w d a b) := by
  intro n h
  cases h
  have := w.isLt
  have := d.isLt
  have := a.isLt
  have := b.isLt
  omega
theorem EncodesFit.rotl (w : BitVec 2) (d : BitVec 7) (a : BitVec 7) (b : BitVec 7) : EncodesFit.Statement (.rotl w d a b) := by
  intro n h
  cases h
  have := w.isLt
  have := d.isLt
  have := a.isLt
  have := b.isLt
  omega
theorem EncodesFit.popc (w : BitVec 2) (d : BitVec 7) (a : BitVec 7) : EncodesFit.Statement (.popc w d a) := by
  intro n h
  cases h
  have := w.isLt
  have := d.isLt
  have := a.isLt
  omega
theorem EncodesFit.clz (w : BitVec 2) (d : BitVec 7) (a : BitVec 7) : EncodesFit.Statement (.clz w d a) := by
  intro n h
  cases h
  have := w.isLt
  have := d.isLt
  have := a.isLt
  omega
theorem EncodesFit.ctz (w : BitVec 2) (d : BitVec 7) (a : BitVec 7) : EncodesFit.Statement (.ctz w d a) := by
  intro n h
  cases h
  have := w.isLt
  have := d.isLt
  have := a.isLt
  omega
theorem EncodesFit.brev (w : BitVec 2) (d : BitVec 7) (a : BitVec 7) : EncodesFit.Statement (.brev w d a) := by
  intro n h
  cases h
  have := w.isLt
  have := d.isLt
  have := a.isLt
  omega
theorem EncodesFit.bfx (w : BitVec 2) (d : BitVec 7) (a : BitVec 7) (b : BitVec 7) (s : BitVec 1) : EncodesFit.Statement (.bfx w d a b s) := by
  intro n h
  cases h
  have := w.isLt
  have := d.isLt
  have := a.isLt
  have := b.isLt
  have := s.isLt
  omega
theorem EncodesFit.bfi (w : BitVec 2) (d : BitVec 7) (a : BitVec 7) (b : BitVec 7) : EncodesFit.Statement (.bfi w d a b) := by
  intro n h
  cases h
  have := w.isLt
  have := d.isLt
  have := a.isLt
  have := b.isLt
  omega
theorem EncodesFit.bytsel (w : BitVec 2) (d : BitVec 7) (a : BitVec 7) (b : BitVec 7) : EncodesFit.Statement (.bytsel w d a b) := by
  intro n h
  cases h
  have := w.isLt
  have := d.isLt
  have := a.isLt
  have := b.isLt
  omega
theorem EncodesFit.icmp (w : BitVec 2) (c : BitVec 3) (m : BitVec 4) (a : BitVec 7) (b : BitVec 7) (o : BitVec 2) : EncodesFit.Statement (.icmp w c m a b o) := by
  intro n h
  cases h
  have := w.isLt
  have := c.isLt
  have := m.isLt
  have := a.isLt
  have := b.isLt
  have := o.isLt
  omega
theorem EncodesFit.sel (w : BitVec 2) (d : BitVec 7) (a : BitVec 7) (b : BitVec 7) (t : BitVec 2) : EncodesFit.Statement (.sel w d a b t) := by
  intro n h
  cases h
  have := w.isLt
  have := d.isLt
  have := a.isLt
  have := b.isLt
  have := t.isLt
  omega
theorem EncodesFit.iabs (w : BitVec 2) (d : BitVec 7) (a : BitVec 7) : EncodesFit.Statement (.iabs w d a) := by
  intro n h
  cases h
  have := w.isLt
  have := d.isLt
  have := a.isLt
  omega
theorem EncodesFit.ineg (w : BitVec 2) (d : BitVec 7) (a : BitVec 7) : EncodesFit.Statement (.ineg w d a) := by
  intro n h
  cases h
  have := w.isLt
  have := d.isLt
  have := a.isLt
  omega
theorem EncodesFit.mov (w : BitVec 2) (d : BitVec 7) (a : BitVec 7) : EncodesFit.Statement (.mov w d a) := by
  intro n h
  cases h
  have := w.isLt
  have := d.isLt
  have := a.isLt
  omega
theorem EncodesFit.notR (w : BitVec 2) (d : BitVec 7) (a : BitVec 7) : EncodesFit.Statement (.notR w d a) := by
  intro n h
  cases h
  have := w.isLt
  have := d.isLt
  have := a.isLt
  omega
theorem EncodesFit.dp4 (w : BitVec 2) (d : BitVec 7) (a : BitVec 7) (b : BitVec 7) (s : BitVec 1) : EncodesFit.Statement (.dp4 w d a b s) := by
  intro n h
  cases h
  have := w.isLt
  have := d.isLt
  have := a.isLt
  have := b.isLt
  have := s.isLt
  omega
theorem EncodesFit.dp2 (w : BitVec 2) (d : BitVec 7) (a : BitVec 7) (b : BitVec 7) (s : BitVec 1) : EncodesFit.Statement (.dp2 w d a b s) := by
  intro n h
  cases h
  have := w.isLt
  have := d.isLt
  have := a.isLt
  have := b.isLt
  have := s.isLt
  omega
theorem EncodesFit.lea (d : BitVec 7) (a : BitVec 7) (b : BitVec 7) : EncodesFit.Statement (.lea d a b) := by
  intro n h
  cases h
  have := d.isLt
  have := a.isLt
  have := b.isLt
  omega
theorem EncodesFit.leas (d : BitVec 7) (a : BitVec 7) (b : BitVec 7) (s : BitVec 2) : EncodesFit.Statement (.leas d a b s) := by
  intro n h
  cases h
  have := d.isLt
  have := a.isLt
  have := b.isLt
  have := s.isLt
  omega
theorem EncodesFit.iaddi (d : BitVec 7) (a : BitVec 7) (i : BitVec 9) : EncodesFit.Statement (.iaddi d a i) := by
  intro n h
  cases h
  have := d.isLt
  have := a.isLt
  have := i.isLt
  omega
theorem EncodesFit.andi (d : BitVec 7) (a : BitVec 7) (i : BitVec 9) : EncodesFit.Statement (.andi d a i) := by
  intro n h
  cases h
  have := d.isLt
  have := a.isLt
  have := i.isLt
  omega
theorem EncodesFit.ori (d : BitVec 7) (a : BitVec 7) (i : BitVec 9) : EncodesFit.Statement (.ori d a i) := by
  intro n h
  cases h
  have := d.isLt
  have := a.isLt
  have := i.isLt
  omega
theorem EncodesFit.xori (d : BitVec 7) (a : BitVec 7) (i : BitVec 9) : EncodesFit.Statement (.xori d a i) := by
  intro n h
  cases h
  have := d.isLt
  have := a.isLt
  have := i.isLt
  omega
theorem EncodesFit.shli (d : BitVec 7) (a : BitVec 7) (i : BitVec 9) : EncodesFit.Statement (.shli d a i) := by
  intro n h
  cases h
  have := d.isLt
  have := a.isLt
  have := i.isLt
  omega
theorem EncodesFit.shri (d : BitVec 7) (a : BitVec 7) (i : BitVec 9) : EncodesFit.Statement (.shri d a i) := by
  intro n h
  cases h
  have := d.isLt
  have := a.isLt
  have := i.isLt
  omega
theorem EncodesFit.sari (d : BitVec 7) (a : BitVec 7) (i : BitVec 9) : EncodesFit.Statement (.sari d a i) := by
  intro n h
  cases h
  have := d.isLt
  have := a.isLt
  have := i.isLt
  omega
theorem EncodesFit.rotli (d : BitVec 7) (a : BitVec 7) (i : BitVec 9) : EncodesFit.Statement (.rotli d a i) := by
  intro n h
  cases h
  have := d.isLt
  have := a.isLt
  have := i.isLt
  omega
theorem EncodesFit.movi (d : BitVec 7) (i : BitVec 9) : EncodesFit.Statement (.movi d i) := by
  intro n h
  cases h
  have := d.isLt
  have := i.isLt
  omega
theorem EncodesFit.imuli (d : BitVec 7) (a : BitVec 7) (i : BitVec 9) : EncodesFit.Statement (.imuli d a i) := by
  intro n h
  cases h
  have := d.isLt
  have := a.isLt
  have := i.isLt
  omega
theorem EncodesFit.icmpi (o : BitVec 2) (c : BitVec 3) (m : BitVec 4) (a : BitVec 7) (i : BitVec 9) : EncodesFit.Statement (.icmpi o c m a i) := by
  intro n h
  cases h
  have := o.isLt
  have := c.isLt
  have := m.isLt
  have := a.isLt
  have := i.isLt
  omega
theorem EncodesFit.imini (s : BitVec 1) (d : BitVec 7) (a : BitVec 7) (i : BitVec 9) : EncodesFit.Statement (.imini s d a i) := by
  intro n h
  cases h
  have := s.isLt
  have := d.isLt
  have := a.isLt
  have := i.isLt
  omega
theorem EncodesFit.imaxi (s : BitVec 1) (d : BitVec 7) (a : BitVec 7) (i : BitVec 9) : EncodesFit.Statement (.imaxi s d a i) := by
  intro n h
  cases h
  have := s.isLt
  have := d.isLt
  have := a.isLt
  have := i.isLt
  omega
theorem EncodesFit.lxch (w : BitVec 2) (d : BitVec 7) (a : BitVec 7) (b : BitVec 7) (v : BitVec 2) : EncodesFit.Statement (.lxch w d a b v) := by
  intro n h
  cases h
  have := w.isLt
  have := d.isLt
  have := a.isLt
  have := b.isLt
  have := v.isLt
  omega
theorem EncodesFit.ballot (w : BitVec 2) (d : BitVec 7) (a : BitVec 7) : EncodesFit.Statement (.ballot w d a) := by
  intro n h
  cases h
  have := w.isLt
  have := d.isLt
  have := a.isLt
  omega
theorem EncodesFit.lanesAll (w : BitVec 2) (d : BitVec 7) (a : BitVec 7) : EncodesFit.Statement (.lanesAll w d a) := by
  intro n h
  cases h
  have := w.isLt
  have := d.isLt
  have := a.isLt
  omega
theorem EncodesFit.lanesAny (w : BitVec 2) (d : BitVec 7) (a : BitVec 7) : EncodesFit.Statement (.lanesAny w d a) := by
  intro n h
  cases h
  have := w.isLt
  have := d.isLt
  have := a.isLt
  omega
theorem EncodesFit.peers (w : BitVec 2) (d : BitVec 7) (a : BitVec 7) : EncodesFit.Statement (.peers w d a) := by
  intro n h
  cases h
  have := w.isLt
  have := d.isLt
  have := a.isLt
  omega
theorem EncodesFit.rank (d : BitVec 7) (a : BitVec 7) : EncodesFit.Statement (.rank d a) := by
  intro n h
  cases h
  have := d.isLt
  have := a.isLt
  omega
theorem EncodesFit.mpopc (d : BitVec 7) (a : BitVec 7) : EncodesFit.Statement (.mpopc d a) := by
  intro n h
  cases h
  have := d.isLt
  have := a.isLt
  omega
theorem EncodesFit.lfold (w : BitVec 2) (d : BitVec 7) (a : BitVec 7) (o : BitVec 7) (k : BitVec 1) : EncodesFit.Statement (.lfold w d a o k) := by
  intro n h
  cases h
  have := w.isLt
  have := d.isLt
  have := a.isLt
  have := o.isLt
  have := k.isLt
  omega
theorem EncodesFit.fadd (w : BitVec 2) (d : BitVec 7) (a : BitVec 7) (b : BitVec 7) : EncodesFit.Statement (.fadd w d a b) := by
  intro n h
  cases h
  have := w.isLt
  have := d.isLt
  have := a.isLt
  have := b.isLt
  omega
theorem EncodesFit.fsub (w : BitVec 2) (d : BitVec 7) (a : BitVec 7) (b : BitVec 7) : EncodesFit.Statement (.fsub w d a b) := by
  intro n h
  cases h
  have := w.isLt
  have := d.isLt
  have := a.isLt
  have := b.isLt
  omega
theorem EncodesFit.fmul (w : BitVec 2) (d : BitVec 7) (a : BitVec 7) (b : BitVec 7) : EncodesFit.Statement (.fmul w d a b) := by
  intro n h
  cases h
  have := w.isLt
  have := d.isLt
  have := a.isLt
  have := b.isLt
  omega
theorem EncodesFit.fmac (w : BitVec 2) (d : BitVec 7) (a : BitVec 7) (b : BitVec 7) : EncodesFit.Statement (.fmac w d a b) := by
  intro n h
  cases h
  have := w.isLt
  have := d.isLt
  have := a.isLt
  have := b.isLt
  omega
theorem EncodesFit.fmin (w : BitVec 2) (d : BitVec 7) (a : BitVec 7) (b : BitVec 7) : EncodesFit.Statement (.fmin w d a b) := by
  intro n h
  cases h
  have := w.isLt
  have := d.isLt
  have := a.isLt
  have := b.isLt
  omega
theorem EncodesFit.fmax (w : BitVec 2) (d : BitVec 7) (a : BitVec 7) (b : BitVec 7) : EncodesFit.Statement (.fmax w d a b) := by
  intro n h
  cases h
  have := w.isLt
  have := d.isLt
  have := a.isLt
  have := b.isLt
  omega
theorem EncodesFit.fminm (w : BitVec 2) (d : BitVec 7) (a : BitVec 7) (b : BitVec 7) : EncodesFit.Statement (.fminm w d a b) := by
  intro n h
  cases h
  have := w.isLt
  have := d.isLt
  have := a.isLt
  have := b.isLt
  omega
theorem EncodesFit.fcpysgn (w : BitVec 2) (d : BitVec 7) (a : BitVec 7) (b : BitVec 7) : EncodesFit.Statement (.fcpysgn w d a b) := by
  intro n h
  cases h
  have := w.isLt
  have := d.isLt
  have := a.isLt
  have := b.isLt
  omega
theorem EncodesFit.fcmp (w : BitVec 2) (c : BitVec 3) (m : BitVec 4) (a : BitVec 7) (b : BitVec 7) (o : BitVec 2) : EncodesFit.Statement (.fcmp w c m a b o) := by
  intro n h
  cases h
  have := w.isLt
  have := c.isLt
  have := m.isLt
  have := a.isLt
  have := b.isLt
  have := o.isLt
  omega
theorem EncodesFit.fdiv (w : BitVec 2) (d : BitVec 7) (a : BitVec 7) (b : BitVec 7) : EncodesFit.Statement (.fdiv w d a b) := by
  intro n h
  cases h
  have := w.isLt
  have := d.isLt
  have := a.isLt
  have := b.isLt
  omega
theorem EncodesFit.fsqrt (w : BitVec 2) (d : BitVec 7) (a : BitVec 7) : EncodesFit.Statement (.fsqrt w d a) := by
  intro n h
  cases h
  have := w.isLt
  have := d.isLt
  have := a.isLt
  omega
theorem EncodesFit.frcp (w : BitVec 2) (d : BitVec 7) (a : BitVec 7) : EncodesFit.Statement (.frcp w d a) := by
  intro n h
  cases h
  have := w.isLt
  have := d.isLt
  have := a.isLt
  omega
theorem EncodesFit.frsq (w : BitVec 2) (d : BitVec 7) (a : BitVec 7) : EncodesFit.Statement (.frsq w d a) := by
  intro n h
  cases h
  have := w.isLt
  have := d.isLt
  have := a.isLt
  omega
theorem EncodesFit.fexp2 (w : BitVec 2) (d : BitVec 7) (a : BitVec 7) : EncodesFit.Statement (.fexp2 w d a) := by
  intro n h
  cases h
  have := w.isLt
  have := d.isLt
  have := a.isLt
  omega
theorem EncodesFit.flog2 (w : BitVec 2) (d : BitVec 7) (a : BitVec 7) : EncodesFit.Statement (.flog2 w d a) := by
  intro n h
  cases h
  have := w.isLt
  have := d.isLt
  have := a.isLt
  omega
theorem EncodesFit.fsin (w : BitVec 2) (d : BitVec 7) (a : BitVec 7) : EncodesFit.Statement (.fsin w d a) := by
  intro n h
  cases h
  have := w.isLt
  have := d.isLt
  have := a.isLt
  omega
theorem EncodesFit.fcos (w : BitVec 2) (d : BitVec 7) (a : BitVec 7) : EncodesFit.Statement (.fcos w d a) := by
  intro n h
  cases h
  have := w.isLt
  have := d.isLt
  have := a.isLt
  omega
theorem EncodesFit.ftanh (w : BitVec 2) (d : BitVec 7) (a : BitVec 7) : EncodesFit.Statement (.ftanh w d a) := by
  intro n h
  cases h
  have := w.isLt
  have := d.isLt
  have := a.isLt
  omega
theorem EncodesFit.fsigm (w : BitVec 2) (d : BitVec 7) (a : BitVec 7) : EncodesFit.Statement (.fsigm w d a) := by
  intro n h
  cases h
  have := w.isLt
  have := d.isLt
  have := a.isLt
  omega
theorem EncodesFit.ferf (w : BitVec 2) (d : BitVec 7) (a : BitVec 7) : EncodesFit.Statement (.ferf w d a) := by
  intro n h
  cases h
  have := w.isLt
  have := d.isLt
  have := a.isLt
  omega
theorem EncodesFit.fclass (w : BitVec 2) (d : BitVec 7) (a : BitVec 7) : EncodesFit.Statement (.fclass w d a) := by
  intro n h
  cases h
  have := w.isLt
  have := d.isLt
  have := a.isLt
  omega
theorem EncodesFit.hadd2 (w : BitVec 2) (d : BitVec 7) (a : BitVec 7) (b : BitVec 7) : EncodesFit.Statement (.hadd2 w d a b) := by
  intro n h
  cases h
  have := w.isLt
  have := d.isLt
  have := a.isLt
  have := b.isLt
  omega
theorem EncodesFit.hsub2 (w : BitVec 2) (d : BitVec 7) (a : BitVec 7) (b : BitVec 7) : EncodesFit.Statement (.hsub2 w d a b) := by
  intro n h
  cases h
  have := w.isLt
  have := d.isLt
  have := a.isLt
  have := b.isLt
  omega
theorem EncodesFit.hmul2 (w : BitVec 2) (d : BitVec 7) (a : BitVec 7) (b : BitVec 7) : EncodesFit.Statement (.hmul2 w d a b) := by
  intro n h
  cases h
  have := w.isLt
  have := d.isLt
  have := a.isLt
  have := b.isLt
  omega
theorem EncodesFit.hmac2 (w : BitVec 2) (d : BitVec 7) (a : BitVec 7) (b : BitVec 7) : EncodesFit.Statement (.hmac2 w d a b) := by
  intro n h
  cases h
  have := w.isLt
  have := d.isLt
  have := a.isLt
  have := b.isLt
  omega
theorem EncodesFit.badd2 (w : BitVec 2) (d : BitVec 7) (a : BitVec 7) (b : BitVec 7) : EncodesFit.Statement (.badd2 w d a b) := by
  intro n h
  cases h
  have := w.isLt
  have := d.isLt
  have := a.isLt
  have := b.isLt
  omega
theorem EncodesFit.bsub2 (w : BitVec 2) (d : BitVec 7) (a : BitVec 7) (b : BitVec 7) : EncodesFit.Statement (.bsub2 w d a b) := by
  intro n h
  cases h
  have := w.isLt
  have := d.isLt
  have := a.isLt
  have := b.isLt
  omega
theorem EncodesFit.bmul2 (w : BitVec 2) (d : BitVec 7) (a : BitVec 7) (b : BitVec 7) : EncodesFit.Statement (.bmul2 w d a b) := by
  intro n h
  cases h
  have := w.isLt
  have := d.isLt
  have := a.isLt
  have := b.isLt
  omega
theorem EncodesFit.bmac2 (w : BitVec 2) (d : BitVec 7) (a : BitVec 7) (b : BitVec 7) : EncodesFit.Statement (.bmac2 w d a b) := by
  intro n h
  cases h
  have := w.isLt
  have := d.isLt
  have := a.isLt
  have := b.isLt
  omega
theorem EncodesFit.hmin2 (w : BitVec 2) (d : BitVec 7) (a : BitVec 7) (b : BitVec 7) : EncodesFit.Statement (.hmin2 w d a b) := by
  intro n h
  cases h
  have := w.isLt
  have := d.isLt
  have := a.isLt
  have := b.isLt
  omega
theorem EncodesFit.hmax2 (w : BitVec 2) (d : BitVec 7) (a : BitVec 7) (b : BitVec 7) : EncodesFit.Statement (.hmax2 w d a b) := by
  intro n h
  cases h
  have := w.isLt
  have := d.isLt
  have := a.isLt
  have := b.isLt
  omega
theorem EncodesFit.bmin2 (w : BitVec 2) (d : BitVec 7) (a : BitVec 7) (b : BitVec 7) : EncodesFit.Statement (.bmin2 w d a b) := by
  intro n h
  cases h
  have := w.isLt
  have := d.isLt
  have := a.isLt
  have := b.isLt
  omega
theorem EncodesFit.bmax2 (w : BitVec 2) (d : BitVec 7) (a : BitVec 7) (b : BitVec 7) : EncodesFit.Statement (.bmax2 w d a b) := by
  intro n h
  cases h
  have := w.isLt
  have := d.isLt
  have := a.isLt
  have := b.isLt
  omega
theorem EncodesFit.frnd (w : BitVec 2) (d : BitVec 7) (a : BitVec 7) : EncodesFit.Statement (.frnd w d a) := by
  intro n h
  cases h
  have := w.isLt
  have := d.isLt
  have := a.isLt
  omega
theorem EncodesFit.frndNx (w : BitVec 2) (d : BitVec 7) (a : BitVec 7) : EncodesFit.Statement (.frndNx w d a) := by
  intro n h
  cases h
  have := w.isLt
  have := d.isLt
  have := a.isLt
  omega
theorem EncodesFit.cvtIntToFloat (d : BitVec 7) (a : BitVec 7) (i : BitVec 2) (f : BitVec 2) : EncodesFit.Statement (.cvtIntToFloat d a i f) := by
  intro n h
  cases h
  have := d.isLt
  have := a.isLt
  have := i.isLt
  have := f.isLt
  omega
theorem EncodesFit.cvtFloatToInt (d : BitVec 7) (a : BitVec 7) (i : BitVec 2) (f : BitVec 2) : EncodesFit.Statement (.cvtFloatToInt d a i f) := by
  intro n h
  cases h
  have := d.isLt
  have := a.isLt
  have := i.isLt
  have := f.isLt
  omega
theorem EncodesFit.cvtFloat (d : BitVec 7) (a : BitVec 7) (s : BitVec 3) (f : BitVec 3) : EncodesFit.Statement (.cvtFloat d a s f) := by
  intro n h
  cases h
  have := d.isLt
  have := a.isLt
  have := s.isLt
  have := f.isLt
  omega
theorem EncodesFit.pack8 (d : BitVec 7) (a : BitVec 7) (f : BitVec 3) (k : BitVec 2) : EncodesFit.Statement (.pack8 d a f k) := by
  intro n h
  cases h
  have := d.isLt
  have := a.isLt
  have := f.isLt
  have := k.isLt
  omega
theorem EncodesFit.unpack8 (d : BitVec 7) (a : BitVec 7) (f : BitVec 3) (k : BitVec 2) : EncodesFit.Statement (.unpack8 d a f k) := by
  intro n h
  cases h
  have := d.isLt
  have := a.isLt
  have := f.isLt
  have := k.isLt
  omega
theorem EncodesFit.pack4 (w : BitVec 2) (d : BitVec 7) (a : BitVec 7) (k : BitVec 3) : EncodesFit.Statement (.pack4 w d a k) := by
  intro n h
  cases h
  have := w.isLt
  have := d.isLt
  have := a.isLt
  have := k.isLt
  omega
theorem EncodesFit.unpack4 (w : BitVec 2) (d : BitVec 7) (a : BitVec 7) (k : BitVec 3) : EncodesFit.Statement (.unpack4 w d a k) := by
  intro n h
  cases h
  have := w.isLt
  have := d.isLt
  have := a.isLt
  have := k.isLt
  omega
theorem EncodesFit.scaleb (w : BitVec 2) (d : BitVec 7) (a : BitVec 7) (b : BitVec 7) : EncodesFit.Statement (.scaleb w d a b) := by
  intro n h
  cases h
  have := w.isLt
  have := d.isLt
  have := a.isLt
  have := b.isLt
  omega
theorem EncodesFit.xval (d : BitVec 7) (a : BitVec 7) (b : BitVec 7) : EncodesFit.Statement (.xval d a b) := by
  intro n h
  cases h
  have := d.isLt
  have := a.isLt
  have := b.isLt
  omega
theorem EncodesFit.sadd (d : BitVec 6) (a : BitVec 6) (k : BitVec 1) (y : BitVec 9) : EncodesFit.Statement (.sadd d a k y) := by
  intro n h
  cases h
  have := d.isLt
  have := a.isLt
  have := k.isLt
  have := y.isLt
  omega
theorem EncodesFit.ssub (d : BitVec 6) (a : BitVec 6) (k : BitVec 1) (y : BitVec 9) : EncodesFit.Statement (.ssub d a k y) := by
  intro n h
  cases h
  have := d.isLt
  have := a.isLt
  have := k.isLt
  have := y.isLt
  omega
theorem EncodesFit.smul (d : BitVec 6) (a : BitVec 6) (k : BitVec 1) (y : BitVec 9) : EncodesFit.Statement (.smul d a k y) := by
  intro n h
  cases h
  have := d.isLt
  have := a.isLt
  have := k.isLt
  have := y.isLt
  omega
theorem EncodesFit.smin (d : BitVec 6) (a : BitVec 6) (k : BitVec 1) (y : BitVec 9) : EncodesFit.Statement (.smin d a k y) := by
  intro n h
  cases h
  have := d.isLt
  have := a.isLt
  have := k.isLt
  have := y.isLt
  omega
theorem EncodesFit.smax (d : BitVec 6) (a : BitVec 6) (k : BitVec 1) (y : BitVec 9) : EncodesFit.Statement (.smax d a k y) := by
  intro n h
  cases h
  have := d.isLt
  have := a.isLt
  have := k.isLt
  have := y.isLt
  omega
theorem EncodesFit.sminn (d : BitVec 6) (a : BitVec 6) (k : BitVec 1) (y : BitVec 9) : EncodesFit.Statement (.sminn d a k y) := by
  intro n h
  cases h
  have := d.isLt
  have := a.isLt
  have := k.isLt
  have := y.isLt
  omega
theorem EncodesFit.smaxn (d : BitVec 6) (a : BitVec 6) (k : BitVec 1) (y : BitVec 9) : EncodesFit.Statement (.smaxn d a k y) := by
  intro n h
  cases h
  have := d.isLt
  have := a.isLt
  have := k.isLt
  have := y.isLt
  omega
theorem EncodesFit.sand (d : BitVec 6) (a : BitVec 6) (k : BitVec 1) (y : BitVec 9) : EncodesFit.Statement (.sand d a k y) := by
  intro n h
  cases h
  have := d.isLt
  have := a.isLt
  have := k.isLt
  have := y.isLt
  omega
theorem EncodesFit.sor (d : BitVec 6) (a : BitVec 6) (k : BitVec 1) (y : BitVec 9) : EncodesFit.Statement (.sor d a k y) := by
  intro n h
  cases h
  have := d.isLt
  have := a.isLt
  have := k.isLt
  have := y.isLt
  omega
theorem EncodesFit.sxor (d : BitVec 6) (a : BitVec 6) (k : BitVec 1) (y : BitVec 9) : EncodesFit.Statement (.sxor d a k y) := by
  intro n h
  cases h
  have := d.isLt
  have := a.isLt
  have := k.isLt
  have := y.isLt
  omega
theorem EncodesFit.sshl (d : BitVec 6) (a : BitVec 6) (k : BitVec 1) (y : BitVec 9) : EncodesFit.Statement (.sshl d a k y) := by
  intro n h
  cases h
  have := d.isLt
  have := a.isLt
  have := k.isLt
  have := y.isLt
  omega
theorem EncodesFit.sshr (d : BitVec 6) (a : BitVec 6) (k : BitVec 1) (y : BitVec 9) : EncodesFit.Statement (.sshr d a k y) := by
  intro n h
  cases h
  have := d.isLt
  have := a.isLt
  have := k.isLt
  have := y.isLt
  omega
theorem EncodesFit.ssar (d : BitVec 6) (a : BitVec 6) (k : BitVec 1) (y : BitVec 9) : EncodesFit.Statement (.ssar d a k y) := by
  intro n h
  cases h
  have := d.isLt
  have := a.isLt
  have := k.isLt
  have := y.isLt
  omega
theorem EncodesFit.srotl (d : BitVec 6) (a : BitVec 6) (k : BitVec 1) (y : BitVec 9) : EncodesFit.Statement (.srotl d a k y) := by
  intro n h
  cases h
  have := d.isLt
  have := a.isLt
  have := k.isLt
  have := y.isLt
  omega
theorem EncodesFit.smov (d : BitVec 6) (b : BitVec 6) : EncodesFit.Statement (.smov d b) := by
  intro n h
  cases h
  have := d.isLt
  have := b.isLt
  omega
theorem EncodesFit.smovi (d : BitVec 6) (i : BitVec 9) : EncodesFit.Statement (.smovi d i) := by
  intro n h
  cases h
  have := d.isLt
  have := i.isLt
  omega
theorem EncodesFit.scmp (d : BitVec 6) (a : BitVec 6) (k : BitVec 1) (y : BitVec 9) : EncodesFit.Statement (.scmp d a k y) := by
  intro n h
  cases h
  have := d.isLt
  have := a.isLt
  have := k.isLt
  have := y.isLt
  omega
theorem EncodesFit.ssel (d : BitVec 6) (a : BitVec 6) (b : BitVec 6) : EncodesFit.Statement (.ssel d a b) := by
  intro n h
  cases h
  have := d.isLt
  have := a.isLt
  have := b.isLt
  omega
theorem EncodesFit.vrd (d : BitVec 6) (a : BitVec 6) (j : BitVec 7) : EncodesFit.Statement (.vrd d a j) := by
  intro n h
  cases h
  have := d.isLt
  have := a.isLt
  have := j.isLt
  omega
theorem EncodesFit.vwr (d : BitVec 6) (a : BitVec 6) (j : BitVec 7) : EncodesFit.Statement (.vwr d a j) := by
  intro n h
  cases h
  have := d.isLt
  have := a.isLt
  have := j.isLt
  omega
theorem EncodesFit.slea (c : BitVec 2) (d : BitVec 6) (a : BitVec 6) (k : BitVec 1) (y : BitVec 9) : EncodesFit.Statement (.slea c d a k y) := by
  intro n h
  cases h
  have := c.isLt
  have := d.isLt
  have := a.isLt
  have := k.isLt
  have := y.isLt
  omega
theorem EncodesFit.ld (w : BitVec 2) (d : BitVec 7) (p : BitVec 6) (n : BitVec 1) (i : BitVec 9) : EncodesFit.Statement (.ld w d p n i) := by
  intro n h
  cases h
  have := w.isLt
  have := d.isLt
  have := p.isLt
  have := n.isLt
  have := i.isLt
  omega
theorem EncodesFit.st (w : BitVec 2) (d : BitVec 7) (p : BitVec 6) (n : BitVec 1) (i : BitVec 9) : EncodesFit.Statement (.st w d p n i) := by
  intro n h
  cases h
  have := w.isLt
  have := d.isLt
  have := p.isLt
  have := n.isLt
  have := i.isLt
  omega
theorem EncodesFit.lds (w : BitVec 2) (d : BitVec 7) (p : BitVec 6) (n : BitVec 1) (i : BitVec 9) : EncodesFit.Statement (.lds w d p n i) := by
  intro n h
  cases h
  have := w.isLt
  have := d.isLt
  have := p.isLt
  have := n.isLt
  have := i.isLt
  omega
theorem EncodesFit.sts (w : BitVec 2) (d : BitVec 7) (p : BitVec 6) (n : BitVec 1) (i : BitVec 9) : EncodesFit.Statement (.sts w d p n i) := by
  intro n h
  cases h
  have := w.isLt
  have := d.isLt
  have := p.isLt
  have := n.isLt
  have := i.isLt
  omega
theorem EncodesFit.ldu (w : BitVec 2) (d : BitVec 7) (p : BitVec 6) (i : BitVec 9) : EncodesFit.Statement (.ldu w d p i) := by
  intro n h
  cases h
  have := w.isLt
  have := d.isLt
  have := p.isLt
  have := i.isLt
  omega
theorem EncodesFit.stu (w : BitVec 2) (d : BitVec 7) (p : BitVec 6) (i : BitVec 9) : EncodesFit.Statement (.stu w d p i) := by
  intro n h
  cases h
  have := w.isLt
  have := d.isLt
  have := p.isLt
  have := i.isLt
  omega
theorem EncodesFit.ldx (d : BitVec 7) (p : BitVec 6) (i : BitVec 9) : EncodesFit.Statement (.ldx d p i) := by
  intro n h
  cases h
  have := d.isLt
  have := p.isLt
  have := i.isLt
  omega
theorem EncodesFit.stx (d : BitVec 7) (p : BitVec 6) (i : BitVec 9) : EncodesFit.Statement (.stx d p i) := by
  intro n h
  cases h
  have := d.isLt
  have := p.isLt
  have := i.isLt
  omega
theorem EncodesFit.ldacq (w : BitVec 2) (d : BitVec 7) (p : BitVec 6) (c : BitVec 2) (s : BitVec 1) (x : BitVec 6) : EncodesFit.Statement (.ldacq w d p c s x) := by
  intro n h
  cases h
  have := w.isLt
  have := d.isLt
  have := p.isLt
  have := c.isLt
  have := s.isLt
  have := x.isLt
  omega
theorem EncodesFit.strel (w : BitVec 2) (d : BitVec 7) (p : BitVec 6) (c : BitVec 2) (s : BitVec 1) (x : BitVec 6) : EncodesFit.Statement (.strel w d p c s x) := by
  intro n h
  cases h
  have := w.isLt
  have := d.isLt
  have := p.isLt
  have := c.isLt
  have := s.isLt
  have := x.isLt
  omega
theorem EncodesFit.pref (p : BitVec 6) : EncodesFit.Statement (.pref p) := by
  intro n h
  cases h
  have := p.isLt
  omega
theorem EncodesFit.wbr (l : BitVec 7) (p : BitVec 6) (c : BitVec 2) : EncodesFit.Statement (.wbr l p c) := by
  intro n h
  cases h
  have := l.isLt
  have := p.isLt
  have := c.isLt
  omega
theorem EncodesFit.invr (l : BitVec 7) (p : BitVec 6) (c : BitVec 2) : EncodesFit.Statement (.invr l p c) := by
  intro n h
  cases h
  have := l.isLt
  have := p.isLt
  have := c.isLt
  omega
theorem EncodesFit.invd (l : BitVec 7) (p : BitVec 6) (c : BitVec 2) : EncodesFit.Statement (.invd l p c) := by
  intro n h
  cases h
  have := l.isLt
  have := p.isLt
  have := c.isLt
  omega
theorem EncodesFit.setf (p : BitVec 6) (c : BitVec 2) (x : BitVec 7) : EncodesFit.Statement (.setf p c x) := by
  intro n h
  cases h
  have := p.isLt
  have := c.isLt
  have := x.isLt
  omega
theorem EncodesFit.clrf (p : BitVec 6) (x : BitVec 7) : EncodesFit.Statement (.clrf p x) := by
  intro n h
  cases h
  have := p.isLt
  have := x.isLt
  omega
theorem EncodesFit.ownseg (d : BitVec 7) (p : BitVec 6) : EncodesFit.Statement (.ownseg d p) := by
  intro n h
  cases h
  have := d.isLt
  have := p.isLt
  omega
theorem EncodesFit.dropseg (d : BitVec 7) (p : BitVec 6) : EncodesFit.Statement (.dropseg d p) := by
  intro n h
  cases h
  have := d.isLt
  have := p.isLt
  omega
theorem EncodesFit.aadd (w : BitVec 2) (d : BitVec 7) (p : BitVec 6) (s : BitVec 1) (f : BitVec 1) (c : BitVec 2) (t : BitVec 3) : EncodesFit.Statement (.aadd w d p s f c t) := by
  intro n h
  cases h
  have := w.isLt
  have := d.isLt
  have := p.isLt
  have := s.isLt
  have := f.isLt
  have := c.isLt
  have := t.isLt
  omega
theorem EncodesFit.amin (w : BitVec 2) (d : BitVec 7) (p : BitVec 6) (s : BitVec 1) (f : BitVec 1) (c : BitVec 2) (t : BitVec 3) : EncodesFit.Statement (.amin w d p s f c t) := by
  intro n h
  cases h
  have := w.isLt
  have := d.isLt
  have := p.isLt
  have := s.isLt
  have := f.isLt
  have := c.isLt
  have := t.isLt
  omega
theorem EncodesFit.amax (w : BitVec 2) (d : BitVec 7) (p : BitVec 6) (s : BitVec 1) (f : BitVec 1) (c : BitVec 2) (t : BitVec 3) : EncodesFit.Statement (.amax w d p s f c t) := by
  intro n h
  cases h
  have := w.isLt
  have := d.isLt
  have := p.isLt
  have := s.isLt
  have := f.isLt
  have := c.isLt
  have := t.isLt
  omega
theorem EncodesFit.aand (w : BitVec 2) (d : BitVec 7) (p : BitVec 6) (s : BitVec 1) (f : BitVec 1) (c : BitVec 2) (t : BitVec 3) : EncodesFit.Statement (.aand w d p s f c t) := by
  intro n h
  cases h
  have := w.isLt
  have := d.isLt
  have := p.isLt
  have := s.isLt
  have := f.isLt
  have := c.isLt
  have := t.isLt
  omega
theorem EncodesFit.aor (w : BitVec 2) (d : BitVec 7) (p : BitVec 6) (s : BitVec 1) (f : BitVec 1) (c : BitVec 2) (t : BitVec 3) : EncodesFit.Statement (.aor w d p s f c t) := by
  intro n h
  cases h
  have := w.isLt
  have := d.isLt
  have := p.isLt
  have := s.isLt
  have := f.isLt
  have := c.isLt
  have := t.isLt
  omega
theorem EncodesFit.axor (w : BitVec 2) (d : BitVec 7) (p : BitVec 6) (s : BitVec 1) (f : BitVec 1) (c : BitVec 2) (t : BitVec 3) : EncodesFit.Statement (.axor w d p s f c t) := by
  intro n h
  cases h
  have := w.isLt
  have := d.isLt
  have := p.isLt
  have := s.isLt
  have := f.isLt
  have := c.isLt
  have := t.isLt
  omega
theorem EncodesFit.axchg (w : BitVec 2) (d : BitVec 7) (p : BitVec 6) (s : BitVec 1) (f : BitVec 1) (c : BitVec 2) (t : BitVec 3) : EncodesFit.Statement (.axchg w d p s f c t) := by
  intro n h
  cases h
  have := w.isLt
  have := d.isLt
  have := p.isLt
  have := s.isLt
  have := f.isLt
  have := c.isLt
  have := t.isLt
  omega
theorem EncodesFit.acas (w : BitVec 2) (d : BitVec 7) (p : BitVec 6) (s : BitVec 1) (f : BitVec 1) (c : BitVec 2) (t : BitVec 3) : EncodesFit.Statement (.acas w d p s f c t) := by
  intro n h
  cases h
  have := w.isLt
  have := d.isLt
  have := p.isLt
  have := s.isLt
  have := f.isLt
  have := c.isLt
  have := t.isLt
  omega
theorem EncodesFit.red (w : BitVec 2) (d : BitVec 7) (p : BitVec 6) (s : BitVec 1) (f : BitVec 1) (t : BitVec 3) (o : BitVec 2) : EncodesFit.Statement (.red w d p s f t o) := by
  intro n h
  cases h
  have := w.isLt
  have := d.isLt
  have := p.isLt
  have := s.isLt
  have := f.isLt
  have := t.isLt
  have := o.isLt
  omega
theorem EncodesFit.fence (c : BitVec 2) : EncodesFit.Statement (.fence c) := by
  intro n h
  cases h
  have := c.isLt
  omega
theorem EncodesFit.xpub (l : BitVec 7) (p : BitVec 6) (c : BitVec 2) : EncodesFit.Statement (.xpub l p c) := by
  intro n h
  cases h
  have := l.isLt
  have := p.isLt
  have := c.isLt
  omega
theorem EncodesFit.barinit (d : BitVec 7) (p : BitVec 6) (s : BitVec 1) (c : BitVec 2) : EncodesFit.Statement (.barinit d p s c) := by
  intro n h
  cases h
  have := d.isLt
  have := p.isLt
  have := s.isLt
  have := c.isLt
  omega
theorem EncodesFit.bararr (d : BitVec 7) (p : BitVec 6) (s : BitVec 1) (c : BitVec 2) : EncodesFit.Statement (.bararr d p s c) := by
  intro n h
  cases h
  have := d.isLt
  have := p.isLt
  have := s.isLt
  have := c.isLt
  omega
theorem EncodesFit.barwait (d : BitVec 7) (p : BitVec 6) (s : BitVec 1) (c : BitVec 2) : EncodesFit.Statement (.barwait d p s c) := by
  intro n h
  cases h
  have := d.isLt
  have := p.isLt
  have := s.isLt
  have := c.isLt
  omega
theorem EncodesFit.barkill (d : BitVec 7) (p : BitVec 6) (s : BitVec 1) (c : BitVec 2) : EncodesFit.Statement (.barkill d p s c) := by
  intro n h
  cases h
  have := d.isLt
  have := p.isLt
  have := s.isLt
  have := c.isLt
  omega
theorem EncodesFit.waitaddr (w : BitVec 2) (d : BitVec 7) (p : BitVec 6) (k : BitVec 3) (s : BitVec 1) (c : BitVec 2) : EncodesFit.Statement (.waitaddr w d p k s c) := by
  intro n h
  cases h
  have := w.isLt
  have := d.isLt
  have := p.isLt
  have := k.isLt
  have := s.isLt
  have := c.isLt
  omega
theorem EncodesFit.tlwait (t : BitVec 7) (n : BitVec 7) (d : BitVec 7) : EncodesFit.Statement (.tlwait t n d) := by
  intro n h
  cases h
  have := t.isLt
  have := n.isLt
  have := d.isLt
  omega
theorem EncodesFit.tlread (t : BitVec 7) (d : BitVec 7) : EncodesFit.Statement (.tlread t d) := by
  intro n h
  cases h
  have := t.isLt
  have := d.isLt
  omega
theorem EncodesFit.rsect : EncodesFit.Statement .rsect := by
  intro n h
  cases h
  decide
theorem EncodesFit.rsecx : EncodesFit.Statement .rsecx := by
  intro n h
  cases h
  decide
theorem EncodesFit.qpass : EncodesFit.Statement .qpass := by
  intro n h
  cases h
  decide
theorem EncodesFit.gpwait (t : BitVec 7) (d : BitVec 7) : EncodesFit.Statement (.gpwait t d) := by
  intro n h
  cases h
  have := t.isLt
  have := d.isLt
  omega
theorem EncodesFit.timeat (t : BitVec 7) : EncodesFit.Statement (.timeat t) := by
  intro n h
  cases h
  have := t.isLt
  omega
theorem EncodesFit.timerd (d : BitVec 7) : EncodesFit.Statement (.timerd d) := by
  intro n h
  cases h
  have := d.isLt
  omega
theorem EncodesFit.bra (m : BitVec 4) (p : BitVec 1) (o : BitVec 20) : EncodesFit.Statement (.bra m p o) := by
  intro n h
  cases h
  have := m.isLt
  have := p.isLt
  have := o.isLt
  omega
theorem EncodesFit.brx (a : BitVec 7) : EncodesFit.Statement (.brx a) := by
  intro n h
  cases h
  have := a.isLt
  omega
theorem EncodesFit.call : EncodesFit.Statement .call := by
  intro n h
  cases h
  decide
theorem EncodesFit.callx (a : BitVec 7) : EncodesFit.Statement (.callx a) := by
  intro n h
  cases h
  have := a.isLt
  omega
theorem EncodesFit.ret : EncodesFit.Statement .ret := by
  intro n h
  cases h
  decide
theorem EncodesFit.join (m : BitVec 7) : EncodesFit.Statement (.join m) := by
  intro n h
  cases h
  have := m.isLt
  omega
theorem EncodesFit.leave (m : BitVec 7) : EncodesFit.Statement (.leave m) := by
  intro n h
  cases h
  have := m.isLt
  omega
theorem EncodesFit.waitm (m : BitVec 7) : EncodesFit.Statement (.waitm m) := by
  intro n h
  cases h
  have := m.isLt
  omega
theorem EncodesFit.mset (d : BitVec 7) (s : BitVec 7) : EncodesFit.Statement (.mset d s) := by
  intro n h
  cases h
  have := d.isLt
  have := s.isLt
  omega
theorem EncodesFit.mand (d : BitVec 7) (a : BitVec 7) (b : BitVec 7) : EncodesFit.Statement (.mand d a b) := by
  intro n h
  cases h
  have := d.isLt
  have := a.isLt
  have := b.isLt
  omega
theorem EncodesFit.mor (d : BitVec 7) (a : BitVec 7) (b : BitVec 7) : EncodesFit.Statement (.mor d a b) := by
  intro n h
  cases h
  have := d.isLt
  have := a.isLt
  have := b.isLt
  omega
theorem EncodesFit.mxor (d : BitVec 7) (a : BitVec 7) (b : BitVec 7) : EncodesFit.Statement (.mxor d a b) := by
  intro n h
  cases h
  have := d.isLt
  have := a.isLt
  have := b.isLt
  omega
theorem EncodesFit.mnot (d : BitVec 7) (a : BitVec 7) : EncodesFit.Statement (.mnot d a) := by
  intro n h
  cases h
  have := d.isLt
  have := a.isLt
  omega
theorem EncodesFit.mmov (d : BitVec 7) (a : BitVec 7) : EncodesFit.Statement (.mmov d a) := by
  intro n h
  cases h
  have := d.isLt
  have := a.isLt
  omega
theorem EncodesFit.prio (n : BitVec 8) : EncodesFit.Statement (.prio n) := by
  intro n h
  cases h
  have := n.isLt
  omega
theorem EncodesFit.nop : EncodesFit.Statement .nop := by
  intro n h
  cases h
  decide
theorem EncodesFit.exitI : EncodesFit.Statement .exitI := by
  intro n h
  cases h
  decide
theorem EncodesFit.trap (k : BitVec 16) : EncodesFit.Statement (.trap k) := by
  intro n h
  cases h
  have := k.isLt
  omega
theorem EncodesFit.bkpt (k : BitVec 16) : EncodesFit.Statement (.bkpt k) := by
  intro n h
  cases h
  have := k.isLt
  omega
theorem EncodesFit.csrr (d : BitVec 6) (c : BitVec 12) : EncodesFit.Statement (.csrr d c) := by
  intro n h
  cases h
  have := d.isLt
  have := c.isLt
  omega
theorem EncodesFit.csrw (d : BitVec 6) (c : BitVec 12) : EncodesFit.Statement (.csrw d c) := by
  intro n h
  cases h
  have := d.isLt
  have := c.isLt
  omega
theorem EncodesFit.csrs (d : BitVec 6) (c : BitVec 12) : EncodesFit.Statement (.csrs d c) := by
  intro n h
  cases h
  have := d.isLt
  have := c.isLt
  omega
theorem EncodesFit.csrc (d : BitVec 6) (c : BitVec 12) : EncodesFit.Statement (.csrc d c) := by
  intro n h
  cases h
  have := d.isLt
  have := c.isLt
  omega
theorem EncodesFit.role (d : BitVec 6) (a : BitVec 6) : EncodesFit.Statement (.role d a) := by
  intro n h
  cases h
  have := d.isLt
  have := a.isLt
  omega
theorem EncodesFit.pstat (d : BitVec 6) (s : BitVec 9) : EncodesFit.Statement (.pstat d s) := by
  intro n h
  cases h
  have := d.isLt
  have := s.isLt
  omega
theorem EncodesFit.sysc (k : BitVec 16) : EncodesFit.Statement (.sysc k) := by
  intro n h
  cases h
  have := k.isLt
  omega
theorem EncodesFit.eret : EncodesFit.Statement .eret := by
  intro n h
  cases h
  decide
theorem EncodesFit.halt : EncodesFit.Statement .halt := by
  intro n h
  cases h
  decide
theorem EncodesFit.btinv (d : BitVec 6) (c : BitVec 2) (l : BitVec 1) : EncodesFit.Statement (.btinv d c l) := by
  intro n h
  cases h
  have := d.isLt
  have := c.isLt
  have := l.isLt
  omega
theorem EncodesFit.tfence (d : BitVec 6) (c : BitVec 2) (l : BitVec 1) (k : BitVec 6) : EncodesFit.Statement (.tfence d c l k) := by
  intro n h
  cases h
  have := d.isLt
  have := c.isLt
  have := l.isLt
  have := k.isLt
  omega
theorem EncodesFit.ctxsv (d : BitVec 6) : EncodesFit.Statement (.ctxsv d) := by
  intro n h
  cases h
  have := d.isLt
  omega
theorem EncodesFit.ctxld (d : BitVec 6) : EncodesFit.Statement (.ctxld d) := by
  intro n h
  cases h
  have := d.isLt
  omega
theorem EncodesFit.xw (p : BitVec 23) : EncodesFit.Statement (.xw p) := by
  intro n h
  cases h
  have := p.isLt
  omega
theorem EncodesFit.xh (c : BitVec 3) : EncodesFit.Statement (.xh c) := by
  intro n h
  cases h
  have := c.isLt
  omega
theorem EncodesFit.xm (r : BitVec 3) (s : BitVec 1) (n : BitVec 1) (a : BitVec 1) (m : BitVec 1) (b : BitVec 1) (p : BitVec 4) (l : BitVec 1) (o : BitVec 7) (c : BitVec 3) : EncodesFit.Statement (.xm r s n a m b p l o c) := by
  intro n h
  cases h
  have := r.isLt
  have := s.isLt
  have := n.isLt
  have := a.isLt
  have := m.isLt
  have := b.isLt
  have := p.isLt
  have := l.isLt
  have := o.isLt
  have := c.isLt
  omega
theorem EncodesFit.wload (t : BitVec 1) (d : BitVec 7) (b : BitVec 7) (c : BitVec 7) : EncodesFit.Statement (.wload t d b c) := by
  intro n h
  cases h
  have := t.isLt
  have := d.isLt
  have := b.isLt
  have := c.isLt
  omega
theorem EncodesFit.wswap (c : BitVec 7) : EncodesFit.Statement (.wswap c) := by
  intro n h
  cases h
  have := c.isLt
  omega
theorem EncodesFit.mma (h : BitVec 3) (v : BitVec 7) (s : BitVec 7) (c : BitVec 7) : EncodesFit.Statement (.mma h v s c) := by
  intro n h
  cases h
  have := h.isLt
  have := v.isLt
  have := s.isLt
  have := c.isLt
  omega
theorem EncodesFit.mmax (h : BitVec 3) (v : BitVec 7) (s : BitVec 7) (c : BitVec 7) : EncodesFit.Statement (.mmax h v s c) := by
  intro n h
  cases h
  have := h.isLt
  have := v.isLt
  have := s.isLt
  have := c.isLt
  omega
theorem EncodesFit.aclr (c : BitVec 7) : EncodesFit.Statement (.aclr c) := by
  intro n h
  cases h
  have := c.isLt
  omega
theorem EncodesFit.aclrRows (a : BitVec 7) (c : BitVec 7) : EncodesFit.Statement (.aclrRows a c) := by
  intro n h
  cases h
  have := a.isLt
  have := c.isLt
  omega
theorem EncodesFit.ard (d : BitVec 7) (i : BitVec 7) : EncodesFit.Statement (.ard d i) := by
  intro n h
  cases h
  have := d.isLt
  have := i.isLt
  omega
theorem EncodesFit.awr (d : BitVec 7) (i : BitVec 7) : EncodesFit.Statement (.awr d i) := by
  intro n h
  cases h
  have := d.isLt
  have := i.isLt
  omega
theorem EncodesFit.ast (h : BitVec 3) (v : BitVec 7) (s : BitVec 7) (c : BitVec 7) : EncodesFit.Statement (.ast h v s c) := by
  intro n h
  cases h
  have := h.isLt
  have := v.isLt
  have := s.isLt
  have := c.isLt
  omega
theorem EncodesFit.mxcfg (a : BitVec 7) : EncodesFit.Statement (.mxcfg a) := by
  intro n h
  cases h
  have := a.isLt
  omega
theorem EncodesFit.mxstat (s : BitVec 7) (d : BitVec 7) : EncodesFit.Statement (.mxstat s d) := by
  intro n h
  cases h
  have := s.isLt
  have := d.isLt
  omega
theorem EncodesFit.mxres (c : BitVec 7) : EncodesFit.Statement (.mxres c) := by
  intro n h
  cases h
  have := c.isLt
  omega
theorem EncodesFit.strm (q : BitVec 7) (b : BitVec 7) (c : BitVec 7) : EncodesFit.Statement (.strm q b c) := by
  intro n h
  cases h
  have := q.isLt
  have := b.isLt
  have := c.isLt
  omega
theorem EncodesFit.strq (q : BitVec 7) (d : BitVec 7) : EncodesFit.Statement (.strq q d) := by
  intro n h
  cases h
  have := q.isLt
  have := d.isLt
  omega
theorem EncodesFit.strqEnd (q : BitVec 7) : EncodesFit.Statement (.strqEnd q) := by
  intro n h
  cases h
  have := q.isLt
  omega
theorem EncodesFit.cpy (b : BitVec 7) (v : BitVec 7) (c : BitVec 7) : EncodesFit.Statement (.cpy b v c) := by
  intro n h
  cases h
  have := b.isLt
  have := v.isLt
  have := c.isLt
  omega
theorem EncodesFit.cpym (b : BitVec 7) (v : BitVec 7) (c : BitVec 7) : EncodesFit.Statement (.cpym b v c) := by
  intro n h
  cases h
  have := b.isLt
  have := v.isLt
  have := c.isLt
  omega
theorem EncodesFit.cpst (d : BitVec 7) (n : BitVec 7) (t : BitVec 7) : EncodesFit.Statement (.cpst d n t) := by
  intro n h
  cases h
  have := d.isLt
  have := n.isLt
  have := t.isLt
  omega
theorem EncodesFit.gath (b : BitVec 7) (v : BitVec 7) (c : BitVec 7) : EncodesFit.Statement (.gath b v c) := by
  intro n h
  cases h
  have := b.isLt
  have := v.isLt
  have := c.isLt
  omega
theorem EncodesFit.scat (b : BitVec 7) (v : BitVec 7) (c : BitVec 7) : EncodesFit.Statement (.scat b v c) := by
  intro n h
  cases h
  have := b.isLt
  have := v.isLt
  have := c.isLt
  omega
theorem EncodesFit.dbw (h : BitVec 7) (v : BitVec 7) (c : BitVec 7) : EncodesFit.Statement (.dbw h v c) := by
  intro n h
  cases h
  have := h.isLt
  have := v.isLt
  have := c.isLt
  omega
theorem EncodesFit.dbwX2 (h : BitVec 7) (v : BitVec 7) (c : BitVec 7) : EncodesFit.Statement (.dbwX2 h v c) := by
  intro n h
  cases h
  have := h.isLt
  have := v.isLt
  have := c.isLt
  omega
theorem EncodesFit.nmc (b : BitVec 7) (w : BitVec 7) (c : BitVec 7) : EncodesFit.Statement (.nmc b w c) := by
  intro n h
  cases h
  have := b.isLt
  have := w.isLt
  have := c.isLt
  omega
theorem EncodesFit.launch (p : BitVec 7) (s : BitVec 7) (c : BitVec 7) : EncodesFit.Statement (.launch p s c) := by
  intro n h
  cases h
  have := p.isLt
  have := s.isLt
  have := c.isLt
  omega
theorem EncodesFit.tpost (p : BitVec 7) (r : BitVec 7) (c : BitVec 7) : EncodesFit.Statement (.tpost p r c) := by
  intro n h
  cases h
  have := p.isLt
  have := r.isLt
  have := c.isLt
  omega
theorem EncodesFit.tjoin (i : BitVec 7) (s : BitVec 7) (c : BitVec 7) : EncodesFit.Statement (.tjoin i s c) := by
  intro n h
  cases h
  have := i.isLt
  have := s.isLt
  have := c.isLt
  omega
theorem EncodesFit.defer (p : BitVec 7) (r : BitVec 7) (c : BitVec 7) : EncodesFit.Statement (.defer p r c) := by
  intro n h
  cases h
  have := p.isLt
  have := r.isLt
  have := c.isLt
  omega
theorem EncodesFit.coll (b : BitVec 7) (c : BitVec 7) : EncodesFit.Statement (.coll b c) := by
  intro n h
  cases h
  have := b.isLt
  have := c.isLt
  omega
theorem EncodesFit.cabort (m : BitVec 7) (c : BitVec 7) : EncodesFit.Statement (.cabort m c) := by
  intro n h
  cases h
  have := m.isLt
  have := c.isLt
  omega
theorem EncodesFit.cstat (m : BitVec 7) (d : BitVec 7) : EncodesFit.Statement (.cstat m d) := by
  intro n h
  cases h
  have := m.isLt
  have := d.isLt
  omega
theorem EncodesFit.bteFetch (core : Nat) (region : Nat) (index : Nat) : EncodesFit.Statement (.bteFetch core region index) := by
  intro n h
  cases h
theorem EncodesFit.walkStart (basin : Nat) : EncodesFit.Statement (.walkStart basin) := by
  intro n h
  cases h
theorem EncodesFit.walkComplete (basin : Nat) : EncodesFit.Statement (.walkComplete basin) := by
  intro n h
  cases h
theorem EncodesFit.pageFaultRecord (basin : Nat) : EncodesFit.Statement (.pageFaultRecord basin) := by
  intro n h
  cases h
theorem EncodesFit.pfqrespRetry (basin : Nat) (seq : Nat) : EncodesFit.Statement (.pfqrespRetry basin seq) := by
  intro n h
  cases h
theorem EncodesFit.pfqrespFail (basin : Nat) (seq : Nat) : EncodesFit.Statement (.pfqrespFail basin seq) := by
  intro n h
  cases h
theorem EncodesFit.pfqrespClearErr (basin : Nat) : EncodesFit.Statement (.pfqrespClearErr basin) := by
  intro n h
  cases h
theorem EncodesFit.pfqrespIgnored (basin : Nat) : EncodesFit.Statement (.pfqrespIgnored basin) := by
  intro n h
  cases h
theorem EncodesFit.pinitStart (core : Nat) : EncodesFit.Statement (.pinitStart core) := by
  intro n h
  cases h
theorem EncodesFit.poolInitDone (core : Nat) : EncodesFit.Statement (.poolInitDone core) := by
  intro n h
  cases h
theorem EncodesFit.bankWake (core : Nat) (bank : Nat) : EncodesFit.Statement (.bankWake core bank) := by
  intro n h
  cases h
theorem EncodesFit.windowMove (core : Nat) : EncodesFit.Statement (.windowMove core) := by
  intro n h
  cases h
theorem EncodesFit.segmentMove (core : Nat) : EncodesFit.Statement (.segmentMove core) := by
  intro n h
  cases h
theorem EncodesFit.cchBankDrain (core : Nat) (bank : Nat) : EncodesFit.Statement (.cchBankDrain core bank) := by
  intro n h
  cases h
theorem EncodesFit.bankClear (core : Nat) (bank : Nat) : EncodesFit.Statement (.bankClear core bank) := by
  intro n h
  cases h
theorem EncodesFit.patrolScrub (core : Nat) (bank : Nat) (word : Nat) : EncodesFit.Statement (.patrolScrub core bank word) := by
  intro n h
  cases h
theorem EncodesFit.homeLoadMiss (core : Nat) (line : Nat) : EncodesFit.Statement (.homeLoadMiss core line) := by
  intro n h
  cases h
theorem EncodesFit.homeStoreMiss (core : Nat) (line : Nat) : EncodesFit.Statement (.homeStoreMiss core line) := by
  intro n h
  cases h
theorem EncodesFit.homeRedMiss (core : Nat) (line : Nat) (op : Nat) (typ : Nat) : EncodesFit.Statement (.homeRedMiss core line op typ) := by
  intro n h
  cases h
theorem EncodesFit.homeAtomic (core : Nat) (key : Nat) (op : Nat) (typ : Nat) (value : Nat) (compare : Nat) : EncodesFit.Statement (.homeAtomic core key op typ value compare) := by
  intro n h
  cases h
theorem EncodesFit.writeBack (core : Nat) (line : Nat) : EncodesFit.Statement (.writeBack core line) := by
  intro n h
  cases h
theorem EncodesFit.recall (core : Nat) (line : Nat) : EncodesFit.Statement (.recall core line) := by
  intro n h
  cases h
theorem EncodesFit.shuOperation (workgroup : Nat) (address : Nat) (op : Nat) (typ : Nat) (value : Nat) (compare : Nat) : EncodesFit.Statement (.shuOperation workgroup address op typ value compare) := by
  intro n h
  cases h
theorem EncodesFit.segmentTransfer (workgroup : Nat) (segment : Nat) : EncodesFit.Statement (.segmentTransfer workgroup segment) := by
  intro n h
  cases h
theorem EncodesFit.leaseRequest (basin : Nat) (line : Nat) (write : Nat) : EncodesFit.Statement (.leaseRequest basin line write) := by
  intro n h
  cases h
theorem EncodesFit.leaseReleaseRequest (holder : Nat) (line : Nat) : EncodesFit.Statement (.leaseReleaseRequest holder line) := by
  intro n h
  cases h
theorem EncodesFit.leaseRelease (holder : Nat) (line : Nat) : EncodesFit.Statement (.leaseRelease holder line) := by
  intro n h
  cases h
theorem EncodesFit.holderLeaseExpiry (basin : Nat) (line : Nat) : EncodesFit.Statement (.holderLeaseExpiry basin line) := by
  intro n h
  cases h
theorem EncodesFit.homeLeaseExpiry (basin : Nat) (line : Nat) : EncodesFit.Statement (.homeLeaseExpiry basin line) := by
  intro n h
  cases h
theorem EncodesFit.leaseDrift (basin : Nat) (uncertainty : Nat) : EncodesFit.Statement (.leaseDrift basin uncertainty) := by
  intro n h
  cases h
theorem EncodesFit.ifetchMiss (group : Nat) : EncodesFit.Statement (.ifetchMiss group) := by
  intro n h
  cases h
theorem EncodesFit.dxForcedPublish (line : Nat) : EncodesFit.Statement (.dxForcedPublish line) := by
  intro n h
  cases h
theorem EncodesFit.xframeSet (frame : Nat) : EncodesFit.Statement (.xframeSet frame) := by
  intro n h
  cases h
theorem EncodesFit.xframeClear (frame : Nat) : EncodesFit.Statement (.xframeClear frame) := by
  intro n h
  cases h
theorem EncodesFit.hbmctlRetire (stack : Nat) (channel : Nat) : EncodesFit.Statement (.hbmctlRetire stack channel) := by
  intro n h
  cases h
theorem EncodesFit.channelTrainingFail (stack : Nat) (channel : Nat) : EncodesFit.Statement (.channelTrainingFail stack channel) := by
  intro n h
  cases h
theorem EncodesFit.repairLimit (stack : Nat) (channel : Nat) : EncodesFit.Statement (.repairLimit stack channel) := by
  intro n h
  cases h
theorem EncodesFit.rebuildSegment (stack : Nat) : EncodesFit.Statement (.rebuildSegment stack) := by
  intro n h
  cases h
theorem EncodesFit.nmuExecute (workgroup : Nat) : EncodesFit.Statement (.nmuExecute workgroup) := by
  intro n h
  cases h
theorem EncodesFit.nmuComplete (workgroup : Nat) : EncodesFit.Statement (.nmuComplete workgroup) := by
  intro n h
  cases h
theorem EncodesFit.cxlTimeout (port : Nat) : EncodesFit.Statement (.cxlTimeout port) := by
  intro n h
  cases h
theorem EncodesFit.cxlLinkEvent (port : Nat) (cause : Nat) : EncodesFit.Statement (.cxlLinkEvent port cause) := by
  intro n h
  cases h
theorem EncodesFit.cxlctlResume (port : Nat) : EncodesFit.Statement (.cxlctlResume port) := by
  intro n h
  cases h
theorem EncodesFit.keySlotLoad (slot : Nat) : EncodesFit.Statement (.keySlotLoad slot) := by
  intro n h
  cases h
theorem EncodesFit.sealctlReinit (stack : Nat) (frame : Nat) (slot : Nat) : EncodesFit.Statement (.sealctlReinit stack frame slot) := by
  intro n h
  cases h
theorem EncodesFit.sealctlPoolinit (stack : Nat) : EncodesFit.Statement (.sealctlPoolinit stack) := by
  intro n h
  cases h
theorem EncodesFit.sealCommandDone (stack : Nat) : EncodesFit.Statement (.sealCommandDone stack) := by
  intro n h
  cases h
theorem EncodesFit.rcbupdUpdate (region : Nat) : EncodesFit.Statement (.rcbupdUpdate region) := by
  intro n h
  cases h
theorem EncodesFit.rcbupdClrfault (region : Nat) : EncodesFit.Statement (.rcbupdClrfault region) := by
  intro n h
  cases h
theorem EncodesFit.rcbupdApply : EncodesFit.Statement .rcbupdApply := by
  intro n h
  cases h
theorem EncodesFit.rgnkill (region : Nat) : EncodesFit.Statement (.rgnkill region) := by
  intro n h
  cases h
theorem EncodesFit.hqptrPut (basin : Nat) (queue : Nat) (put : Nat) : EncodesFit.Statement (.hqptrPut basin queue put) := by
  intro n h
  cases h
theorem EncodesFit.packetTake (basin : Nat) : EncodesFit.Statement (.packetTake basin) := by
  intro n h
  cases h
theorem EncodesFit.workgroupPlace (basin : Nat) : EncodesFit.Statement (.workgroupPlace basin) := by
  intro n h
  cases h
theorem EncodesFit.glenCompaction (core : Nat) (glen : Nat) : EncodesFit.Statement (.glenCompaction core glen) := by
  intro n h
  cases h
theorem EncodesFit.taskStart (core : Nat) : EncodesFit.Statement (.taskStart core) := by
  intro n h
  cases h
theorem EncodesFit.taskWaitSave (workgroup : Nat) : EncodesFit.Statement (.taskWaitSave workgroup) := by
  intro n h
  cases h
theorem EncodesFit.taskRequeue (workgroup : Nat) : EncodesFit.Statement (.taskRequeue workgroup) := by
  intro n h
  cases h
theorem EncodesFit.quantumExpiry (workgroup : Nat) : EncodesFit.Statement (.quantumExpiry workgroup) := by
  intro n h
  cases h
theorem EncodesFit.quantumSave (workgroup : Nat) : EncodesFit.Statement (.quantumSave workgroup) := by
  intro n h
  cases h
theorem EncodesFit.yieldSave (workgroup : Nat) : EncodesFit.Statement (.yieldSave workgroup) := by
  intro n h
  cases h
theorem EncodesFit.workgroupRestore (workgroup : Nat) : EncodesFit.Statement (.workgroupRestore workgroup) := by
  intro n h
  cases h
theorem EncodesFit.turnLimit (pipe : Nat) : EncodesFit.Statement (.turnLimit pipe) := by
  intro n h
  cases h
theorem EncodesFit.starvedTurn (group : Nat) : EncodesFit.Statement (.starvedTurn group) := by
  intro n h
  cases h
theorem EncodesFit.entryAgeLimit (group : Nat) : EncodesFit.Statement (.entryAgeLimit group) := by
  intro n h
  cases h
theorem EncodesFit.febTimeout (group : Nat) (lane : Nat) : EncodesFit.Statement (.febTimeout group lane) := by
  intro n h
  cases h
theorem EncodesFit.waitTimeout (group : Nat) (lane : Nat) : EncodesFit.Statement (.waitTimeout group lane) := by
  intro n h
  cases h
theorem EncodesFit.timeatRelease (group : Nat) : EncodesFit.Statement (.timeatRelease group) := by
  intro n h
  cases h
theorem EncodesFit.timedStart (workgroup : Nat) (number : Nat) : EncodesFit.Statement (.timedStart workgroup number) := by
  intro n h
  cases h
theorem EncodesFit.budgetPeriod (basin : Nat) : EncodesFit.Statement (.budgetPeriod basin) := by
  intro n h
  cases h
theorem EncodesFit.engineClaim (core : Nat) : EncodesFit.Statement (.engineClaim core) := by
  intro n h
  cases h
theorem EncodesFit.matrixUnit (core : Nat) : EncodesFit.Statement (.matrixUnit core) := by
  intro n h
  cases h
theorem EncodesFit.matrixComplete (core : Nat) : EncodesFit.Statement (.matrixComplete core) := by
  intro n h
  cases h
theorem EncodesFit.streamWord (group : Nat) (queue : Nat) : EncodesFit.Statement (.streamWord group queue) := by
  intro n h
  cases h
theorem EncodesFit.cqbusyTimeout (group : Nat) : EncodesFit.Statement (.cqbusyTimeout group) := by
  intro n h
  cases h
theorem EncodesFit.copyStart (workgroup : Nat) (number : Nat) : EncodesFit.Statement (.copyStart workgroup number) := by
  intro n h
  cases h
theorem EncodesFit.copyComplete (workgroup : Nat) (number : Nat) : EncodesFit.Statement (.copyComplete workgroup number) := by
  intro n h
  cases h
theorem EncodesFit.doorbellSend (port : Nat) : EncodesFit.Statement (.doorbellSend port) := by
  intro n h
  cases h
theorem EncodesFit.msixArrival (port : Nat) (requester : Nat) (offset : Nat) (size : Nat) : EncodesFit.Statement (.msixArrival port requester offset size) := by
  intro n h
  cases h
theorem EncodesFit.endpointRequest (port : Nat) (requester : Nat) (pasid : Nat) (kind : Nat) (handle : Nat) (size : Nat) (value : Nat) : EncodesFit.Statement (.endpointRequest port requester pasid kind handle size value) := by
  intro n h
  cases h
theorem EncodesFit.atsTranslationRequest (port : Nat) (requester : Nat) (pasid : Nat) (handle : Nat) : EncodesFit.Statement (.atsTranslationRequest port requester pasid handle) := by
  intro n h
  cases h
theorem EncodesFit.priPageRequest (port : Nat) (requester : Nat) (pasid : Nat) (handle : Nat) (write : Nat) : EncodesFit.Statement (.priPageRequest port requester pasid handle write) := by
  intro n h
  cases h
theorem EncodesFit.atsInvalTimeout (port : Nat) (requester : Nat) : EncodesFit.Statement (.atsInvalTimeout port requester) := by
  intro n h
  cases h
theorem EncodesFit.barRequestTimeout (request : Nat) : EncodesFit.Statement (.barRequestTimeout request) := by
  intro n h
  cases h
theorem EncodesFit.ntbPeerRequest (peer : Nat) (address : Nat) (kind : Nat) (size : Nat) (value : Nat) : EncodesFit.Statement (.ntbPeerRequest peer address kind size value) := by
  intro n h
  cases h
theorem EncodesFit.linkTrained (port : Nat) (speed : Nat) (width : Nat) (flit : Nat) : EncodesFit.Statement (.linkTrained port speed width flit) := by
  intro n h
  cases h
theorem EncodesFit.rpctlDpcRelease (port : Nat) : EncodesFit.Statement (.rpctlDpcRelease port) := by
  intro n h
  cases h
theorem EncodesFit.collStep (comm : Nat) (sender : Nat) (rank : Nat) (data : List Nat) : EncodesFit.Statement (.collStep comm sender rank data) := by
  intro n h
  cases h
theorem EncodesFit.collStepTimeout (comm : Nat) (rank : Nat) (sender : Nat) : EncodesFit.Statement (.collStepTimeout comm rank sender) := by
  intro n h
  cases h
theorem EncodesFit.abortNotice (comm : Nat) (rank : Nat) (culprit : Nat) (cause : Nat) : EncodesFit.Statement (.abortNotice comm rank culprit cause) := by
  intro n h
  cases h
theorem EncodesFit.commcmdCreate (descriptor : Nat) : EncodesFit.Statement (.commcmdCreate descriptor) := by
  intro n h
  cases h
theorem EncodesFit.commcmdReform (descriptor : Nat) : EncodesFit.Statement (.commcmdReform descriptor) := by
  intro n h
  cases h
theorem EncodesFit.commcmdDestroy (descriptor : Nat) : EncodesFit.Statement (.commcmdDestroy descriptor) := by
  intro n h
  cases h
theorem EncodesFit.reformAck (comm : Nat) : EncodesFit.Statement (.reformAck comm) := by
  intro n h
  cases h
theorem EncodesFit.reformAckTimeout (comm : Nat) : EncodesFit.Statement (.reformAckTimeout comm) := by
  intro n h
  cases h
theorem EncodesFit.exclusionNotice (comm : Nat) (rank : Nat) (epoch : Nat) : EncodesFit.Statement (.exclusionNotice comm rank epoch) := by
  intro n h
  cases h
theorem EncodesFit.stepRejection (comm : Nat) (rank : Nat) (epoch : Nat) : EncodesFit.Statement (.stepRejection comm rank epoch) := by
  intro n h
  cases h
theorem EncodesFit.moduleReset (code : Nat) (digest : Nat) : EncodesFit.Statement (.moduleReset code digest) := by
  intro n h
  cases h
theorem EncodesFit.measExtend (register : Nat) (digest : Nat) : EncodesFit.Statement (.measExtend register digest) := by
  intro n h
  cases h
theorem EncodesFit.svcupUp : EncodesFit.Statement .svcupUp := by
  intro n h
  cases h
theorem EncodesFit.powerStep (step : Nat) (capped : Nat) : EncodesFit.Statement (.powerStep step capped) := by
  intro n h
  cases h
theorem EncodesFit.gtbsyncSrc (source : Nat) : EncodesFit.Statement (.gtbsyncSrc source) := by
  intro n h
  cases h
theorem EncodesFit.lapseEntryClear (basin : Nat) (entry : Nat) : EncodesFit.Statement (.lapseEntryClear basin entry) := by
  intro n h
  cases h
theorem EncodesFit.lapsectlClear (basin : Nat) : EncodesFit.Statement (.lapsectlClear basin) := by
  intro n h
  cases h
theorem EncodesFit.dbgcmdHalt (command : Nat) : EncodesFit.Statement (.dbgcmdHalt command) := by
  intro n h
  cases h
theorem EncodesFit.dbgcmdResume (command : Nat) : EncodesFit.Statement (.dbgcmdResume command) := by
  intro n h
  cases h
theorem EncodesFit.dbgcmdStep (command : Nat) : EncodesFit.Statement (.dbgcmdStep command) := by
  intro n h
  cases h
theorem EncodesFit.dbgcmdRead (command : Nat) : EncodesFit.Statement (.dbgcmdRead command) := by
  intro n h
  cases h
theorem EncodesFit.dbgcmdWrite (command : Nat) : EncodesFit.Statement (.dbgcmdWrite command) := by
  intro n h
  cases h
theorem EncodesFit.dbgwpbWrite (watchpoint : Nat) (value : Nat) : EncodesFit.Statement (.dbgwpbWrite watchpoint value) := by
  intro n h
  cases h
theorem EncodesFit.capabilityRecheck (region : Nat) : EncodesFit.Statement (.capabilityRecheck region) := by
  intro n h
  cases h
theorem EncodesFit.pcSample (core : Nat) : EncodesFit.Statement (.pcSample core) := by
  intro n h
  cases h
theorem EncodesFit.registerWrite (basin : Nat) (offset : Nat) (size : Nat) (value : Nat) : EncodesFit.Statement (.registerWrite basin offset size value) := by
  intro n h
  cases h
theorem EncodesFit.illegalEncoding (word : Nat) (reason : Nat) : EncodesFit.Statement (.illegalEncoding word reason) := by
  intro n h
  cases h
theorem EncodesFit.atsInvalidationCompletion (port : Nat) (requester : Nat) : EncodesFit.Statement (.atsInvalidationCompletion port requester) := by
  intro n h
  cases h
theorem EncodesFit.rootPortCompletion (request : Nat) (status : Nat) (data : Nat) : EncodesFit.Statement (.rootPortCompletion request status data) := by
  intro n h
  cases h
theorem EncodesFit.cxlMemCompletion (port : Nat) (poisoned : Nat) : EncodesFit.Statement (.cxlMemCompletion port poisoned) := by
  intro n h
  cases h
theorem EncodesFit.pcieLinkDown (port : Nat) (dpc : Nat) : EncodesFit.Statement (.pcieLinkDown port dpc) := by
  intro n h
  cases h
theorem EncodesFit.hbmTrainingDone : EncodesFit.Statement .hbmTrainingDone := by
  intro n h
  cases h
theorem EncodesFit.gtbDiscipline (uncertainty : Nat) : EncodesFit.Statement (.gtbDiscipline uncertainty) := by
  intro n h
  cases h

end Sys2Proof.Laws
end

