-- ==== Sys2Proof/Tests/Slice0.lean ====
section
/-! SUPPORT. The model's own tests: well-formedness, decoding of words written out from the spec, one step of small states, and
states that meet the hypotheses of the statements. -/
namespace Sys2Proof.Tests
open Sys2Proof.Machine
-- Each theorem here asks the kernel for its evaluation, so they are elaborated one after another.
set_option Elab.async false

/-- A computation that answers, its value and the state it leaves. -/
def valO {α : Type} (r : EStateM.Result AErr State α) : Option α :=
  match r with
  | .ok a _ => some a
  | .error _ _ => none
def okB {α : Type} (r : EStateM.Result AErr State α) : Bool := (valO r).isSome
def valOf {α : Type} (r : EStateM.Result AErr State α) (h : okB r = true) : α := (valO r).get h
def stOf {α : Type} (r : EStateM.Result AErr State α) : State :=
  match r with
  | .ok _ t => t
  | .error _ t => t
theorem okay {α : Type} {r : EStateM.Result AErr State α} (h : okB r = true) : r = .ok (valOf r h) (stOf r) := by
  cases r with
  | ok a t => rfl
  | error e t => cases h
theorem there {α : Type} {o : Option α} (h : o.isSome = true) : o = some (o.get h) := (Option.some_get h).symm
def byteAt (r : EStateM.Result AErr State (List Byte × Bool)) (k : Nat) : Byte :=
  match r with
  | .ok a _ => a.1.getD k 0#8
  | .error _ _ => 0#8
def bytes4B (r : EStateM.Result AErr State (List Byte × Bool)) : Bool :=
  match r with
  | .ok (l, p) _ => l.length == 4 && !p
  | .error _ _ => false
theorem bytes4 {r : EStateM.Result AErr State (List Byte × Bool)} (h : bytes4B r = true) :
    r = .ok ([byteAt r 0, byteAt r 1, byteAt r 2, byteAt r 3], false) (stOf r) := by
  cases r with
  | error e t => cases h
  | ok a t =>
    obtain ⟨l, p⟩ := a
    simp only [bytes4B, Bool.and_eq_true, beq_iff_eq, Bool.not_eq_true'] at h
    match l, h.1 with
    | [a, b, c, d], _ => simp [byteAt, stOf, h.2]
def fetchedB (p : Except AErr Word × State) (w : Word) : Bool :=
  match p.1 with
  | .ok v => v == w
  | .error _ => false
theorem fetched {p : Except AErr Word × State} {w : Word} (h : fetchedB p w = true) : p = (.ok w, p.2) := by
  obtain ⟨e, t⟩ := p
  cases e with
  | ok v => simp [fetchedB] at h; simp [h]
  | error e => cases h
def nextB (o : Host.Outcome State Fault Refusal) : Bool :=
  match o with
  | .next _ => true
  | _ => false
def nextOf (o : Host.Outcome State Fault Refusal) : State :=
  match o with
  | .next t => t
  | _ => State.reset
theorem goes {o : Host.Outcome State Fault Refusal} (h : nextB o = true) : o = .next (nextOf o) := by
  cases o with
  | next t => rfl
  | _ => cases h

/-- The entry that issues, its instruction's issue, its group. -/
def issuerOf (s : State) : Nat × Group × List Nat :=
  s.issuer.getD (0, Group.fresh 0 0 0 0 { pipe := 0, slot := 0, slabs := [], wake := none } 0, [])
def grpOf (s : State) : Group := (issuerOf s).2.1
def issOf (s : State) : Iss := s.issueOf (issuerOf s).1 (issuerOf s).2.1 (issuerOf s).2.2
def readyB (s : State) (i : Instr) : Bool :=
  let x := issOf s
  let g := grpOf s
  s.issuer == some (x.gid, g, x.lanes) && s.issueOf x.gid g x.lanes == x && issueBad i x g == none &&
    x.lanes.all (fun l => match g.thread? l with
      | some th => th.failed == none && (!i.endsSfr || th.late == [])
      | none => false) && s.watchHit (s.regionOf g) x.pc.toNat 4 2 == none && maskBad i x g == none && g.upset == []
theorem ready_of {s : State} {i : Instr} (h : readyB s i = true) : Ready s i (issOf s) (grpOf s) := by
  unfold readyB at h
  simp only [Bool.and_eq_true, beq_iff_eq, List.all_eq_true] at h
  obtain ⟨⟨⟨⟨⟨⟨h1, h2⟩, h3⟩, h4⟩, h5⟩, h6⟩, h7⟩ := h
  refine ⟨h1, h2, h3, fun l hl => ?_, h5, h6, h7⟩
  have := h4 l hl
  split at this
  · next th ht =>
    simp only [Bool.and_eq_true, Bool.or_eq_true, Bool.not_eq_true', beq_iff_eq] at this
    exact ⟨th, ht, this.1, fun he => by simpa [he] using this.2⟩
  · cases this

/-- There is a state in which instruction i stands ready and effect e leads on. -/
def Meets (i : Instr) (e : Iss → State → State → Prop) : Prop := ∃ s x g u, Ready s i x g ∧ e x s u
/-- The same with the entry's threads alive in the state the effect leaves. -/
def MeetsLive (i : Instr) (e : Iss → State → State → Prop) : Prop := ∃ s x g u, Ready s i x g ∧ e x s u ∧ Live x u
def liveB (x : Iss) (u : State) : Bool := x.lanes.all fun l => match u.thread? x.gid l with
  | some p => !p.exited
  | none => false
theorem live_of {x : Iss} {u : State} (h : liveB x u = true) : Live x u := by
  intro l hl
  have := List.all_eq_true.1 h l hl
  split at this
  · next p hp => exact ⟨p, hp, by simpa using this⟩
  · cases this
theorem chain_one {r : Nat → State → State → Prop} {act : List Nat} {l : Nat} {s u : State} (ha : act = [l]) (h : r l s u) : Chain r act s u := by
  rw [ha]; exact .cons h (.nil u)
theorem gathers_one {α : Type} {r : Nat → State → α → State → Prop} {act : List Nat} {l : Nat} {v : α} {s m : State} (ha : act = [l])
    (h : r l s v m) : Gathers r act s [(l, v)] m := by
  rw [ha]; exact .cons h (.nil m)
theorem meets {i : Instr} {e : Iss → State → State → Prop} (s : State) (hr : readyB s i = true) (h : ∃ u, e (issOf s) s u) : Meets i e := by
  obtain ⟨u, hu⟩ := h
  exact ⟨s, _, _, u, ready_of hr, hu⟩
theorem meetsLive {i : Instr} {e : Iss → State → State → Prop} (s : State) (hr : readyB s i = true)
    (h : ∃ u, e (issOf s) s u ∧ liveB (issOf s) u = true) : MeetsLive i e := by
  obtain ⟨u, hu, hl⟩ := h
  exact ⟨s, _, _, u, ready_of hr, hu, live_of hl⟩
theorem meets_each {i : Instr} {R : Iss → Nat → State → State → Prop} (s : State) (l : Nat) (hr : readyB s i = true)
    (ha : (issOf s).act = [l]) (h : ∃ u, R (issOf s) l s u) : Meets i (EachLane R) := by
  obtain ⟨u, hu⟩ := h
  exact ⟨s, _, _, u, ready_of hr, chain_one ha hu⟩
theorem meetsLive_each {i : Instr} {R : Iss → Nat → State → State → Prop} (s : State) (l : Nat) (hr : readyB s i = true)
    (ha : (issOf s).act = [l]) (h : ∃ u, R (issOf s) l s u ∧ liveB (issOf s) u = true) : MeetsLive i (EachLane R) := by
  obtain ⟨u, hu, hl⟩ := h
  exact ⟨s, _, _, u, ready_of hr, chain_one ha hu, live_of hl⟩
theorem meets_once {i : Instr} {p : Iss → State → State → Prop} (s : State) (hr : readyB s i = true)
    (ha : (issOf s).act ≠ []) (h : ∃ u, p (issOf s) s u) : Meets i (Once p) := by
  obtain ⟨u, hu⟩ := h
  exact ⟨s, _, _, u, ready_of hr, by unfold Once; rw [if_neg ha]; exact hu⟩
theorem meetsLive_once {i : Instr} {p : Iss → State → State → Prop} (s : State) (hr : readyB s i = true)
    (ha : (issOf s).act ≠ []) (h : ∃ u, p (issOf s) s u ∧ liveB (issOf s) u = true) : MeetsLive i (Once p) := by
  obtain ⟨u, hu, hl⟩ := h
  exact ⟨s, _, _, u, ready_of hr, by unfold Once; rw [if_neg ha]; exact hu, live_of hl⟩

/-- A machine with one group of one thread (lane 0) on core 0, in region 0, its registers as listed. -/
def pc0 : DWord := 0x1000000000000#64
def regsOf (l : List (Nat × Word)) : NMap RegWord := l.map fun p => (p.1 * 32, regWord p.2)
def sregsOf (l : List (Nat × Word)) : NMap RegWord := l.map fun p => (p.1, regWord p.2)
def group0 (v s : List (Nat × Word)) : Group :=
  { Group.fresh 1 0 0 96 { pipe := 0, slot := 0, slabs := [], wake := none } 0 with
    regs := regsOf v, sregs := sregsOf s, threads := [(0, Thread.fresh pc0 0 [])] }
def wg0 : Workgroup := Workgroup.fresh 0 1 0 2 96
def machine (g : Group) : State :=
  { State.reset with
    groups := [(32, g)], wgs := [(1, wg0)], cur := some 32
    regions := [(0, { Region.fresh with words := [(4, 16#64)] })] }
def state0 (v s : List (Nat × Word)) : State := machine (group0 v s)
/-- A group whose thread has read hint words before the instruction. -/
def hinted (g : Group) (xm : Option (BitVec 23)) (xw : List (BitVec 23)) : Group :=
  { g with threads := g.threads.map fun p => (p.1, { p.2 with hint := some { first := pc0, xh := none, xm := xm, xw := xw } }) }

/-- The machine with memory: buffer 1 holds pages 0 (system-core memory), 1 (HBM4E) and 2 (HBM4E, executable), buffer 2 a register page of
basin 0; every master is admitted. -/
def bte1 : BitVec 256 := BitVec.ofNat 256 (2 ^ 159 + 31 * 2 ^ 153 + 2 ^ 16 * 2 ^ 64)
def bte2 : BitVec 256 := BitVec.ofNat 256 (2 ^ 159 + 2 ^ 158 + 3 * 2 ^ 153 + 4096 * 2 ^ 64 + 2 ^ 20)
def pageAt (vpn pa flags : Nat) : Tlb := { root := 0, vpn := vpn, pte := BitVec.ofNat 64 (pa + 1 + 256 + 3 * 2 ^ 9 + flags) }
def withMemory (s : State) : State :=
  let s := s.updCore 0 fun k => { k with
    bte := [(1, bte1), (2, bte2)]
    tlb := [pageAt 0 fetchBase 2, pageAt 1 0 2, pageAt 2 4096 4, pageAt 256 0xFFF0000000000 2] }
  let s := s.updBasin 0 fun b => { b with mat := [(0, fetchMat), (10 * 256, fetchMat), (12 * 256, fetchMat), (13 * 256, fetchMat)] }
  (((s.setReg 0 (.matctl 0) 1).setReg 0 (.matctl 10) 1).setReg 0 (.matctl 12) 1).setReg 0 (.matctl 13) 1
def memory0 (v s : List (Nat × Word)) : State := withMemory (state0 v s)
theorem joint_uniform {x : Iss} {o : Operand} {f : Nat → List Word} {m u : State} {l : Nat} {ls : List Nat} (hc : 104 ≤ o.code ∧ o.code < 120)
    (ha : x.act = l :: ls) (h : writeVals x l o (f l) [] m = .ok () u) : JointWrites x o f m u := by
  unfold JointWrites; rw [if_pos hc, ha]; exact h
theorem joint_lanes {x : Iss} {o : Operand} {f : Nat → List Word} {m u : State} {l : Nat} (hc : ¬(104 ≤ o.code ∧ o.code < 120))
    (ha : x.act = [l]) (h : writeVals x l o (f l) [] m = .ok () u) : JointWrites x o f m u := by
  unfold JointWrites; rw [if_neg hc]; exact chain_one ha h
theorem okaySame {α : Type} {r : EStateM.Result AErr State α} {m : State} (h : okB r = true) (hs : stOf r = m) : r = .ok (valOf r h) m := by
  subst hs; exact okay h
theorem unitSame {r : EStateM.Result AErr State Unit} {m : State} (h : okB r = true) (hs : stOf r = m) : r = .ok () m := okaySame h hs
theorem byNeg {c : Prop} [Decidable c] {p q : Prop} (hc : ¬c) (h : q) : if c then p else q := by rw [if_neg hc]; exact h
theorem byPos {c : Prop} [Decidable c] {p q : Prop} (hc : c) (h : p) : if c then p else q := by rw [if_pos hc]; exact h
theorem okaySome {α : Type} {r : EStateM.Result AErr State (Option α)} (h : (valO r).join.isSome = true) :
    r = .ok (some ((valO r).join.get h)) (stOf r) := by
  cases r with
  | error e t => cases h
  | ok a t => cases a with
    | none => cases h
    | some v => rfl
theorem okayIs {α : Type} {r : EStateM.Result AErr State α} {a : α} (h : valO r = some a) : r = .ok a (stOf r) := by
  cases r with
  | error e t => cases h
  | ok b t => cases h; rfl

-- Issuing (StepRunsDecoded to IllegalWordsTrap).
def ready32 : State := State.reset.withFetchWord 32 0x02010604
/-- A group whose trap waits for its handler's first word. -/
def enteringS : State := ready32.updGroup 32 fun g => { g with entering := some ([(0, trapOf .syscall 7#64)], pc0) }
theorem witness_StepRunsDecoded : (∃ (s m t : State) (gid : Nat) (g : Group) (l : Nat) (ls : List Nat) (w : BitVec 32) (i : Instr),
    s.agenda = [] ∧ (s.phase = false ∨ s.nextInternal = none) ∧ s.pick = some gid ∧
    m = (({ s with phase := true } : State).prepare gid).timers ∧ m.group? gid = some g ∧ g.entering = none ∧ m.entry g = l :: ls ∧
    m.fetch gid g (l :: ls) = (.ok w, t) ∧ decodeWord w = .ok i) ∧
    (∃ (s m : State) (gid : Nat) (g : Group) (p : NMap LaneTrap × DWord), s.agenda = [] ∧ (s.phase = false ∨ s.nextInternal = none) ∧
      s.pick = some gid ∧ m = (({ s with phase := true } : State).prepare gid).timers ∧ m.group? gid = some g ∧ g.entering = some p) :=
  ⟨⟨ready32, (({ ready32 with phase := true } : State).prepare 32).timers, _, 32, _, 0, (List.range 32).tail, 0x02010604#32, _, rfl, .inl rfl, (by decide +kernel),
    rfl, (there (by decide +kernel)), (by decide +kernel), (by decide +kernel), fetched (by decide +kernel), rfl⟩,
   ⟨enteringS, (({ enteringS with phase := true } : State).prepare 32).timers, 32, _, _, rfl, .inl rfl, (by decide +kernel), rfl, (there (by decide +kernel)), (there (by decide +kernel))⟩⟩
/-- A module whose boot has failed, an event due. -/
def failedBoot : State := { State.reset.setReg 0 .bootstat 1 with agenda := [.walkStart 0] }
theorem witness_StepPerformsEvents :
    (∃ (s : State) (e : Event) (es : List Event) (i : Instr), e.Is i ∧ s.bootFailed = false ∧ s.agenda = e :: es) ∧
    (∃ (s : State) (e : Event) (es : List Event) (i : Instr), e.Is i ∧ s.bootFailed = true ∧ (∀ code digest, e ≠ .moduleReset code digest) ∧ s.agenda = e :: es) ∧
    (∃ (s : State) (e : Event) (i : Instr), e.Is i ∧ s.bootFailed = false ∧ s.agenda = [] ∧ s.phase = true ∧ s.nextInternal = some e) :=
  ⟨⟨{ State.reset with agenda := [.walkStart 0] }, .walkStart 0, _, _, rfl, (by decide +kernel), rfl⟩,
   ⟨failedBoot, .walkStart 0, [], _, rfl, (by decide +kernel), fun _ _ h => (nomatch h), rfl⟩,
   ⟨({ State.reset with phase := true } : State).updBasin 0 fun b => { b with walks :=
      [{ root := 0, vpn := 0, core := none, region := 0, master := 0, write := false, started := false, failed := false }] },
     .walkStart 0, _, rfl, (by decide +kernel), rfl, (by decide +kernel), (by decide +kernel)⟩⟩
/-- Code in main memory: the thread stands in the executable page of buffer `e`. -/
def coded (e : BitVec 256) (c : NMap (BitVec 1024)) : State :=
  (withMemory (machine { group0 [] [] with threads := [(0, Thread.fresh (pc0 + 0x2000#64) 0 [])] })).updCore 0 fun k => { k with
    bte := [(1, e)], icache := c }
/-- The thread stands between two words. -/
def misaligned : State := machine { group0 [] [] with threads := [(0, Thread.fresh (pc0 + 2#64) 0 [])] }
def notRegB (pa : Nat) : Bool :=
  match targetOf pa with
  | .reg _ _ => false
  | _ => true
theorem notReg {pa : Nat} (h : notRegB pa = true) : ∀ b o, targetOf pa ≠ .reg b o := by
  intro b o e
  rw [notRegB, e] at h
  cases h
theorem witness_FetchReadsTheWord :
    (∃ (s : State) (g : Group) (th : Thread), s.group? 32 = some g ∧ g.thread? 0 = some th ∧ th.pc.toNat % 4 ≠ 0) ∧
    (∃ (s m : State) (gid : Nat) (g : Group) (th : Thread) (a : Xlat), g.thread? 0 = some th ∧ th.pc.toNat % 4 = 0 ∧ translate (s.whoOf g) th.pc.toNat 4 .fetch s = .ok a m ∧
      isMain a.pa = false ∧ (∀ b o, targetOf a.pa ≠ .reg b o) ∧ ∃ b0 b1 b2 b3 u, loadAt (s.viaOf g gid 0) a 4 m = .ok ([b0, b1, b2, b3], false) u) ∧
    (∃ (s m m' : State) (gid : Nat) (g : Group) (th : Thread) (a : Xlat), g.thread? 0 = some th ∧ th.pc.toNat % 4 = 0 ∧ translate (s.whoOf g) th.pc.toNat 4 .fetch s = .ok a m ∧
      isMain a.pa = true ∧ a.por = false ∧ a.badKey = false ∧ a.dev = true ∧ tornGate g.core (lineOf a.pa) m = .ok () m' ∧
      ∃ b0 b1 b2 b3 u, loadAt (s.viaOf g gid 0) a 4 m' = .ok ([b0, b1, b2, b3], false) u) ∧
    (∃ (s m : State) (g : Group) (th : Thread) (a : Xlat) (d : BitVec 1024), g.thread? 0 = some th ∧ th.pc.toNat % 4 = 0 ∧ translate (s.whoOf g) th.pc.toNat 4 .fetch s = .ok a m ∧
      isMain a.pa = true ∧ a.por = false ∧ a.badKey = false ∧ a.dev = false ∧ (m.core g.core).icache.look (lineOf (keyOf a.pa)) = some d) :=
  ⟨⟨misaligned, _, _, (there (by decide +kernel)), (there (by decide +kernel)), (by decide +kernel)⟩,
   ⟨ready32, _, 32, (ready32.group? 32).get (by decide +kernel), _, _, (there (by decide +kernel)), (by decide +kernel), (okay (by decide +kernel)), (by decide +kernel), notReg (by decide +kernel), _, _, _, _, _, bytes4 (by decide +kernel)⟩,
   ⟨coded (bte1 ||| 2 ^ 158) [], _, _, 32, ((coded (bte1 ||| 2 ^ 158) []).group? 32).get (by decide +kernel), _, _, (there (by decide +kernel)), (by decide +kernel), (okay (by decide +kernel)), (by decide +kernel), (by decide +kernel), (by decide +kernel), (by decide +kernel), (okay (by decide +kernel)), _, _, _, _, _, bytes4 (by decide +kernel)⟩,
   ⟨coded bte1 [(32, 0#1024)], _, ((coded bte1 [(32, 0#1024)]).group? 32).get (by decide +kernel), _, _, _, (there (by decide +kernel)), (by decide +kernel), (okay (by decide +kernel)), (by decide +kernel), (by decide +kernel), (by decide +kernel), (by decide +kernel), (there (by decide +kernel))⟩⟩

theorem witness_EncodeThenDecode : ∃ i : Instr, i.wellFormed = true := ⟨.iadd 1#2 127#7 127#7 127#7, (by decide +kernel)⟩
theorem witness_DecodeThenEncode : ∃ (w : BitVec 32) (i : Instr), decodeWord w = .ok i := ⟨0x02010604#32, _, rfl⟩
theorem witness_StepKeepsMemoryForm : ∃ s t : State, Machine.Inv s ∧ step s = .next t := ⟨ready32, _, (by unfold Machine.Inv; decide +kernel), (goes (by decide +kernel))⟩
theorem witness_IllegalWordsTrap :
    (∃ (s : State) (gid : Nat) (g : Group) (lanes : List Nat), s.issuer = some (gid, g, lanes) ∧ s.failedLanes gid lanes = []) ∧
    (∃ (i : Instr) (s : State) (x : Iss) (g : Group) (w : BitVec 32) (r : Nat), i.isEvent = false ∧ i.isHint = false ∧ i ≠ .exitI ∧
      s.issuer = some (x.gid, g, x.lanes) ∧ s.issueOf x.gid g x.lanes = x ∧ s.failedLanes x.gid x.lanes = [] ∧
      (i.endsSfr = true → ∀ l ∈ x.act, ∀ th, g.thread? l = some th → th.late = []) ∧ encode i = some w ∧ issueBad i x g = some r) :=
  ⟨⟨state0 [] [], 32, group0 [] [], [0], (by decide +kernel), (by decide +kernel)⟩,
   ⟨.iadd 0#2 1#7 96#7 3#7, state0 [] [], issOf (state0 [] []), group0 [] [], _, _, rfl, rfl, nofun, (by decide +kernel), (by decide +kernel), (by decide +kernel), nofun, (there (by decide +kernel)), (there (by decide +kernel))⟩⟩
def bad (v : Word) : RegWord := { val := v, res := 0x7F#7 }
def damaged (v : Word) : RegWord := { val := v, res := BitVec.ofNat 7 ((v.toNat + 1) % 127) }
def stateR (a b : RegWord) : State := machine { group0 [] [] with regs := [(95 * 32, a), (0, b)] }
/-- A group whose thread holds latches. -/
def aLatch : Latch := { val := 5#64, par := 0#8, dep := [] }
def latch0 : Thread := { Thread.fresh pc0 0 [] with latches := [aLatch, aLatch, aLatch, aLatch] }
def latched : State := machine { group0 [] [] with threads := [(0, latch0)] }
theorem witness_SourceOperands :
    (∀ c ∈ [96, 99], ∀ n ∈ [1, 2], ∃ (x : Iss) (o : Operand) (s : State) (g : Group) (th : Thread) (y : Latch), s.group? x.gid = some g ∧ o.code = c ∧ o.n = n ∧
      g.thread? 0 = some th ∧ th.latches[o.code - 96]? = some y ∧ y.par = 0#8) ∧
    (∃ (x : Iss) (s : State) (g : Group), s.group? x.gid = some g ∧ ∀ k < 16, x.us.getD k zeroWord = g.getS k) ∧
    (∃ (x : Iss) (s : State) (g : Group), s.group? x.gid = some g) ∧
    (∀ c ∈ [0, 95, 104, 119, 120, 121, 122, 123, 124, 127], ∃ o : Operand, o.code = c ∧ o.n = 1) ∧
    (∃ (x : Iss) (s : State) (g : Group) (w : Workgroup), s.group? x.gid = some g ∧ s.wgs.look g.wg = some w) ∧
    (∀ p ∈ [(regWord 1#32, regWord 2#32), (bad 1#32, regWord 2#32), (regWord 1#32, bad 2#32), (damaged 1#32, regWord 2#32), (regWord 1#32, damaged 2#32)],
      ∃ (x : Iss) (s : State) (g : Group), s.group? x.gid = some g ∧ g.getV 0 95 = p.1 ∧ g.getV 0 0 = p.2) ∧
    (bad 1#32).poisoned = true ∧ (damaged 1#32).poisoned = false ∧ (damaged 1#32).bad = true ∧ (regWord 1#32).bad = false := by
  refine ⟨?_, ⟨issOf (state0 [] []), state0 [] [], group0 [] [], (by decide +kernel), (by decide +kernel)⟩, ⟨issOf (state0 [] []), state0 [] [], _, (there (by decide +kernel))⟩, ?_,
    ⟨issOf (state0 [] []), state0 [] [], group0 [] [], wg0, (by decide +kernel), (by decide +kernel)⟩, ?_, (by decide +kernel), (by decide +kernel), (by decide +kernel), (by decide +kernel)⟩
  · intro c hc n _
    have hg : latched.group? (issOf latched).gid = some { group0 [] [] with threads := [(0, latch0)] } := (by decide +kernel)
    have h0 : ({ group0 [] [] with threads := [(0, latch0)] } : Group).thread? 0 = some latch0 := rfl
    simp only [List.mem_cons, List.not_mem_nil, or_false] at hc
    obtain rfl | rfl := hc
    · exact ⟨issOf latched, { cls := .src, code := 96, n := n, read := true, write := false }, latched, _, latch0, aLatch, hg, rfl, rfl, h0, rfl, rfl⟩
    · exact ⟨issOf latched, { cls := .src, code := 99, n := n, read := true, write := false }, latched, _, latch0, aLatch, hg, rfl, rfl, h0, rfl, rfl⟩
  · intro c hc; exact ⟨{ cls := .src, code := c, n := 1, read := true, write := false }, rfl, rfl⟩
  · intro p hp
    simp only [List.mem_cons, List.not_mem_nil, or_false] at hp
    obtain rfl | rfl | rfl | rfl | rfl := hp
    · exact ⟨issOf (state0 [] []), stateR (regWord 1#32) (regWord 2#32), _, (there (by decide +kernel)), (by decide +kernel), (by decide +kernel)⟩
    · exact ⟨issOf (state0 [] []), stateR (bad 1#32) (regWord 2#32), _, (there (by decide +kernel)), (by decide +kernel), (by decide +kernel)⟩
    · exact ⟨issOf (state0 [] []), stateR (regWord 1#32) (bad 2#32), _, (there (by decide +kernel)), (by decide +kernel), (by decide +kernel)⟩
    · exact ⟨issOf (state0 [] []), stateR (damaged 1#32) (regWord 2#32), _, (there (by decide +kernel)), (by decide +kernel), (by decide +kernel)⟩
    · exact ⟨issOf (state0 [] []), stateR (regWord 1#32) (damaged 2#32), _, (there (by decide +kernel)), (by decide +kernel), (by decide +kernel)⟩
theorem witness_DestinationOperands : ∀ p ∈ [(94, 2), (104, 1), (118, 2), (127, 1)], ∃ (x : Iss) (o : Operand) (ws : List Word) (s : State) (g : Group)
    (th : Thread), s.group? x.gid = some g ∧ g.thread? 0 = some th ∧ o.n = ws.length ∧ o.code = p.1 ∧ o.n = p.2 := by
  intro p _
  exact ⟨issOf latched, { cls := .dst, code := p.1, n := p.2, read := false, write := true }, List.replicate p.2 0#32, latched, _, _, (there (by decide +kernel)), (there (by decide +kernel)), by simp, rfl, rfl⟩
def aStream : Stream := { num := 1, desc := [0#64, 0x0001000000000001#64, 0#64, 0#64], moved := 1, region := 0, ue := false, park := none, again := false }
def longStream : Stream := { aStream with desc := [0#64, 0x0001000000000008#64, 0#64, 0#64], moved := 0 }
def stateQ (k : Queue) : State := machine { group0 [] [] with queues := [(3, k)] }
def aQueue (d : Bool) (ws : List RegWord) (t : Option Stream) : Queue :=
  { stream := t, words := ws.map RegWord.queued, dir := d, status := 0, unit := none, struck := false, ended := none }
theorem witness_QueueOperands : ∀ k ∈ [aQueue false [regWord 1#32] none, aQueue false [] (some aStream), aQueue false [] none, aQueue true [] none,
      aQueue true [] (some longStream), aQueue true (List.replicate 128 (regWord 1#32)) (some longStream), aQueue true [] (some aStream)],
    ∃ (x : Iss) (s : State) (g : Group), s.group? x.gid = some g ∧ x.pos = 0 ∧ g.queues.get .empty (103 - 100) = k := by
  intro k _
  exact ⟨issOf (state0 [] []), stateQ k, { group0 [] [] with queues := [(3, k)] }, rfl, (by decide +kernel), rfl⟩
/-- A load queue in the staging unit of bank 0 whose first word, or no word, has been found uncorrectable. -/
def stagedQueue (t : Option Stream) : Queue := { aQueue false [regWord 1#32] t with unit := some 0, ended := if t.isNone then some aStream else none }
def stagedState (t : Option Stream) (e : Nat) : State :=
  (stateQ (stagedQueue t)).updCore 0 fun k => { k with soft := if e = 0 then [] else [((stagedQueue t).place 0, e)] }
theorem witness_QueueStaging : (∀ t ∈ [none, some longStream], ∃ (x : Iss) (g : Group), (stagedState t 2).group? x.gid = some g ∧
      g.queues.get .empty 3 = stagedQueue t ∧ (stagedState t 2).queueBad g.core x.gid 3 (stagedQueue t) 1 ≠ []) ∧
    (∃ (x : Iss) (g : Group), (stagedState (some longStream) 1).group? x.gid = some g ∧ g.queues.get .empty 3 = stagedQueue (some longStream) ∧
      (stagedState (some longStream) 1).queueBad g.core x.gid 3 (stagedQueue (some longStream)) 1 = []) := by
  refine ⟨fun t h => ?_, issOf (state0 [] []), { group0 [] [] with queues := [(3, stagedQueue (some longStream))] }, (by decide +kernel), rfl, (by decide +kernel)⟩
  simp only [List.mem_cons, List.not_mem_nil, or_false] at h
  obtain rfl | rfl := h
  · exact ⟨issOf (state0 [] []), { group0 [] [] with queues := [(3, stagedQueue none)] }, (by decide +kernel), rfl, (by decide +kernel)⟩
  · exact ⟨issOf (state0 [] []), { group0 [] [] with queues := [(3, stagedQueue (some longStream))] }, (by decide +kernel), rfl, (by decide +kernel)⟩
theorem test_queue_room : 1 ≤ (aQueue true [] (some longStream)).room longStream ∧ (aQueue true [] (some aStream)).room aStream < 1 ∧
    (aQueue true [] (some longStream)).cap < 128 + 1 := by decide +kernel

-- Integer, lane and floating-point instructions.
def vv : State := state0 [(2, 5#32), (3, 7#32), (4, 0x80000000#32), (5, 0#32)] [(1, 3#32), (2, 9#32)]
theorem witness_IntegerArithmetic : Meets (.imad 0#2 1#7 2#7 4#7) (EachLane fun x => LaneResult (.imad 0#2 1#7 2#7 4#7) 32
    (fun l => wrapOrSat x 32 ((src l 1).toInt * (src l 2).toInt + (src l 0).toInt)) x) :=
  meets_each vv 0 (by decide +kernel) (by decide +kernel) ⟨_, _, _, _, _, (there (by decide +kernel)), (okay (by decide +kernel)), (there (by decide +kernel)), (okay (by decide +kernel))⟩
theorem witness_IntegerArithmetic64 : Meets (.idiv 1#2 6#7 2#7 4#7 0#1) (EachLane fun x => LaneResult (.idiv 1#2 6#7 2#7 4#7 0#1) 64
    (fun l => if src l 1 = 0#64 then BitVec.allOnes 64 else (src l 0).sdiv (src l 1)) x) :=
  meets_each vv 0 (by decide +kernel) (by decide +kernel) ⟨_, _, _, _, _, (there (by decide +kernel)), (okay (by decide +kernel)), (there (by decide +kernel)), (okay (by decide +kernel))⟩
theorem witness_LogicShiftsAndBits :
    Meets (.rotl 1#2 6#7 2#7 4#7) (EachLane (LaneResult (.rotl 1#2 6#7 2#7 4#7) 64 (fun l => (src l 0).rotateLeft ((src l 1).toNat % 64)))) ∧
    Meets (.bfi 0#2 1#7 2#7 3#7) (EachLane fun x => LaneResult (.bfi 0#2 1#7 2#7 3#7) 32 (((bitwise (.bfi 0#2 1#7 2#7 3#7)).get (by decide +kernel)) x) x) ∧
    Meets (.clz 0#2 1#7 5#7) (EachLane (LaneResult (.clz 0#2 1#7 5#7) 32 ((((counts (.clz 0#2 1#7 5#7)).get (by decide +kernel)).2) 32))) :=
  ⟨meets_each vv 0 (by decide +kernel) (by decide +kernel) ⟨_, _, _, _, _, (there (by decide +kernel)), (okay (by decide +kernel)), (there (by decide +kernel)), (okay (by decide +kernel))⟩, meets_each vv 0 (by decide +kernel) (by decide +kernel) ⟨_, _, _, _, _, (there (by decide +kernel)), (okay (by decide +kernel)), (there (by decide +kernel)), (okay (by decide +kernel))⟩,
   meets_each vv 0 (by decide +kernel) (by decide +kernel) ⟨_, _, _, _, _, (there (by decide +kernel)), (okay (by decide +kernel)), (there (by decide +kernel)), (okay (by decide +kernel))⟩⟩
def withOpd : State := machine (hinted (group0 [(2, 5#32), (3, 7#32), (5, 0#32)] []) (some (BitVec.ofNat 23 (12 * 2 ^ 11 + 5 * 2 ^ 3))) [])
theorem witness_CompareAndSelect :
    Meets (.icmp 0#2 2#3 11#4 2#7 3#7 1#2) (EachLane (LaneCompare (.icmp 0#2 2#3 11#4 2#7 3#7 1#2) 32 2#3 11#4 1#2 none)) ∧
    Meets (.icmpi 3#2 7#3 0#4 2#7 0x1FF#9) (EachLane fun x => LaneCompare (.icmpi 3#2 7#3 0#4 2#7 0x1FF#9) 32 7#3 0#4 3#2 (some (immOf x 32 0x1FF#9)) x) ∧
    Meets (.sel 0#2 1#7 2#7 3#7 3#2) (EachLane (LaneSelect 0#2 1#7 2#7 3#7 3#2)) :=
  ⟨meets_each vv 0 (by decide +kernel) (by decide +kernel) ⟨_, _, _, (okay (by decide +kernel)), rfl⟩, meets_each vv 0 (by decide +kernel) (by decide +kernel) ⟨_, _, _, (okay (by decide +kernel)), rfl⟩,
   meets_each withOpd 0 (by decide +kernel) (by decide +kernel) ⟨_, _, _, _, (there (by decide +kernel)), (okay (by decide +kernel)), (okay (by decide +kernel))⟩⟩
/-- What reading a pair gives. -/
def pairB (r : EStateM.Result AErr State (List RegWord)) : Bool :=
  match r with
  | .ok l _ => l.length == 2
  | .error _ _ => false
def wordAt (r : EStateM.Result AErr State (List RegWord)) (k : Nat) : RegWord :=
  match r with
  | .ok l _ => l.getD k zeroWord
  | .error _ _ => zeroWord
theorem pairRead {r : EStateM.Result AErr State (List RegWord)} (h : pairB r = true) : r = .ok [wordAt r 0, wordAt r 1] (stOf r) := by
  cases r with
  | error e t => cases h
  | ok l t =>
    simp only [pairB, beq_iff_eq] at h
    match l, h with
    | [a, b], _ => rfl
def addrFar : State := state0 [(2, 0xFFFFFFFF#32), (3, 0x1FFFF#32), (4, 16#32), (5, 0#32)] []
theorem witness_AddressArithmetic :
    Meets (.leas 6#7 2#7 4#7 2#2) (EachLane (LaneAddress (.leas 6#7 2#7 4#7 2#2) 6#7 2#7 4#7 1)) ∧
    Meets (.lea 6#7 2#7 4#7) (EachLane (LaneAddress (.lea 6#7 2#7 4#7) 6#7 2#7 4#7 2)) ∧
    (∀ p ∈ [(Instr.lea 6#7 2#7 4#7, 2), (.leas 6#7 2#7 4#7 2#2, 1)], addressSource p.1 = some (6#7, 2#7, 4#7, p.2) ∧
      ∃ (m : State) (x : Iss) (g : Group) (h : BitVec 64) (ws : List Word), Ready addrFar p.1 x g ∧ x.pos = 0 ∧ x.act = [0] ∧ x.lanes = [0] ∧
        AddressRead 2#7 4#7 p.2 x 0 addrFar h ws m ∧ (h + BitVec.ofInt 64 (offsetOf p.1 ws)).extractLsb' 48 16 ≠ h.extractLsb' 48 16) := by
  refine ⟨meets_each vv 0 (by decide +kernel) (by decide +kernel) ⟨_, _, _, _, _, (there (by decide +kernel)), ⟨_, _, _, _, pairRead (by decide +kernel), (okay (by decide +kernel)), (by decide +kernel), rfl, rfl⟩, (by decide +kernel), (okay (by decide +kernel))⟩,
    meets_each vv 0 (by decide +kernel) (by decide +kernel) ⟨_, _, _, _, _, (there (by decide +kernel)), ⟨_, _, _, _, pairRead (by decide +kernel), (okay (by decide +kernel)), (by decide +kernel), rfl, rfl⟩, (by decide +kernel), (okay (by decide +kernel))⟩, fun p hp => ?_⟩
  simp only [List.mem_cons, List.not_mem_nil, or_false] at hp
  obtain rfl | rfl := hp
  · exact ⟨rfl, _, issOf addrFar, _, _, _, ready_of (by decide +kernel), (by decide +kernel), (by decide +kernel), (by decide +kernel), ⟨_, _, _, _, pairRead (by decide +kernel), (okay (by decide +kernel)), (by decide +kernel), rfl, rfl⟩, (by decide +kernel)⟩
  · exact ⟨rfl, _, issOf addrFar, _, _, _, ready_of (by decide +kernel), (by decide +kernel), (by decide +kernel), (by decide +kernel), ⟨_, _, _, _, pairRead (by decide +kernel), (okay (by decide +kernel)), (by decide +kernel), rfl, rfl⟩, (by decide +kernel)⟩
theorem witness_Votes :
    Meets (.peers 0#2 1#7 2#7) (fun x s u => ∃ vs m, Gathers (VoteRead (.peers 0#2 1#7 2#7) 32 x) x.act s vs m ∧
      JointWrites x (((destOf (.peers 0#2 1#7 2#7))).get (by decide +kernel)) (fun l => [(((voteOf (.peers 0#2 1#7 2#7)).get (by decide +kernel)).2) vs l]) m u) ∧
    Meets (.ballot 1#2 105#7 2#7) (fun x s u => ∃ vs m, Gathers (VoteRead (.ballot 1#2 105#7 2#7) 64 x) x.act s vs m ∧
      JointWrites x (((destOf (.ballot 1#2 105#7 2#7))).get (by decide +kernel)) (fun l => [(((voteOf (.ballot 1#2 105#7 2#7)).get (by decide +kernel)).2) vs l]) m u) := by
  exact ⟨meets vv (by decide +kernel) ⟨_, _, _, gathers_one (l := 0) (by decide +kernel) ⟨_, (okay (by decide +kernel)), rfl⟩, joint_lanes (l := 0) (by decide +kernel) (by decide +kernel) (okay (by decide +kernel))⟩,
    meets vv (by decide +kernel) ⟨_, _, _, gathers_one (l := 0) (by decide +kernel) ⟨_, (okay (by decide +kernel)), rfl⟩, joint_uniform (l := 0) (ls := []) (by decide +kernel) (by decide +kernel) (okay (by decide +kernel))⟩⟩
theorem witness_ExchangeAndFold :
    Meets (.lxch 0#2 1#7 2#7 5#7 3#2) (ExchangeEffect 0#2 1#7 2#7 5#7 3#2) ∧
    Meets (.lfold 0#2 1#7 2#7 4#7 0#1) (FoldEffect 0#2 1#7 2#7 4#7 0#1) ∧ Meets (.lfold 0#2 1#7 2#7 3#7 1#1) (FoldEffect 0#2 1#7 2#7 3#7 1#1) :=
  ⟨meets vv (by decide +kernel) ⟨_, _, _, gathers_one (v := (_, _)) (l := 0) (by decide +kernel) ⟨_, (okay (by decide +kernel)), (okay (by decide +kernel))⟩, chain_one (l := 0) (by decide +kernel) ⟨_, _, (there (by decide +kernel)), (there (by decide +kernel)), (by decide +kernel), (okay (by decide +kernel))⟩⟩,
   meets vv (by decide +kernel) ⟨_, _, _, _, _, _, (there (by decide +kernel)), gathers_one (l := 0) (by decide +kernel) (okay (by decide +kernel)), (there (by decide +kernel)), ⟨(by decide +kernel), rfl⟩, joint_lanes (l := 0) (by decide +kernel) (by decide +kernel) (okay (by decide +kernel))⟩,
   meets vv (by decide +kernel) ⟨_, _, _, _, _, _, (there (by decide +kernel)), gathers_one (l := 0) (by decide +kernel) (okay (by decide +kernel)), (there (by decide +kernel)), ⟨(by decide +kernel), rfl⟩, joint_lanes (l := 0) (by decide +kernel) (by decide +kernel) (okay (by decide +kernel))⟩⟩
theorem witness_FloatArithmetic : Meets (.fmac 0#2 1#7 2#7 3#7) (EachLane (LaneFloat (.fmac 0#2 1#7 2#7 3#7) fmtF32
    (roundOnce fmtF32 (((floatExact (.fmac 0#2 1#7 2#7 3#7)).get (by decide +kernel)).2)))) :=
  meets_each vv 0 (by decide +kernel) (by decide +kernel) ⟨_, _, _, _, _, _, (there (by decide +kernel)), (okay (by decide +kernel)), (there (by decide +kernel)), ⟨(by decide +kernel), rfl⟩, (okay (by decide +kernel))⟩
theorem witness_FloatSelection :
    Meets (.fminm 0#2 1#7 2#7 3#7) (EachLane (LaneFloat (.fminm 0#2 1#7 2#7 3#7) fmtF32 (((floatPick (.fminm 0#2 1#7 2#7 3#7)).get (by decide +kernel)).2))) ∧
    Meets (.fcpysgn 1#2 6#7 2#7 4#7) (EachLane (LaneCopySign 1#2 6#7 2#7 4#7)) ∧
    Meets (.fcmp 0#2 2#3 3#4 2#7 3#7 0#2) (EachLane (LaneFcmp 0#2 2#3 3#4 2#7 3#7 0#2)) ∧
    Meets (.fclass 0#2 1#7 4#7) (EachLane (LaneClass 0#2 1#7 4#7)) :=
  ⟨meets_each vv 0 (by decide +kernel) (by decide +kernel) ⟨_, _, _, _, _, _, (there (by decide +kernel)), (okay (by decide +kernel)), (there (by decide +kernel)), ⟨(by decide +kernel), rfl⟩, (okay (by decide +kernel))⟩, meets_each vv 0 (by decide +kernel) (by decide +kernel) ⟨_, _, _, (okay (by decide +kernel)), (okay (by decide +kernel))⟩,
   meets_each vv 0 (by decide +kernel) (by decide +kernel) ⟨_, _, _, _, _, (there (by decide +kernel)), (okay (by decide +kernel)), ⟨(by decide +kernel), rfl⟩, rfl⟩, meets_each vv 0 (by decide +kernel) (by decide +kernel) ⟨_, _, _, (okay (by decide +kernel)), (okay (by decide +kernel))⟩⟩
theorem witness_RoundingIsExactWhereItCanBe : ∃ (f : Fmt) (c : Nat) (rd : Rnd), f ∈ [fmtF32, fmtF16, fmtBF16, fmtF64] ∧ c < 2 ^ f.bits ∧
    isNaNCode f c = false ∧ rd.ftz = false ∧ rd.mode ≤ 5 ∧ rd.mode ≠ 0 ∧ rd.sat = false :=
  ⟨fmtF32, 0xFF800000, { mode := 5, r := 0, w := 0, sat := false, ftz := false }, (by decide +kernel), (by decide +kernel), (by decide +kernel), (by decide +kernel), (by decide +kernel), (by decide +kernel), (by decide +kernel)⟩
/-- The hypotheses of the statements on codes: values to round, finite numbers, infinities and NaNs of each sort, and a place of PACK4. -/
theorem witness_FloatCodes :
    (∃ (f : Fmt) (m : Nat) (rd : Rnd), f ∈ [fmtF32, fmtF16, fmtBF16, fmtF64, fmtE5M2, fmtE4M3] ∧ m ≠ 0 ∧ 2 ^ (f.frac + 2) ≤ m ∧
      rd.ftz = false ∧ rd.sat = false ∧ 1 ≤ rd.mode ∧ rd.mode ≤ 5) ∧
    (finiteCode fmtF16 0x3E00 ∧ finiteCode fmtE4M3 0x7E ∧ ¬ finiteCode fmtE4M3 0x7F ∧ ¬ finiteCode fmtF16 0x7C00) ∧
    (∃ j g, (j, g) ∈ [(0, 1), (1, 1), (2, 1), (3, 1), (4, 2), (5, 2), (6, 4), (7, 1)] ∧ finiteCode fmtF32 0xC0A00000 ∧
      let a := (fixed fmtF32 0xC0A00000).natAbs
      let low : Nat := [0, 1, 2, 3, 4, 6, 8, 12].getD j 0
      a ≤ 6 * oneOf fmtF32 ∧ low * oneOf fmtF32 ≤ 2 * a ∧ 2 * a < (low + g) * oneOf fmtF32) ∧ 6 * oneOf fmtF32 < (fixed fmtF32 0x40E00000).natAbs :=
  ⟨⟨fmtE4M3, 464, rne, (by decide +kernel), (by decide +kernel), (by decide +kernel), rfl, rfl, (by decide +kernel), (by decide +kernel)⟩, by unfold finiteCode; decide +kernel, ⟨6, 4, (by decide +kernel), by unfold finiteCode; decide +kernel, (by decide +kernel)⟩, (by decide +kernel)⟩
/-- R247: into e4m3 464 rounds to 448 and 470 overflows. -/
theorem test_e4m3_overflow : roundTo fmtE4M3 (.num false 464 0 false) rne = (0x7E, 1) ∧ roundTo fmtE4M3 (.num false 470 0 false) rne = (0x7F, 21) := by
  decide +kernel
/-- R289: −5 lies between −4 and −6; a magnitude above 6 gives 6 in every mode. -/
theorem test_pack4 : pack4Code (decodeF fmtF32 0xC0A00000) { rne with mode := 3 } = (15, 1) ∧
    pack4Code (decodeF fmtF32 0x40E00000) { rne with mode := 2 } = (7, 5) := by decide +kernel
theorem witness_ApproximateFunctions : ∃ f ulps h slack, approximated (.frsq 0#2 1#7 2#7) = some (f, ulps, h, slack) := ⟨_, _, _, _, rfl⟩
theorem witness_Conversions : (∃ rb : Iss → Nat × Nat, ∃ four : Iss → Option Operand, ∃ op : Iss → Rnd → List Nat → Nat × Nat,
      (∀ x, conversion x (.cvtIntToFloat 1#7 2#7 0#2 0#2) = some (rb x, four x, op x)) ∧
      Meets (.cvtIntToFloat 1#7 2#7 0#2 0#2) (EachLane fun x => LaneConvert (.cvtIntToFloat 1#7 2#7 0#2 0#2) (rb x) (four x) (op x) x)) ∧
    Meets (.scaleb 0#2 1#7 2#7 3#7) (EachLane (LaneScale 0#2 1#7 2#7 3#7)) :=
  ⟨⟨_, _, _, fun _ => rfl, meets_each vv 0 (by decide +kernel) (by decide +kernel) ⟨_, _, _, _, _, _, (there (by decide +kernel)), (okay (by decide +kernel)), (there (by decide +kernel)), ⟨(by decide +kernel), rfl⟩, (okay (by decide +kernel))⟩⟩,
   meets_each vv 0 (by decide +kernel) (by decide +kernel) ⟨_, _, _, _, _, (there (by decide +kernel)), (okay (by decide +kernel)), ⟨(by decide +kernel), rfl⟩, (okay (by decide +kernel))⟩⟩
theorem witness_UniformInstructions :
    (∃ s x g p q, Ready s (.sadd 1#6 1#6 0#1 2#9) x g ∧ x.act ≠ [] ∧ g.getS 1 = regWord p ∧ UniformY x g 0#1 2#9 q) ∧
    (∃ s x g q, Ready s (.scmp 1#6 1#6 1#1 0x1FF#9) x g ∧ x.act ≠ [] ∧ UniformY x g 1#1 0x1FF#9 q) ∧
    (∃ s x g p, Ready s (.smov 15#6 1#6) x g ∧ x.act ≠ [] ∧ g.getS 1 = regWord p) ∧ (∃ s x g, Ready s (.smovi 15#6 0x1FF#9) x g ∧ x.act ≠ []) ∧
    (∃ s x g c p q, Ready s (.ssel 0#6 1#6 2#6) x g ∧ x.act ≠ [] ∧ g.getS 0 = regWord c ∧ g.getS 1 = regWord p ∧ g.getS 2 = regWord q) ∧
    (∃ s x g l v, Ready s (.vrd 3#6 1#6 2#7) x g ∧ x.act ≠ [] ∧ g.getS 1 = regWord l ∧ g.getV (l.toNat % 32) 2 = regWord v) ∧
    (∃ s x g l v, Ready s (.vwr 2#6 1#6 95#7) x g ∧ x.act ≠ [] ∧ g.getS 1 = regWord l ∧ g.getS 2 = regWord v) ∧
    (∃ s x g lo hi q, Ready s (.slea 3#2 4#6 2#6 0#1 1#9) x g ∧ x.act ≠ [] ∧ g.getS 2 = regWord lo ∧ g.getS 3 = regWord hi ∧ UniformY x g 0#1 1#9 q ∧
      (hi ++ lo + BitVec.ofInt 64 (q.toInt * 16) : BitVec 64).extractLsb' 48 16 = (hi ++ lo : BitVec 64).extractLsb' 48 16) :=
  ⟨⟨vv, _, _, 3#32, 9#32, ready_of (by decide +kernel), (by decide +kernel), (by decide +kernel), by unfold UniformY; decide +kernel⟩, ⟨vv, _, _, _, ready_of (by decide +kernel), (by decide +kernel), by unfold UniformY; rw [if_neg (by decide +kernel)]⟩,
   ⟨vv, _, _, 3#32, ready_of (by decide +kernel), (by decide +kernel), (by decide +kernel)⟩, ⟨vv, _, _, ready_of (by decide +kernel), (by decide +kernel)⟩, ⟨vv, _, _, 0#32, 3#32, 9#32, ready_of (by decide +kernel), (by decide +kernel), (by decide +kernel), (by decide +kernel), (by decide +kernel)⟩,
   ⟨vv, _, _, 3#32, 0#32, ready_of (by decide +kernel), (by decide +kernel), (by decide +kernel), (by decide +kernel)⟩, ⟨vv, _, _, 3#32, 9#32, ready_of (by decide +kernel), (by decide +kernel), (by decide +kernel), (by decide +kernel)⟩,
   ⟨vv, _, _, 9#32, 0#32, 3#32, ready_of (by decide +kernel), (by decide +kernel), (by decide +kernel), (by decide +kernel), by unfold UniformY; decide +kernel, (by decide +kernel)⟩⟩

-- Memory and scratchpad: v2:v3 a handle in system-core memory, v4:v5 in HBM4E, v6 a scratchpad address, v8:v9 data.
def mm : State := memory0 [(2, 8#32), (3, 0x10000#32), (4, 0x1010#32), (5, 0x10000#32), (6, 0xFF000010#32), (7, 0#32), (8, 0x12345678#32), (9, 1#32),
  (10, 0xFF001000#32)] [(2, 8#32), (3, 0x10000#32), (4, 0x1010#32), (5, 0x10000#32), (8, 5#32), (9, 6#32)]
theorem prefetches {p : BitVec 6} {x : Iss} {l : Nat} {a m m1 b : State} {vs : List (List Word)} {g : Group} {at_ : Xlat} {r : List Byte × Bool}
    (h1 : readOps x l [(oAddr p false, true)] a = .ok vs m) (h2 : m.group? x.gid = some g)
    (h3 : translate (m.whoOf g) (numberOf (vs.getD 0 []) / 128 * 128) 128 .load m = .ok at_ m1)
    (h4 : (isMain at_.pa && !at_.dev && !at_.por && !at_.badKey) = true)
    (h5 : cchLoad g.core (lineOf (keyOf at_.pa)) 0 1 (m.regionOf g) m1 = .ok r b) : LanePref p x l a b :=
  ⟨vs, m, g, h1, h2, by simp only [h3]; rw [if_pos h4]; exact .inl ⟨r, h5⟩⟩
theorem witness_Loads :
    MeetsLive (.ld 0#2 1#7 1#6 0#1 0x1FF#9) (EachLane (LaneLd 0#2 1#7 1#6 0#1 0x1FF#9)) ∧
    MeetsLive (.ld 1#2 14#7 2#6 0#1 0#9) (EachLane (LaneLd 1#2 14#7 2#6 0#1 0#9)) ∧
    MeetsLive (.lds 1#2 1#7 3#6 1#1 1#9) (fun x s u => (x.pos = 0 ∨ ∀ l ∈ x.act, ldsUnserved 1#2 3#6 1#1 1#9 x l s = none) ∧
      EachLane (LaneLds 1#2 1#7 3#6 1#1 1#9) x s u) ∧
    MeetsLive (.ldu 0#2 116#7 53#6 1#9) (Once (LduOnce 0#2 116#7 53#6 1#9)) ∧
    Meets (.ldx 1#7 4#6 0#9) (fun x s u => EachLane (LaneLdx s 1#7 4#6 0#9) x s u) ∧
    MeetsLive (.pref 2#6) (EachLane (LanePref 2#6)) :=
  ⟨meetsLive_each mm 0 (by decide +kernel) (by decide +kernel) ⟨_, ⟨_, _, _, (okay (by decide +kernel)), (there (by decide +kernel)), _, _, _, _, _, _, ⟨rfl, (by decide +kernel), (by decide +kernel)⟩, (okay (by decide +kernel)), (there (by decide +kernel)), (okay (by decide +kernel)), (okay (by decide +kernel))⟩, (by decide +kernel)⟩,
    meetsLive_each mm 0 (by decide +kernel) (by decide +kernel) ⟨_, ⟨_, _, _, (okay (by decide +kernel)), (there (by decide +kernel)), _, _, _, _, _, _, ⟨rfl, (by decide +kernel), (by decide +kernel)⟩, (okay (by decide +kernel)), (there (by decide +kernel)), (okay (by decide +kernel)), (okay (by decide +kernel))⟩, (by decide +kernel)⟩,
    meetsLive mm (by decide +kernel) ⟨_, ⟨.inl (by decide +kernel), chain_one (l := 0) (by decide +kernel) ⟨_, _, _, _, _, _, _, _, (okay (by decide +kernel)), (there (by decide +kernel)), ⟨rfl, (by decide +kernel)⟩, (okaySame (by decide +kernel) (by decide +kernel)), (okay (by decide +kernel)), (okay (by decide +kernel)), (okay (by decide +kernel))⟩⟩, (by decide +kernel)⟩,
    meetsLive_once mm (by decide +kernel) (by decide +kernel) ⟨_, ⟨_, _, _, (okay (by decide +kernel)), (there (by decide +kernel)), _, _, _, _, _, _, ⟨rfl, (by decide +kernel), (by decide +kernel)⟩, (okay (by decide +kernel)), (there (by decide +kernel)), (okay (by decide +kernel)), (okay (by decide +kernel))⟩, (by decide +kernel)⟩,
    meets mm (by decide +kernel) ⟨_, chain_one (l := 0) (by decide +kernel) ⟨_, _, _, _, _, _, (there (by decide +kernel)), (okay (by decide +kernel)), (there (by decide +kernel)), ⟨(by decide +kernel), rfl, rfl, (by decide +kernel)⟩, (by decide +kernel), (okay (by decide +kernel))⟩⟩,
    meetsLive_each mm 0 (by decide +kernel) (by decide +kernel) ⟨_, prefetches (okay (by decide +kernel)) (there (by decide +kernel)) (okay (by decide +kernel)) (by decide +kernel) (okay (by decide +kernel)), (by decide +kernel)⟩⟩
theorem witness_Stores :
    MeetsLive (.st 1#2 8#7 1#6 0#1 0x0FF#9) (EachLane (LaneSt 1#2 8#7 1#6 0#1 0x0FF#9)) ∧
    MeetsLive (.st 2#2 8#7 2#6 1#1 0x0FF#9) (EachLane (LaneSt 2#2 8#7 2#6 1#1 0x0FF#9)) ∧
    MeetsLive (.sts 0#2 8#7 3#6 0#1 1#9) (EachLane (LaneSts 0#2 8#7 3#6 0#1 1#9)) ∧
    MeetsLive (.stu 0#2 112#7 53#6 1#9) (Once (StuOnce 0#2 112#7 53#6 1#9)) ∧
    Meets (.stx 8#7 4#6 0#9) (fun x s u => ∃ vs m, Gathers (StxRead 8#7 4#6 0#9 x) x.act s vs m ∧ u = stxWrites x vs m) :=
  ⟨meetsLive_each mm 0 (by decide +kernel) (by decide +kernel) ⟨_, ⟨_, _, _, (okay (by decide +kernel)), (there (by decide +kernel)), _, _, _, _, _, _, ⟨rfl, (by decide +kernel), (by decide +kernel)⟩, (okay (by decide +kernel)), (there (by decide +kernel)), (okay (by decide +kernel)), (okay (by decide +kernel)), rfl⟩, (by decide +kernel)⟩,
    meetsLive_each mm 0 (by decide +kernel) (by decide +kernel) ⟨_, ⟨_, _, _, (okay (by decide +kernel)), (there (by decide +kernel)), _, _, _, _, _, _, ⟨rfl, (by decide +kernel), (by decide +kernel)⟩, (okay (by decide +kernel)), (there (by decide +kernel)), (okay (by decide +kernel)), (okay (by decide +kernel)), rfl⟩, (by decide +kernel)⟩,
    meetsLive_each mm 0 (by decide +kernel) (by decide +kernel) ⟨_, ⟨_, _, _, _, _, _, (okay (by decide +kernel)), (there (by decide +kernel)), ⟨rfl, (by decide +kernel)⟩, (okaySame (by decide +kernel) (by decide +kernel)), (by decide +kernel), (okay (by decide +kernel)), rfl⟩, (by decide +kernel)⟩,
    meetsLive_once mm (by decide +kernel) (by decide +kernel) ⟨_, ⟨_, _, _, (okay (by decide +kernel)), (there (by decide +kernel)), _, _, _, _, _, _, ⟨rfl, (by decide +kernel), (by decide +kernel)⟩, (okay (by decide +kernel)), (there (by decide +kernel)), (okay (by decide +kernel)), (okay (by decide +kernel)), rfl⟩, (by decide +kernel)⟩,
    meets mm (by decide +kernel) ⟨_, _, _, gathers_one (l := 0) (by decide +kernel) ⟨_, _, _, _, (okay (by decide +kernel)), (there (by decide +kernel)), ⟨(by decide +kernel), rfl, rfl, (by decide +kernel)⟩, rfl⟩, rfl⟩⟩
theorem witness_MisalignedAccessesTrap :
    (∃ (s m : State) (x : Iss) (g : Group) (vs : List (List Word)), Ready s (.ld 1#2 12#7 1#6 0#1 0#9) x g ∧ x.act = [0] ∧ x.lanes = [0] ∧ x.pos = 0 ∧
      readOps x 0 [(oAddr 1#6 false, true)] s = .ok vs m ∧
      ((numberOf (vs.getD 0 []) + displacement x 0#9 (4 * 2 ^ 1)) % 2 ^ 64).toNat / 2 ^ 48 = numberOf (vs.getD 0 []) / 2 ^ 48 ∧
      ((numberOf (vs.getD 0 []) + displacement x 0#9 (4 * 2 ^ 1)) % 2 ^ 64).toNat % (4 * 2 ^ 1) ≠ 0) ∧
    (∃ (s m : State) (x : Iss) (g : Group) (vs : List (List Word)), Ready s (.ld 0#2 12#7 1#6 0#1 0x1FF#9) x g ∧ x.act = [0] ∧ x.lanes = [0] ∧
      x.pos = 0 ∧ readOps x 0 [(oAddr 1#6 false, true)] s = .ok vs m ∧
      ((numberOf (vs.getD 0 []) + displacement x 0x1FF#9 4) % 2 ^ 64).toNat / 2 ^ 48 ≠ numberOf (vs.getD 0 []) / 2 ^ 48) ∧
    (∃ (s m : State) (x : Iss) (g : Group) (vs : List (List Word)), Ready s (.lds 0#2 12#7 3#6 0#1 0#9) x g ∧ x.act = [0] ∧ x.lanes = [0] ∧ x.pos = 0 ∧
      readOps x 0 [(oAddr 3#6 true, false)] s = .ok vs m ∧
      ((numberOf (vs.getD 0 []) + displacement x 0#9 4) % 2 ^ 32).toNat % 4 ≠ 0) :=
  ⟨⟨memory0 [(2, 12#32), (3, 0x10000#32)] [], _, _, _, _, ready_of (by decide +kernel), (by decide +kernel), (by decide +kernel), (by decide +kernel), (okay (by decide +kernel)), (by decide +kernel), (by decide +kernel)⟩,
   ⟨memory0 [(2, 0#32), (3, 0x10000#32)] [], _, _, _, _, ready_of (by decide +kernel), (by decide +kernel), (by decide +kernel), (by decide +kernel), (okay (by decide +kernel)), (by decide +kernel)⟩,
   ⟨memory0 [(6, 0xFF000003#32)] [], _, _, _, _, ready_of (by decide +kernel), (by decide +kernel), (by decide +kernel), (by decide +kernel), (okay (by decide +kernel)), (by decide +kernel)⟩⟩

theorem witness_AcquireAndRelease :
    MeetsLive (.ldacq 0#2 1#7 1#6 2#2 0#1 0x3F#6) (EachLane (LaneLdacq 0#2 1#7 1#6 2#2 0#1 0x3F#6)) ∧
    MeetsLive (.ldacq 0#2 1#7 3#6 0#2 1#1 0#6) (EachLane (LaneLdacq 0#2 1#7 3#6 0#2 1#1 0#6)) ∧
    MeetsLive (.strel 0#2 8#7 2#6 1#2 0#1 0#6) (EachLane (LaneStrel 0#2 8#7 2#6 1#2 0#1 0#6)) ∧
    MeetsLive (.strel 0#2 8#7 3#6 0#2 1#1 1#6) (EachLane (LaneStrel 0#2 8#7 3#6 0#2 1#1 1#6)) ∧
    MeetsLive (.fence 3#2) (EachLane (LaneFence 3#2)) :=
  ⟨meetsLive_each mm 0 (by decide +kernel) (by decide +kernel) ⟨_, ⟨_, _, _, _, _, _, _, (okay (by decide +kernel)), (there (by decide +kernel)), byNeg (by decide +kernel) ⟨_, _, _, _, _, ⟨rfl, (by decide +kernel), (by decide +kernel)⟩, (okay (by decide +kernel)), (there (by decide +kernel)), (okay (by decide +kernel)), (there (by decide +kernel)), (okay (by decide +kernel)), (okay (by decide +kernel))⟩, (okay (by decide +kernel))⟩, (by decide +kernel)⟩,
   meetsLive_each mm 0 (by decide +kernel) (by decide +kernel) ⟨_, ⟨_, _, _, _, _, _, _, (okay (by decide +kernel)), (there (by decide +kernel)), byPos (by decide +kernel) ⟨_, _, _, ⟨rfl, (by decide +kernel)⟩, (okaySame (by decide +kernel) (by decide +kernel)), (okay (by decide +kernel)), (okay (by decide +kernel)), (okay (by decide +kernel)), (okay (by decide +kernel))⟩, (okay (by decide +kernel))⟩, (by decide +kernel)⟩,
   meetsLive_each mm 0 (by decide +kernel) (by decide +kernel) ⟨_, ⟨_, _, _, _, _, _, (okay (by decide +kernel)), (there (by decide +kernel)), byNeg (by decide +kernel) ⟨_, _, _, _, _, ⟨rfl, (by decide +kernel), (by decide +kernel)⟩, (okay (by decide +kernel)), (there (by decide +kernel)), (okay (by decide +kernel)), (okay (by decide +kernel)), (there (by decide +kernel)), (okay (by decide +kernel)), rfl⟩⟩, (by decide +kernel)⟩,
   meetsLive_each mm 0 (by decide +kernel) (by decide +kernel) ⟨_, ⟨_, _, _, _, _, _, (okay (by decide +kernel)), (there (by decide +kernel)), byPos (by decide +kernel) ⟨_, _, ⟨rfl, (by decide +kernel)⟩, (okaySame (by decide +kernel) (by decide +kernel)), (okay (by decide +kernel)), (okay (by decide +kernel)), (okay (by decide +kernel)), rfl⟩⟩, (by decide +kernel)⟩,
   meetsLive_each mm 0 (by decide +kernel) (by decide +kernel) ⟨_, (okay (by decide +kernel)), (by decide +kernel)⟩⟩

theorem witness_Atomics :
    MeetsLive (.aadd 0#2 8#7 1#6 0#1 1#1 2#2 0#3) (EachLane (LaneAtomic 0 8#7 1#6 0#1 1#1 2#2 0#3)) ∧
    MeetsLive (.acas 0#2 8#7 3#6 1#1 0#1 0#2 1#3) (EachLane (LaneAtomic 7 8#7 3#6 1#1 0#1 0#2 1#3)) ∧
    MeetsLive (.red 0#2 8#7 2#6 0#1 0#1 1#3 0#2) (EachLane (LaneRed 8#7 2#6 0#1 0#1 1#3 0#2)) ∧
    MeetsLive (.red 0#2 8#7 3#6 1#1 1#1 0#3 1#2) (EachLane (LaneRed 8#7 3#6 1#1 1#1 0#3 1#2)) :=
  ⟨meetsLive_each mm 0 (by decide +kernel) (by decide +kernel) ⟨_, ⟨_, _, _, _, _, (okay (by decide +kernel)), (there (by decide +kernel)), ⟨(by decide +kernel), byNeg (by decide +kernel) ⟨_, _, _, _, _, _, (okay (by decide +kernel)), (there (by decide +kernel)), (okay (by decide +kernel)), (okay (by decide +kernel)), okaySome (by decide +kernel), rfl⟩⟩, byPos (by decide +kernel) (okay (by decide +kernel))⟩, (by decide +kernel)⟩,
   meetsLive_each mm 0 (by decide +kernel) (by decide +kernel) ⟨_, ⟨_, _, _, _, _, (okay (by decide +kernel)), (there (by decide +kernel)), ⟨(by decide +kernel), byPos (by decide +kernel) ⟨_, _, _, (okaySame (by decide +kernel) (by decide +kernel)), (okay (by decide +kernel)), (by decide +kernel), okaySome (by decide +kernel), rfl⟩⟩, byNeg (by decide +kernel) rfl⟩, (by decide +kernel)⟩,
   meetsLive_each mm 0 (by decide +kernel) (by decide +kernel) ⟨_, ⟨_, _, _, (okay (by decide +kernel)), (there (by decide +kernel)), (by decide +kernel), byNeg (by decide +kernel) ⟨_, _, _, _, _, (okay (by decide +kernel)), (there (by decide +kernel)), (okay (by decide +kernel)), (okay (by decide +kernel)), rfl⟩⟩, (by decide +kernel)⟩,
   meetsLive_each mm 0 (by decide +kernel) (by decide +kernel) ⟨_, ⟨_, _, _, (okay (by decide +kernel)), (there (by decide +kernel)), (by decide +kernel), byPos (by decide +kernel) ⟨_, _, _, (okaySame (by decide +kernel) (by decide +kernel)), (by decide +kernel), (okay (by decide +kernel)), rfl⟩⟩, (by decide +kernel)⟩⟩
theorem witness_AtomicOperators : ∃ op typ n : Nat, op ≤ 7 ∧ typ ≤ 5 ∧ n = 8 * typSize typ := ⟨7, 5, 64, (by decide +kernel), (by decide +kernel), rfl⟩
theorem witness_CachesAndOwnership :
    MeetsLive (.wbr 9#7 2#6 2#2) (EachLane (LaneRange .wbr .wbr 9#7 2#6 2#2)) ∧
    MeetsLive (.invr 11#7 2#6 2#2) (EachLane (LaneRange .invr .wbr 11#7 2#6 2#2)) ∧
    MeetsLive (.xpub 9#7 2#6 0#2) (EachLane (LaneXpub 9#7 2#6 0#2)) ∧
    MeetsLive (.setf 3#6 1#2 1#7) (EachLane (LaneFull 3#6 1#7 (some 1#2))) ∧ MeetsLive (.clrf 3#6 0#7) (EachLane (LaneFull 3#6 0#7 none)) ∧
    MeetsLive (.ownseg 1#7 3#6) (EachLane (LaneOwn 1#7 3#6)) ∧ MeetsLive (.dropseg 1#7 3#6) (EachLane (LaneDrop 1#7 3#6)) :=
  ⟨meetsLive_each mm 0 (by decide +kernel) (by decide +kernel) ⟨_, ⟨_, _, _, (okay (by decide +kernel)), (there (by decide +kernel)), byNeg (by decide +kernel) (okay (by decide +kernel))⟩, (by decide +kernel)⟩,
   meetsLive_each mm 0 (by decide +kernel) (by decide +kernel) ⟨_, ⟨_, _, _, (okay (by decide +kernel)), (there (by decide +kernel)), byPos (by decide +kernel) rfl⟩, (by decide +kernel)⟩,
   meetsLive_each mm 0 (by decide +kernel) (by decide +kernel) ⟨_, ⟨_, _, _, (okay (by decide +kernel)), (there (by decide +kernel)), byNeg (by decide +kernel) ⟨_, (okay (by decide +kernel)), (okay (by decide +kernel))⟩⟩, (by decide +kernel)⟩,
   meetsLive_each mm 0 (by decide +kernel) (by decide +kernel) ⟨_, ⟨_, _, _, _, (okay (by decide +kernel)), (there (by decide +kernel)), (okaySame (by decide +kernel) (by decide +kernel)), _, (okay (by decide +kernel)), rfl⟩, (by decide +kernel)⟩,
   meetsLive_each mm 0 (by decide +kernel) (by decide +kernel) ⟨_, ⟨_, _, _, _, (okay (by decide +kernel)), (there (by decide +kernel)), (okaySame (by decide +kernel) (by decide +kernel)), rfl⟩, (by decide +kernel)⟩,
   meetsLive_each mm 0 (by decide +kernel) (by decide +kernel) ⟨_, ⟨_, _, _, _, (okay (by decide +kernel)), (there (by decide +kernel)), (okaySame (by decide +kernel) (by decide +kernel)), .inl ⟨(by decide +kernel), (okay (by decide +kernel))⟩⟩, (by decide +kernel)⟩,
   meetsLive_each mm 0 (by decide +kernel) (by decide +kernel) ⟨_, ⟨_, _, _, _, _, (okay (by decide +kernel)), (there (by decide +kernel)), (okaySame (by decide +kernel) (by decide +kernel)), (there (by decide +kernel)), (by decide +kernel), (okay (by decide +kernel))⟩, (by decide +kernel)⟩⟩

-- Barriers, waits, read sections, control transfers and masks.
def scratched (s : State) (a : Nat) (bs : List Byte) : State := s.updWg 1 fun w => { w with scr := cellsWrite w.scr a bs }
def mb : State := scratched mm 16 (natToBytes 16 ({ expect := 2, count := 0, gen := 1, state := 1, scope := 0, lost := 0, rsv := 0 } : Barrier).toNat)
theorem each_none {x : Iss} {p : Nat → Prop} {l : Nat} (ha : x.act = [l]) (h : p l) : ∀ k ∈ x.act, p k := by rw [ha]; simpa using h
theorem once_of {p : Iss → State → State → Prop} {x : Iss} {s u : State} (ha : x.act ≠ []) (h : p x s u) : Once p x s u := by
  unfold Once; rw [if_neg ha]; exact h
def okF {α : Type} (r : EStateM.Result AErr State (α × Bool)) : Bool := match valO r with
  | some (_, b) => !b
  | none => false
theorem okFst {α : Type} {r : EStateM.Result AErr State (α × Bool)} (h : okB r = true) (hf : okF r = true) :
    r = .ok ((valOf r h).1, false) (stOf r) := by
  cases r with
  | error e t => cases h
  | ok a t =>
    obtain ⟨a, b⟩ := a
    cases b with
    | false => rfl
    | true => cases hf
theorem witness_Barriers :
    MeetsLive (.barinit 9#7 3#6 1#1 0#2) (Once (Barinit 9#7 3#6 1#1 0#2)) ∧ MeetsLive (.bararr 9#7 3#6 1#1 0#2) (Once (Bararr 9#7 3#6 1#1 0#2)) ∧
    MeetsLive (.barwait 7#7 3#6 1#1 0#2) (fun x s u => (∀ l ∈ x.act, s.releasedWait x.gid l = none) ∧ Once (Barwait 7#7 3#6 1#1 0#2) x s u) ∧
    MeetsLive (.barkill 9#7 3#6 1#1 0#2) (Once (Barkill 9#7 3#6 1#1 0#2)) :=
  ⟨meetsLive_once mm (by decide +kernel) (by decide +kernel) ⟨_, ⟨_, _, _, _, _, _, _, ⟨_, _, _, (okay (by decide +kernel)), rfl, rfl, (by decide +kernel), okFst (by decide +kernel) (by decide +kernel), okayIs (by decide +kernel)⟩, (okay (by decide +kernel)), (okay (by decide +kernel)),
      byNeg (by decide +kernel) (byNeg (by decide +kernel) (byNeg (by decide +kernel) ⟨_, _, (okay (by decide +kernel)), (okay (by decide +kernel)), (okay (by decide +kernel))⟩))⟩, (by decide +kernel)⟩,
   meetsLive_once mb (by decide +kernel) (by decide +kernel) ⟨_, ⟨_, _, _, _, _, _, _, ⟨_, _, _, (okay (by decide +kernel)), rfl, rfl, (by decide +kernel), okFst (by decide +kernel) (by decide +kernel), okayIs (by decide +kernel)⟩, (okay (by decide +kernel)), (okay (by decide +kernel)),
      byNeg (by decide +kernel) ⟨_, _, _, byPos (by decide +kernel) (okay (by decide +kernel)), (okay (by decide +kernel)), (okay (by decide +kernel))⟩⟩, (by decide +kernel)⟩,
   meetsLive mb (by decide +kernel) ⟨_, ⟨each_none (l := 0) (by decide +kernel) (by decide +kernel), once_of (by decide +kernel) ⟨_, _, _, _, _, _, ⟨_, _, _, (okay (by decide +kernel)), rfl, rfl, (by decide +kernel), okFst (by decide +kernel) (by decide +kernel), okayIs (by decide +kernel)⟩, (okay (by decide +kernel)),
      byNeg (by decide +kernel) (byNeg (by decide +kernel) (byNeg (by decide +kernel) ⟨(by decide +kernel), _, chain_one (l := 0) (by decide +kernel) (okay (by decide +kernel)), (okay (by decide +kernel))⟩))⟩⟩, (by decide +kernel)⟩,
   meetsLive_once mb (by decide +kernel) (by decide +kernel) ⟨_, ⟨_, _, _, _, _, _, _, ⟨_, _, _, (okay (by decide +kernel)), rfl, rfl, (by decide +kernel), okFst (by decide +kernel) (by decide +kernel), okayIs (by decide +kernel)⟩, (okay (by decide +kernel)), (okay (by decide +kernel)),
      byNeg (by decide +kernel) (byNeg (by decide +kernel) ⟨_, _, (okay (by decide +kernel)), (okay (by decide +kernel)), (okay (by decide +kernel))⟩)⟩, (by decide +kernel)⟩⟩

theorem okayBoth {α β : Type} {r : EStateM.Result AErr State (α × Option β)} (h : ((valO r).bind (·.2)).isSome = true) (h1 : okB r = true) :
    r = .ok ((valOf r h1).1, some (((valO r).bind (·.2)).get h)) (stOf r) := by
  cases r with
  | error e t => cases h1
  | ok a t =>
    obtain ⟨a, b⟩ := a
    cases b with
    | none => cases h
    | some v => rfl
theorem tlwait_none {t n d : BitVec 7} {x : Iss} {l : Nat} {a b m : State} {g : Group} {th : Thread} {vs : List (List Word)}
    (h1 : a.group? x.gid = some g) (h2 : a.thread? x.gid l = some th) (h3 : th.wait = none) (h4 : readOps x l [(oIn .pairX n 2, true)] a = .ok vs m)
    (h5 : a.timeline g t.toNat = none) (h6 : writeVals x l (oOut .status d 1) [2#32] [] m = .ok () b) : LaneTlwait t n d x l a b :=
  ⟨g, th, vs, m, h1, h2, h3, h4, by rw [h5]; exact h6⟩
theorem tlwait_some {t n d : BitVec 7} {x : Iss} {l : Nat} {a b m m1 : State} {g : Group} {th : Thread} {vs : List (List Word)} {q : Timeline}
    (h1 : a.group? x.gid = some g) (h2 : a.thread? x.gid l = some th) (h3 : th.wait = none) (h4 : readOps x l [(oIn .pairX n 2, true)] a = .ok vs m)
    (h5 : a.timeline g t.toNat = some q) (h6 : numberOf (vs.getD 0 []) ≤ q.counter) (h7 : tlAcquire x l g t.toNat q.counter m = .ok () m1)
    (h8 : writeVals x l (oOut .status d 1) [if q.err then 1#32 else 0#32] [] m1 = .ok () b) : LaneTlwait t n d x l a b :=
  ⟨g, th, vs, m, h1, h2, h3, h4, by rw [h5]; exact ⟨h6, m1, h7, h8⟩⟩
theorem witness_WaitsAndTime :
    MeetsLive (.waitaddr 0#2 8#7 3#6 1#3 1#1 0#2) (EachLane (LaneWaitaddr 0#2 8#7 3#6 1#3 1#1 0#2)) ∧
    MeetsLive (.waitaddr 1#2 8#7 2#6 5#3 0#1 2#2) (EachLane (LaneWaitaddr 1#2 8#7 2#6 5#3 0#1 2#2)) ∧
    MeetsLive (.tlwait 1#7 12#7 20#7) (EachLane (LaneTlwait 1#7 12#7 20#7)) ∧ MeetsLive (.tlwait 7#7 2#7 20#7) (EachLane (LaneTlwait 7#7 2#7 20#7)) ∧
    MeetsLive (.tlread 7#7 20#7) (EachLane (LaneTlread 7#7 20#7)) ∧ MeetsLive (.tlread 8#7 20#7) (EachLane (LaneTlread 8#7 20#7)) ∧
    Meets (.timeat 12#7) (EachLane (LaneTimeat 12#7)) ∧
    Meets (.timerd 20#7) (Once fun x s u =>
      writeAll x x.lanes (oOut .pair 20#7 2) [regWord (s.gtb.extractLsb' 0 32), regWord (s.gtb.extractLsb' 32 32)] s = .ok () u) :=
  ⟨meetsLive_each mm 0 (by decide +kernel) (by decide +kernel) ⟨_, ⟨_, _, _, _, _, _, _, (there (by decide +kernel)), (by decide +kernel), (okay (by decide +kernel)), (by decide +kernel), okayBoth (by decide +kernel) (by decide +kernel), (by decide +kernel), (okay (by decide +kernel)), (okay (by decide +kernel))⟩, (by decide +kernel)⟩,
   meetsLive_each mm 0 (by decide +kernel) (by decide +kernel) ⟨_, ⟨_, _, _, _, _, _, _, (there (by decide +kernel)), (by decide +kernel), (okay (by decide +kernel)), (by decide +kernel), okayBoth (by decide +kernel) (by decide +kernel), (by decide +kernel), (okay (by decide +kernel)), (okay (by decide +kernel))⟩, (by decide +kernel)⟩,
   meetsLive_each mm 0 (by decide +kernel) (by decide +kernel) ⟨_, tlwait_some (there (by decide +kernel)) (there (by decide +kernel)) (by decide +kernel) (okay (by decide +kernel)) (there (by decide +kernel)) (by decide +kernel) (okay (by decide +kernel)) (okay (by decide +kernel)), (by decide +kernel)⟩, meetsLive_each mm 0 (by decide +kernel) (by decide +kernel) ⟨_, tlwait_none (there (by decide +kernel)) (there (by decide +kernel)) (by decide +kernel) (okay (by decide +kernel)) (by decide +kernel) (okay (by decide +kernel)), (by decide +kernel)⟩,
   meetsLive_each mm 0 (by decide +kernel) (by decide +kernel) ⟨_, ⟨_, _, (there (by decide +kernel)), (okay (by decide +kernel)), (okay (by decide +kernel))⟩, (by decide +kernel)⟩, meetsLive_each mm 0 (by decide +kernel) (by decide +kernel) ⟨_, ⟨_, _, (there (by decide +kernel)), (okay (by decide +kernel)), (okay (by decide +kernel))⟩, (by decide +kernel)⟩,
   meets_each mm 0 (by decide +kernel) (by decide +kernel) ⟨_, _, _, (there (by decide +kernel)), (by decide +kernel), (okay (by decide +kernel)), (by decide +kernel)⟩, meets_once mm (by decide +kernel) (by decide +kernel) ⟨_, (okay (by decide +kernel))⟩⟩

def withGroup (f : Group → Group) (s : State) : State := s.updGroup 32 f
def withThread (f : Thread → Thread) (s : State) : State := s.updThread 32 0 f
def waitFor (w : WaitFor) : State := withThread (fun t => { t with wait := some { what := w, since := 0, elapsed := 0, tval := 0#64, outcome := none } }) mm
theorem witness_ReadSections :
    Meets .rsect (Once fun x s u => ∃ g, s.group? x.gid = some g ∧ g.depth < 255 ∧ u = s.setGroup x.gid { g with depth := g.depth + 1 }) ∧
    Meets .rsecx (Once fun x s u => ∃ g, s.group? x.gid = some g ∧ g.depth ≠ 0 ∧ u = s.setGroup x.gid { g with depth := g.depth - 1 }) ∧
    MeetsLive .qpass (Once QpassEffect) ∧
    MeetsLive (.gpwait 20#7 22#7) (fun x s u => (∀ l ∈ x.act, (s.graceWait x.gid l).isSome = true) ∧
      Chain (fun l a b => ∃ r n, a.graceWait x.gid l = some (r, n) ∧
        writeVals x l (oOut .status 22#7 1) [0#32] [] (a.acquireAt x.gid l (fun q => q == colLoc r n) 2) = .ok () b) x.act s u) ∧
    MeetsLive (.gpwait 20#7 22#7) (fun x s u => x.act ≠ [] ∧ (∀ l ∈ x.act, s.graceWait x.gid l = none) ∧
      ∃ g m, s.group? x.gid = some g ∧ g.depth ≠ 0 ∧ writeAll x x.act (oOut .comp 20#7 2) [regWord 0#32, regWord 0#32] s = .ok () m ∧
        writeAll x x.act (oOut .status 22#7 1) [regWord 1#32] m = .ok () u) :=
  ⟨meets_once (withGroup (fun g => { g with depth := 254 }) mm) (by decide +kernel) (by decide +kernel) ⟨_, _, (there (by decide +kernel)), (by decide +kernel), rfl⟩,
   meets_once (withGroup (fun g => { g with depth := 1 }) mm) (by decide +kernel) (by decide +kernel) ⟨_, _, (there (by decide +kernel)), (by decide +kernel), rfl⟩,
   meetsLive_once mm (by decide +kernel) (by decide +kernel) ⟨_, ⟨_, _, (there (by decide +kernel)), (by decide +kernel), (okay (by decide +kernel)), rfl⟩, (by decide +kernel)⟩,
   meetsLive (waitFor (.grace 0 0)) (by decide +kernel) ⟨_, ⟨each_none (l := 0) (by decide +kernel) (by decide +kernel), chain_one (l := 0) (by decide +kernel) ⟨_, _, (there (by decide +kernel)), (okay (by decide +kernel))⟩⟩, (by decide +kernel)⟩,
   meetsLive (withGroup (fun g => { g with depth := 1 }) mm) (by decide +kernel) ⟨_, ⟨(by decide +kernel), each_none (l := 0) (by decide +kernel) (by decide +kernel), _, _, (there (by decide +kernel)), (by decide +kernel), (okay (by decide +kernel)), (okay (by decide +kernel))⟩, (by decide +kernel)⟩⟩
theorem witness_ReadSectionBreachesTrap :
    (∃ s x g, Ready s .rsect x g ∧ x.act ≠ [] ∧ x.pos = 0 ∧ 255 ≤ g.depth) ∧ (∃ s x g, Ready s .rsecx x g ∧ x.act ≠ [] ∧ x.pos = 0 ∧ g.depth = 0) ∧
    (∃ s x g, Ready s .qpass x g ∧ x.act ≠ [] ∧ x.pos = 0 ∧ g.depth ≠ 0) :=
  ⟨⟨withGroup (fun g => { g with depth := 255 }) mm, _, _, ready_of (by decide +kernel), (by decide +kernel), (by decide +kernel), (by decide +kernel)⟩, ⟨mm, _, _, ready_of (by decide +kernel), (by decide +kernel), (by decide +kernel), (by decide +kernel)⟩,
   ⟨withGroup (fun g => { g with depth := 1 }) mm, _, _, ready_of (by decide +kernel), (by decide +kernel), (by decide +kernel), (by decide +kernel)⟩⟩

/-- There is a state in which control transfer i stands ready and its effect leads on to a target for each active thread. -/
def MeetsTo (i : Instr) (e : (Nat → DWord) → Iss → State → State → Prop) : Prop := ∃ s x g u nt, Ready s i x g ∧ e nt x s u ∧ Live x u
theorem meetsTo {i : Instr} {e : (Nat → DWord) → Iss → State → State → Prop} (s : State) (nt : Nat → DWord) (hr : readyB s i = true)
    (h : ∃ u, e nt (issOf s) s u ∧ liveB (issOf s) u = true) : MeetsTo i e := by
  obtain ⟨u, hu, hl⟩ := h
  exact ⟨s, _, _, u, nt, ready_of hr, hu, live_of hl⟩
def wordsRead (g : Group) : Group := { g with threads := g.threads.map fun p => (p.1, { p.2 with pc := pc0 + 4#64 }) }
def mcall : State := withThread (fun t => { t with pc := pc0 + 4#64, hint := some { first := pc0, xh := none, xm := none, xw := [0x10#23] } }) mm
def entry (k : Nat) : StackEntry := { pc := pc0 + BitVec.ofNat 64 (4 * k), prio := 7#8 }
def spilling (s : State) : State := s.updWg 1 fun w => { w with spill := 0x1000000000100#64, spillSize := 64 }
def mdeep : State := spilling (withThread (fun t => { t with stack := [entry 4, entry 3, entry 2, entry 1] }) mm)
def mback : State := spilling (withThread (fun t => { t with spilled := 1 }) mm)
theorem witness_Branches :
    MeetsTo (.bra 12#4 0#1 5#20) (BraEffect 12#4 0#1 5#20) ∧ MeetsTo (.bra 1#4 0#1 9#20) (BraEffect 1#4 0#1 9#20) ∧
    MeetsTo (.brx 2#7) (fun nt x s u => Chain (LaneTarget 2#7 nt x) x.act s u) ∧
    MeetsTo .call (fun nt x s u => (∀ l ∈ x.act, nt l = callTarget x ∧ SameBuffer (callTarget x) x.pc) ∧ Chain (LaneCall nt x) x.act s u) ∧
    MeetsTo (.callx 2#7) (fun nt x s u => Chain (LaneCallx 2#7 nt x) x.act s u) ∧
    MeetsTo (.callx 2#7) (fun nt x s u => Chain (LaneCallx 2#7 nt x) x.act s u) ∧
    MeetsTo .ret (fun nt x s u => Chain (LaneRet nt x) x.act s u) ∧ MeetsTo .ret (fun nt x s u => Chain (LaneRet nt x) x.act s u) :=
  ⟨meetsTo mm (fun _ => pc0 + 20#64) (by decide +kernel) ⟨_, ⟨rfl, _, (there (by decide +kernel)), each_none (l := 0) (by decide +kernel) ⟨fun _ => (by unfold SameBuffer; decide +kernel), (by decide +kernel)⟩⟩, (by decide +kernel)⟩,
   meetsTo mm (fun _ => pc0 + 4#64) (by decide +kernel) ⟨_, ⟨rfl, _, (there (by decide +kernel)), each_none (l := 0) (by decide +kernel) ⟨fun _ => (by unfold SameBuffer; decide +kernel), (by decide +kernel)⟩⟩, (by decide +kernel)⟩,
   meetsTo mm (fun _ => 0x1000000000008#64) (by decide +kernel) ⟨_, chain_one (l := 0) (by decide +kernel) ⟨_, (okay (by decide +kernel)), (by decide +kernel), (by decide +kernel)⟩, (by decide +kernel)⟩,
   meetsTo mcall (fun _ => pc0 + 0x44#64) (by decide +kernel) ⟨_, ⟨each_none (l := 0) (by decide +kernel) ⟨(by decide +kernel), (by unfold SameBuffer; decide +kernel)⟩, chain_one (l := 0) (by decide +kernel) ⟨(by decide +kernel), _, (there (by decide +kernel)), _, _, (there (by decide +kernel)), (there (by decide +kernel)), byPos (by decide +kernel) rfl⟩⟩, (by decide +kernel)⟩,
   meetsTo mm (fun _ => 0x1000000000008#64) (by decide +kernel) ⟨_, chain_one (l := 0) (by decide +kernel) ⟨_, ⟨_, (okay (by decide +kernel)), (by decide +kernel), (by decide +kernel)⟩, (by decide +kernel), _, (there (by decide +kernel)), _, _, (there (by decide +kernel)), (there (by decide +kernel)), byPos (by decide +kernel) rfl⟩, (by decide +kernel)⟩,
   meetsTo mdeep (fun _ => 0x1000000000008#64) (by decide +kernel) ⟨_, chain_one (l := 0) (by decide +kernel) ⟨_, ⟨_, (okay (by decide +kernel)), (by decide +kernel), (by decide +kernel)⟩, (by decide +kernel), _, (there (by decide +kernel)), _, _, (there (by decide +kernel)), (there (by decide +kernel)),
      byNeg (by decide +kernel) ⟨_, _, _, (there (by decide +kernel)), (there (by decide +kernel)), (by decide +kernel), ⟨_, _, _, _, _, _, ⟨rfl, (by decide +kernel), (by decide +kernel)⟩, (okay (by decide +kernel)), (there (by decide +kernel)), (okay (by decide +kernel)), (okay (by decide +kernel)), rfl⟩, rfl⟩⟩, (by decide +kernel)⟩,
   meetsTo mdeep (fun _ => (entry 4).pc) (by decide +kernel) ⟨_, chain_one (l := 0) (by decide +kernel) ⟨_, _, entry 4, _, (there (by decide +kernel)), (there (by decide +kernel)), rfl, (by decide +kernel), ⟨rfl, rfl⟩, rfl⟩, (by decide +kernel)⟩,
   meetsTo mback (fun _ => 0#64) (by decide +kernel) ⟨_, chain_one (l := 0) (by decide +kernel) ⟨_, _, { pc := 0#64, prio := 0#8 }, _, (there (by decide +kernel)), (there (by decide +kernel)), rfl, (by decide +kernel),
     ⟨(by decide +kernel), _, _, _, _, _, List.replicate 16 0#8, (there (by decide +kernel)), ⟨rfl, (by decide +kernel), (by decide +kernel)⟩, (okay (by decide +kernel)), (there (by decide +kernel)), okayIs (by decide +kernel), (by decide +kernel), (by decide +kernel)⟩, rfl⟩, (by decide +kernel)⟩⟩
theorem witness_Masks :
    Meets (.join 11#7) (EachLane (LaneMask 11 true)) ∧ Meets (.leave 0#7) (EachLane (LaneMask 0 false)) ∧
    Meets (.waitm 1#7) (fun x s u => u = s ∧ ∃ g, s.group? x.gid = some g ∧ MaskMet 1 x g) ∧
    (∃ d f, maskValue (.mnot 2#7 1#7) = some (d, f) ∧ Meets (.mnot 2#7 1#7) (Once fun x s u => Regrouped x (fun g => { g with masks := g.masks.set d (f g) }) s u)) ∧
    Meets (.mset 3#7 112#7) (Once fun x s u => ∃ vs m, readOps x (x.lanes.headD 0) [(oIn .mset 112#7 1, false)] s = .ok vs m ∧
      u = m.updGroup x.gid fun g => { g with masks := g.masks.set 3 ((vs.getD 0 []).getD 0 0#32) }) ∧
    Meets (.mmov 119#7 1#7) (Once fun x s u => ∃ g, s.group? x.gid = some g ∧
      u = s.setGroup x.gid (uniformWritten g (119 - 104) (g.mask 1) (g.sdeps.del (119 - 104)))) :=
  ⟨meets_each mm 0 (by decide +kernel) (by decide +kernel) ⟨_, rfl⟩, meets_each mm 0 (by decide +kernel) (by decide +kernel) ⟨_, rfl⟩, meets mm (by decide +kernel) ⟨_, rfl, _, (there (by decide +kernel)), fun _ _ _ _ h => absurd (show (0#32).getLsbD _ = true from h) (by simp)⟩, ⟨_, _, rfl, meets_once mm (by decide +kernel) (by decide +kernel) ⟨_, _, (there (by decide +kernel)), rfl⟩⟩,
   meets_once mm (by decide +kernel) (by decide +kernel) ⟨_, _, _, (okay (by decide +kernel)), rfl⟩, meets_once mm (by decide +kernel) (by decide +kernel) ⟨_, _, (there (by decide +kernel)), rfl⟩⟩
theorem witness_PriorityAndNop : Meets (.prio 0xFE#8) (EachLane (LanePrio 0xFE#8)) ∧ Meets .nop (fun _ s u => u = s) :=
  ⟨meets_each mm 0 (by decide +kernel) (by decide +kernel) ⟨_, rfl⟩, meets mm (by decide +kernel) ⟨_, rfl⟩⟩
theorem witness_ThreadsExit : ∃ s u x g, Ready s .exitI x g ∧ EachLane LaneExit x s u :=
  ⟨mm, _, _, _, ready_of (by decide +kernel), chain_one (l := 0) (by decide +kernel) ⟨_, _, _, (okay (by decide +kernel)), (there (by decide +kernel)), (there (by decide +kernel)), rfl⟩⟩

-- Traps, special registers and system instructions.
theorem witness_SystemCalls : (∃ s x g, Ready s (.trap 5#16) x g) ∧ (∃ s x g, Ready s (.sysc 0xFFFF#16) x g) ∧
    (∃ s x g, Ready s (.bkpt 7#16) x g ∧ x.act ≠ [] ∧ x.pos = 0) :=
  ⟨⟨mm, _, _, ready_of (by decide +kernel)⟩, ⟨mm, _, _, ready_of (by decide +kernel)⟩, ⟨mm, _, _, ready_of (by decide +kernel), (by decide +kernel), (by decide +kernel)⟩⟩
def mtrap : State := mm.setReg 0 .tvecs 0x1000000002040
def trap0 (p : DWord) : Trap := { tpc := p, tval := 9#64, tmask := 1#32, tcause := 0x0C#32, prio := 3#8, plevel := 1#2, hold := false }
def mtrapped (p : DWord) : State := withGroup (fun g => { g with trap := some (trap0 p) }) mtrap
theorem groups_same {s t : State} (h : t.groups = s.groups) (n : Nat) : t.group? n = s.group? n := by unfold State.group?; rw [h]
/-- The handler stands in an expander's memory, whose line the device has not given yet; or between two words. -/
def mtrapFar : State :=
  let s := mm.updCore 0 fun k => { k with tlb := k.tlb ++ [pageAt 3 0x100000000000 4] }
  let s := s.updBasin 0 fun b => { b with mat := b.mat ++ [(6 * 256, fetchMat)] }
  (s.setReg 0 (.matctl 6) 1).setReg 0 .tvecs 0x1000000003040
def mtrapOdd : State := mm.setReg 0 .tvecs 0x1000000002042
def stallB {α : Type} (r : EStateM.Result AErr State α) : Bool :=
  match r with
  | .error (.stall _) _ => true
  | _ => false
def failB {α : Type} (r : EStateM.Result AErr State α) : Bool :=
  match r with
  | .ok _ _ => false
  | .error (.stall _) _ => false
  | .error _ _ => true
theorem stallOf {α : Type} {r : EStateM.Result AErr State α} (h : stallB r = true) : ∃ k t, r = .error (.stall k) t := by
  cases r with
  | ok a t => cases h
  | error e t => cases e with
    | stall k => exact ⟨k, t, rfl⟩
    | _ => cases h
theorem failOf {α : Type} {r : EStateM.Result AErr State α} (h : failB r = true) : ∃ e t, r = .error e t ∧ ∀ k, e ≠ .stall k := by
  cases r with
  | ok a t => cases h
  | error e t => cases e with
    | stall k => cases h
    | _ => exact ⟨_, t, rfl, fun _ he => nomatch he⟩
def handlerFetch (s : State) (g : Group) : EStateM.Result AErr State Word :=
  fetchWord { Who.thread (s.regionOf g) g.core true with queued := false } (s.viaOf g 32 0) (s.reg 0 .tvecs) s
theorem witness_TrapEntryFetch :
    (∃ (s : State) (g : Group) (th : Thread) (k : Stall) (t : State), s.group? 32 = some g ∧ g.trap = none ∧ g.thread? 0 = some th ∧
      s.reg 0 .tvecs ≠ 0 ∧ s.regionOf g = 0 ∧ handlerFetch s g = .error (.stall k) t) ∧
    (∃ (s : State) (g : Group) (th : Thread) (e : AErr) (t : State), s.group? 32 = some g ∧ g.trap = none ∧ g.thread? 0 = some th ∧
      s.reg 0 .tvecs ≠ 0 ∧ s.regionOf g = 0 ∧ handlerFetch s g = .error e t ∧ ∀ k, e ≠ .stall k) ∧
    (∃ (s : State) (g : Group), s.group? 32 = some g ∧ routeRight (trapOf .bkpt 7#64).cause ≠ none ∧ ∀ r, routeRight (trapOf .bkpt 7#64).cause = some r →
      s.tableWaits (s.regionOf g) (List.range (s.dcCount (s.regionOf g))) = none ∧ s.routeOf (s.regionOf g) r = none) := by
  refine ⟨?_, ?_, ⟨mtrap, _, (there (by decide +kernel)), (by decide +kernel), ?_⟩⟩
  · obtain ⟨k, t, h⟩ := stallOf (r := handlerFetch mtrapFar ((mtrapFar.group? 32).get (by decide +kernel))) (by decide +kernel)
    exact ⟨mtrapFar, _, _, k, t, (there (by decide +kernel)), (by decide +kernel), (there (by decide +kernel)), (by decide +kernel), (by decide +kernel), h⟩
  · obtain ⟨e, t, h, hn⟩ := failOf (r := handlerFetch mtrapOdd ((mtrapOdd.group? 32).get (by decide +kernel))) (by decide +kernel)
    exact ⟨mtrapOdd, _, _, e, t, (there (by decide +kernel)), (by decide +kernel), (there (by decide +kernel)), (by decide +kernel), (by decide +kernel), h, hn⟩
  · intro r _
    constructor
    · exact (by decide +kernel)
    · rw [State.routeOf, show List.range _ = [] from (by decide +kernel)]; rfl
theorem witness_TrapEntry : ∃ (s t : State) (g : Group) (traps : NMap LaneTrap) (t0 : LaneTrap) (th : Thread) (w : Word),
    s.group? 32 = some g ∧ g.trap = none ∧ traps.look 0 = some t0 ∧ (∀ l < 0, traps.look l = none) ∧ g.thread? 0 = some th ∧ t0.fatal = false ∧
    (∀ r, routeRight t0.cause = some r →
      s.tableWaits (s.regionOf g) (List.range (s.dcCount (s.regionOf g))) = none ∧ s.routeOf (s.regionOf g) r = none) ∧ s.reg 0 .tvecs ≠ 0 ∧ s.regionOf g = 0 ∧
    fetchWord { Who.thread (s.regionOf g) g.core true with queued := false } (s.viaOf g 32 0) (s.reg 0 .tvecs) s = .ok w t ∧
    (∀ n, t.group? n = s.group? n) :=
  ⟨mtrap, _, _, [(0, trapOf .syscall 7#64)], trapOf .syscall 7#64, _, _, (there (by decide +kernel)), (by decide +kernel), rfl, fun _ h => absurd h (Nat.not_lt_zero _), (there (by decide +kernel)), rfl, fun r h => absurd (show (none : Option Nat) = some r from h) (by simp), (by decide +kernel), (by decide +kernel), (okay (by decide +kernel)), groups_same (by decide +kernel)⟩
theorem witness_TrapsThatKill : (∃ (s : State) (g : Group) (old : Trap), s.group? 32 = some g ∧ (trapOf .syscall 7#64).fatal = false ∧
      routeRight (trapOf .syscall 7#64).cause = none ∧ g.trap = some old) ∧
    ∃ (s : State) (g : Group), s.group? 32 = some g ∧ g.trap = none ∧ s.regionOf g = 0 ∧ s.reg 0 .tvecs = 0 :=
  ⟨⟨mtrapped pc0, _, _, (there (by decide +kernel)), rfl, rfl, (there (by decide +kernel))⟩, ⟨mm, _, (there (by decide +kernel)), (by decide +kernel), (by decide +kernel), (by decide +kernel)⟩⟩
theorem witness_TrapReturn : (∃ s x g ts, Ready s .eret x g ∧ g.trap = some ts ∧ ts.tpc ≠ 0#64 ∧ ts.tpc.toNat % 4 = 0) ∧
    (∃ s x g ts p, Ready s .eret x g ∧ g.trap = some ts ∧ ts.tpc ≠ 0#64 ∧ ts.tpc.toNat % 4 ≠ 0 ∧ g.thread? 0 = some p ∧
      ts.tmask.getLsbD 0 = true ∧ p.exited = false) ∧
    (∃ s x g ts, Ready s .eret x g ∧ g.trap = some ts ∧ ts.tpc = 0#64) ∧
    (∃ s x g, Ready s .eret x g ∧ g.trap = none ∧ x.act ≠ [] ∧ x.pos = 0) :=
  ⟨⟨mtrapped pc0, _, _, _, ready_of (by decide +kernel), (there (by decide +kernel)), (by decide +kernel), (by decide +kernel)⟩,
   ⟨mtrapped (pc0 + 2#64), _, _, _, _, ready_of (by decide +kernel), (there (by decide +kernel)), (by decide +kernel), (by decide +kernel), (there (by decide +kernel)), (by decide +kernel), (by decide +kernel)⟩, ⟨mtrapped 0#64, _, _, _, ready_of (by decide +kernel), (there (by decide +kernel)), (by decide +kernel)⟩, ⟨mm, _, _, ready_of (by decide +kernel), (by decide +kernel), (by decide +kernel), (by decide +kernel)⟩⟩
theorem witness_SpecialRegisters : Meets (.csrr 8#6 0#12) (Once (CsrRead 8#6 0#12)) ∧ Meets (.csrw 8#6 0#12) (Once (CsrWrite 8#6 0#12 (fun _ v => v) false)) ∧
    Meets (.csrs 8#6 0#12) (Once (CsrWrite 8#6 0#12 (fun old v => old ||| v) true)) ∧
    Meets (.csrc 8#6 1#12) (Once (CsrWrite 8#6 1#12 (fun old v => (BitVec.ofNat 64 old &&& ~~~(BitVec.ofNat 64 v)).toNat) true)) :=
  ⟨meets_once mm (by decide +kernel) (by decide +kernel) ⟨_, _, (there (by decide +kernel)), (okay (by decide +kernel))⟩, meets_once mm (by decide +kernel) (by decide +kernel) ⟨_, _, _, _, (there (by decide +kernel)), (by decide +kernel), (okay (by decide +kernel)), rfl⟩, meets_once mm (by decide +kernel) (by decide +kernel) ⟨_, _, _, _, (there (by decide +kernel)), (by decide +kernel), (okay (by decide +kernel)), (okay (by decide +kernel))⟩,
   meets_once mm (by decide +kernel) (by decide +kernel) ⟨_, _, _, _, (there (by decide +kernel)), (by decide +kernel), (okay (by decide +kernel)), (okay (by decide +kernel))⟩⟩

theorem ctxsv_none {d : BitVec 6} {x : Iss} {s u m m1 : State} {g : Group} {vs : List (List Word)} {area : Xlat} {space : Nat}
    (h0 : Supervisor x s) (h1 : readOps x (x.lanes.headD 0) [(sIn d 4, false)] s = .ok vs m) (h2 : m.group? x.gid = some g)
    (h3 : (m.wgs.find? fun p => p.2.launch == ((vs.getD 0 []).getD 0 0#32).toNat && p.2.wix == ((vs.getD 0 []).getD 1 0#32).toNat && !p.2.exited) = none)
    (h4 : saveArea x (numberOf ((vs.getD 0 []).drop 2)) 0 m = .ok (area, space) m1)
    (h5 : (m.wgs.any fun p => (p.2.launch == ((vs.getD 0 []).getD 0 0#32).toNat && p.2.wix == ((vs.getD 0 []).getD 1 0#32).toNat) && m.isDead p.2.region) = false)
    (h6 : UniformWords d [1#32, 0#32] x (m1.updGroup x.gid fun g => { g with engqSince := none }) u) : CtxsvEffect d x s u := by
  refine ⟨h0, vs, m, g, h1, h2, area, space, m1, ?_, ?_⟩
  · simp only [h3]; exact h4
  · simp only [h3, h5]; exact h6
theorem ctxld_none {d : BitVec 6} {x : Iss} {s u m m1 m2 : State} {vs : List (List Word)} {area : Xlat} {space : Nat} {bs : List Byte}
    {bad : Bool} (h0 : Supervisor x s) (h1 : readOps x (x.lanes.headD 0) [(sIn d 3, false)] s = .ok vs m)
    (h4 : saveArea x (numberOf ((vs.getD 0 []).take 2)) 256 m = .ok (area, space) m1)
    (hs : ¬ space < 256) (h5 : areaRead x (numberOf ((vs.getD 0 []).take 2)) 256 m1 = .ok (bs, bad) m2)
    (h3 : (if bad then none else m2.savedIn bs) = none)
    (h6 : writeDst x (x.lanes.headD 0) { sOut d 1 with code := 104 + d.toNat + 2 } [regWord 1#32] [] m2 = .ok () u) : CtxldEffect d x s u := by
  refine ⟨h0, vs, m, area, space, m1, bs, bad, m2, h1, h4, by rw [if_neg hs]; exact h5, ?_⟩
  simp only [h3]; exact h6
def msys : State := memory0 [] [(4, 0x100#32), (5, 0x10000#32), (6, 0x7F#32), (8, 99#32), (10, 0x100#32), (11, 0x10000#32)]
theorem none_saved {w : NMap Workgroup} {k : Nat} {c : Nat × Workgroup → Bool} {b : Bool} (h : (w.all fun p => p.2.saved == .resident) = true) :
    (w.find? fun p => p.2.saved == .area k && c p && !b) = none := by
  rw [List.find?_eq_none]
  intro p hp
  have := List.all_eq_true.1 h p hp
  rw [beq_iff_eq] at this
  rw [this]; simp
def mplain : State := withThread (fun t => { t with hint := none }) (mm.updWg 1 fun w => { w with region := 1 })
theorem witness_SystemInstructions :
    MeetsLive (.role 12#6 8#6) (Once (RoleEffect 12#6 8#6)) ∧ Meets (.pstat 8#6 0#9) (Once (PstatEffect 8#6 0#9)) ∧
    Meets .halt (Once HaltEffect) ∧ MeetsLive (.btinv 12#6 3#2 0#1) (Once (BtinvEffect 12#6 3#2 0#1)) ∧
    MeetsLive (.btinv 8#6 2#2 0#1) (Once (BtinvEffect 8#6 2#2 0#1)) ∧
    MeetsLive (.tfence 12#6 2#2 1#1 0#6) (Once (TfenceEffect 12#6 2#2 1#1 0#6)) ∧
    MeetsLive (.ctxsv 8#6) (Once (CtxsvEffect 8#6)) ∧ MeetsLive (.ctxld 4#6) (Once (CtxldEffect 4#6)) ∧
    ∃ (i : Instr) (s : State) (x : Iss) (g : Group) (w : BitVec 32), supervisorOnly i = true ∧ Ready s i x g ∧ x.act ≠ [] ∧ x.pos = 0 ∧
     s.levelOf g = 0 ∧ encode i = some w :=
  ⟨meetsLive_once mm (by decide +kernel) (by decide +kernel) ⟨_, ⟨_, _, _, (okay (by decide +kernel)), (there (by decide +kernel)), byNeg (by decide +kernel) (okay (by decide +kernel))⟩, (by decide +kernel)⟩, meets_once mm (by decide +kernel) (by decide +kernel) ⟨_, _, (there (by decide +kernel)), (okay (by decide +kernel))⟩, meets_once mm (by decide +kernel) (by decide +kernel) ⟨_, ⟨_, (there (by decide +kernel)), (by decide +kernel)⟩, _, (there (by decide +kernel)), rfl⟩,
   meetsLive_once mm (by decide +kernel) (by decide +kernel) ⟨_, ⟨⟨_, (there (by decide +kernel)), (by decide +kernel)⟩, _, _, _, _, (okay (by decide +kernel)), (okay (by decide +kernel)), (there (by decide +kernel)), byPos (by decide +kernel) ⟨(by decide +kernel), byPos (by decide +kernel) (okay (by decide +kernel))⟩⟩, (by decide +kernel)⟩,
   meetsLive_once msys (by decide +kernel) (by decide +kernel) ⟨_, ⟨⟨_, (there (by decide +kernel)), (by decide +kernel)⟩, _, _, _, _, (okay (by decide +kernel)), (okay (by decide +kernel)), (there (by decide +kernel)), byNeg (by decide +kernel) rfl⟩, (by decide +kernel)⟩,
   meetsLive_once mm (by decide +kernel) (by decide +kernel) ⟨_, ⟨⟨_, (there (by decide +kernel)), (by decide +kernel)⟩, _, _, _, _, (okay (by decide +kernel)), (okay (by decide +kernel)), (there (by decide +kernel)), (by decide +kernel), byNeg (by decide +kernel) rfl⟩, (by decide +kernel)⟩,
   meetsLive_once msys (by decide +kernel) (by decide +kernel) ⟨_, ctxsv_none ⟨_, (there (by decide +kernel)), (by decide +kernel)⟩ (okay (by decide +kernel)) (there (by decide +kernel)) (by decide +kernel) (okay (by decide +kernel)) (by decide +kernel) (okay (by decide +kernel)), (by decide +kernel)⟩,
   meetsLive_once msys (by decide +kernel) (by decide +kernel) ⟨_, ctxld_none ⟨_, (there (by decide +kernel)), (by decide +kernel)⟩ (okay (by decide +kernel)) (okay (by decide +kernel)) (by decide +kernel) (okay (by decide +kernel)) (by decide +kernel) (okay (by decide +kernel)), (by decide +kernel)⟩,
   ⟨.halt, mplain, _, _, _, rfl, ready_of (by decide +kernel), (by decide +kernel), (by decide +kernel), (by decide +kernel), (there (by decide +kernel))⟩⟩

-- Hints and the commands of engines.
theorem witness_Hints : ∃ (s : State) (x : Iss) (g : Group) (th : Thread) (h : Hint), s.issuer = some (x.gid, g, x.lanes) ∧
    s.issueOf x.gid g x.lanes = x ∧ g.thread? (x.lanes.headD 0) = some th ∧ h = th.hint.getD { first := x.pc, xh := none, xm := none, xw := [] } ∧
    (Instr.xw 5#23).isHint = true ∧ hintOf (.xw 5#23) h = some { h with xw := h.xw ++ [5#23] } ∧ hintBad (.xw 5#23) h g.window = none ∧
    s.failedLanes x.gid x.lanes = [] ∧ s.watchHit (s.regionOf g) x.pc.toNat 4 2 = none :=
  ⟨mcall, issOf mcall, grpOf mcall, _, _, (by decide +kernel), (by decide +kernel), (there (by decide +kernel)), rfl, rfl, rfl, (by decide +kernel), (by decide +kernel), (by decide +kernel)⟩
theorem claims {x : Iss} {a : State} {g : Group} (h : a.group? x.gid = some g) (h1 : (a.core g.core).mxe.holder = none)
    (h2 : (a.core g.core).mxe.waiters.headD g.wg = g.wg) : Claimed x a (a.mxClaim g.core g.wg) :=
  ⟨g, h, byNeg (by show ¬(a.core g.core).mxe.holder = _; rw [h1]; simp) ⟨h1, h2, rfl⟩⟩
theorem witness_MatrixCommands :
    MeetsLive (.wload 0#1 108#7 120#7 20#7) (Once fun x => QueuedMatrix x x.lanes 20#7 (WloadMade 0#1 108#7 120#7 x)) ∧
    MeetsLive (.wload 1#1 104#7 106#7 112#7) (Once fun x => QueuedMatrix x x.lanes 112#7 (WloadMade 1#1 104#7 106#7 x)) ∧
    MeetsLive (.wswap 20#7) (Once fun x => QueuedMatrix x x.lanes 20#7 (PlainMade .wswap x)) ∧
    MeetsLive (.aclr 20#7) (Once fun x => QueuedMatrix x x.lanes 20#7 (PlainMade .aclr x)) ∧
    MeetsLive (.aclrRows 108#7 20#7) (Once fun x => QueuedMatrix x x.lanes 20#7 (RowsMade 108#7 x)) ∧
    MeetsLive (.mxres 20#7) (Once fun x => QueuedMatrix x x.lanes 20#7 (ResumeMade x)) ∧
    MeetsLive (.mma 7#3 2#7 106#7 20#7) (StreamIssue .mma 7#3 2#7 106#7 20#7 fun _ _ _ => 0) ∧
    MeetsLive (.mmax 0#3 2#7 106#7 20#7) (StreamIssue .mmax 0#3 2#7 106#7 20#7 fun _ _ _ => 0) ∧
    MeetsLive (.ast 0#3 2#7 106#7 20#7) (StreamIssue .ast 0#3 2#7 106#7 20#7 drainMode) ∧
    MeetsLive (.ard 20#7 7#7) (EachLane (LaneArd 20#7 7#7)) ∧ MeetsLive (.awr 8#7 7#7) (EachLane (LaneAwr 8#7 7#7)) ∧
    MeetsLive (.mxcfg 114#7) (Once (MxcfgEffect 114#7)) ∧ MeetsLive (.mxstat 3#7 114#7) (Once (MxstatEffect 3#7 114#7)) :=
  ⟨meetsLive_once mm (by decide +kernel) (by decide +kernel) ⟨_, ⟨_, _, _, _, _, _, _, claims (there (by decide +kernel)) (by decide +kernel) (by decide +kernel), (okay (by decide +kernel)), (there (by decide +kernel)), (by decide +kernel), ⟨_, (okay (by decide +kernel)), rfl⟩, ⟨_, (there (by decide +kernel)), rfl, rfl⟩, (okay (by decide +kernel))⟩, (by decide +kernel)⟩,
   meetsLive_once mm (by decide +kernel) (by decide +kernel) ⟨_, ⟨_, _, _, _, _, _, _, claims (there (by decide +kernel)) (by decide +kernel) (by decide +kernel), (okay (by decide +kernel)), (there (by decide +kernel)), (by decide +kernel), ⟨_, (okay (by decide +kernel)), rfl⟩, ⟨_, (there (by decide +kernel)), rfl, rfl⟩, (okay (by decide +kernel))⟩, (by decide +kernel)⟩,
   meetsLive_once mm (by decide +kernel) (by decide +kernel) ⟨_, ⟨_, _, _, _, _, _, _, claims (there (by decide +kernel)) (by decide +kernel) (by decide +kernel), (okay (by decide +kernel)), (there (by decide +kernel)), (by decide +kernel), ⟨rfl, rfl⟩, ⟨_, (there (by decide +kernel)), rfl, rfl⟩, (okay (by decide +kernel))⟩, (by decide +kernel)⟩,
   meetsLive_once mm (by decide +kernel) (by decide +kernel) ⟨_, ⟨_, _, _, _, _, _, _, claims (there (by decide +kernel)) (by decide +kernel) (by decide +kernel), (okay (by decide +kernel)), (there (by decide +kernel)), (by decide +kernel), ⟨rfl, rfl⟩, ⟨_, (there (by decide +kernel)), rfl, rfl⟩, (okay (by decide +kernel))⟩, (by decide +kernel)⟩,
   meetsLive_once mm (by decide +kernel) (by decide +kernel) ⟨_, ⟨_, _, _, _, _, _, _, claims (there (by decide +kernel)) (by decide +kernel) (by decide +kernel), (okay (by decide +kernel)), (there (by decide +kernel)), (by decide +kernel), ⟨_, (okay (by decide +kernel)), rfl⟩, ⟨_, (there (by decide +kernel)), rfl, rfl⟩, (okay (by decide +kernel))⟩, (by decide +kernel)⟩,
   meetsLive_once mm (by decide +kernel) (by decide +kernel) ⟨_, ⟨_, _, _, _, _, _, _, claims (there (by decide +kernel)) (by decide +kernel) (by decide +kernel), (okay (by decide +kernel)), (there (by decide +kernel)), (by decide +kernel), ⟨rfl, rfl⟩, ⟨_, (there (by decide +kernel)), rfl, rfl⟩, (okay (by decide +kernel))⟩, (by decide +kernel)⟩,
   meetsLive mm (by decide +kernel) ⟨_, ⟨_, _, gathers_one (l := 0) (by decide +kernel) (okay (by decide +kernel)), byNeg (by decide +kernel) ⟨_, _, _, _, _, _, _, claims (there (by decide +kernel)) (by decide +kernel) (by decide +kernel), (okay (by decide +kernel)), (there (by decide +kernel)), (by decide +kernel), ⟨rfl, rfl⟩, ⟨_, (there (by decide +kernel)), rfl, rfl⟩, (okay (by decide +kernel))⟩⟩, (by decide +kernel)⟩,
   meetsLive mm (by decide +kernel) ⟨_, ⟨_, _, gathers_one (l := 0) (by decide +kernel) (okay (by decide +kernel)), byNeg (by decide +kernel) ⟨_, _, _, _, _, _, _, claims (there (by decide +kernel)) (by decide +kernel) (by decide +kernel), (okay (by decide +kernel)), (there (by decide +kernel)), (by decide +kernel), ⟨rfl, rfl⟩, ⟨_, (there (by decide +kernel)), rfl, rfl⟩, (okay (by decide +kernel))⟩⟩, (by decide +kernel)⟩,
   meetsLive mm (by decide +kernel) ⟨_, ⟨_, _, gathers_one (l := 0) (by decide +kernel) (okay (by decide +kernel)), byNeg (by decide +kernel) ⟨_, _, _, _, _, _, _, claims (there (by decide +kernel)) (by decide +kernel) (by decide +kernel), (okay (by decide +kernel)), (there (by decide +kernel)), (by decide +kernel), ⟨rfl, rfl⟩, ⟨_, (there (by decide +kernel)), rfl, rfl⟩, (okay (by decide +kernel))⟩⟩, (by decide +kernel)⟩,
   meetsLive_each mm 0 (by decide +kernel) (by decide +kernel) ⟨_, ⟨_, _, _, _, _, _, _, ⟨claims (there (by decide +kernel)) (by decide +kernel) (by decide +kernel), _, _, (there (by decide +kernel)), (there (by decide +kernel)), (by decide +kernel)⟩, (okay (by decide +kernel)), (there (by decide +kernel)), ⟨rfl, rfl, (by decide +kernel), rfl⟩, (okay (by decide +kernel))⟩, (by decide +kernel)⟩,
   meetsLive_each mm 0 (by decide +kernel) (by decide +kernel) ⟨_, ⟨_, _, _, _, _, _, _, ⟨claims (there (by decide +kernel)) (by decide +kernel) (by decide +kernel), _, _, (there (by decide +kernel)), (there (by decide +kernel)), (by decide +kernel)⟩, (okay (by decide +kernel)), (there (by decide +kernel)), ⟨rfl, rfl, (by decide +kernel), rfl⟩, rfl⟩, (by decide +kernel)⟩,
   meetsLive_once mm (by decide +kernel) (by decide +kernel) ⟨_, ⟨_, _, _, _, (okay (by decide +kernel)), ⟨claims (there (by decide +kernel)) (by decide +kernel) (by decide +kernel), _, _, (there (by decide +kernel)), (there (by decide +kernel)), (by decide +kernel)⟩, (there (by decide +kernel)), (by decide +kernel), rfl⟩, (by decide +kernel)⟩,
   meetsLive_once mm (by decide +kernel) (by decide +kernel) ⟨_, ⟨_, _, (there (by decide +kernel)), (okay (by decide +kernel)), rfl⟩, (by decide +kernel)⟩⟩

theorem streamEnds {x : Iss} {q : Nat} {m : State} {g : Group} (h : m.group? x.gid = some g) (h1 : (g.queues.get .empty q).stream = none) :
    StreamEnds x q m (m.updGroup x.gid fun g' => { g' with queues := g'.queues.set q { (g.queues.get .empty q) with words := [], ended := none } }) :=
  ⟨g, h, by simp only [h1]⟩
theorem copyQueued {i : Instr} {kind : Nat} {b v c : BitVec 7} {x : Iss} {s u m m1 : State} {y : Slice} {g : Group} {k n : Nat} {r jc : Bool}
    (h : SliceRead i b v x s y m) (h1 : m.group? x.gid = some g) (hk : k = (((m.wgs.look g.wg).map (·.slices.get 0 g.gix)).getD 0) + 1)
    (h2 : (if kind = 0 then (m.wgs.look g.wg).bind (·.copyNums.look k) else none) = none) (h3 : m.copyEntry g.wg = some r)
    (h4 : Numbered x x.act 1 (m.updGroup x.gid fun g => { g with engqSince := none }) n m1) (hj : jc = decide (kind = 0))
    (h5 : NumberTo x x.act c n (m1.updWg g.wg fun w =>
      { w with
          copies := w.copies ++ [{ num := n, index := k, done := 0, ue := false, refused := 0, kind := kind,
                                   members := if kind = 0 then (m1.groupsOf g.wg).filterMap fun p => if p.2.exited then none else some p.2.gix else [],
                                   slices := [y], reserved := r, region := m1.regionOf g, scope := max 1 (x.scope - 1), started := false,
                                   park := none, outcome := none }]
          slices := if jc then w.slices.set g.gix k else w.slices
          copyNums := if jc then w.copyNums.set k n else w.copyNums }) u) : CopyIssue i kind b v c x s u := by
  subst hk hj
  refine ⟨y, m, g, h, h1, ?_⟩
  simp only [h2, h3]
  refine ⟨n, m1, h4, ?_⟩
  by_cases hz : kind = 0 <;> simpa [hz] using h5
theorem witness_Streams :
    MeetsLive (.strm 3#7 112#7 20#7) (Once (StrmEffect 3#7 112#7 20#7)) ∧ MeetsLive (.strq 3#7 114#7) (Once (StrqEffect 3#7 114#7)) ∧
    MeetsLive (.strqEnd 3#7) (Once (StrqEndEffect 3#7)) ∧ (∃ x q s u, StreamEnds x q s u) :=
  ⟨meetsLive_once mm (by decide +kernel) (by decide +kernel) ⟨_, ⟨_, _, _, ⟨_, (okay (by decide +kernel)), (okay (by decide +kernel))⟩, (okay (by decide +kernel)), (okay (by decide +kernel))⟩, (by decide +kernel)⟩, meetsLive_once mm (by decide +kernel) (by decide +kernel) ⟨_, ⟨_, (there (by decide +kernel)), (okay (by decide +kernel))⟩, (by decide +kernel)⟩,
   meetsLive_once mm (by decide +kernel) (by decide +kernel) ⟨_, ⟨_, (okay (by decide +kernel)), (okay (by decide +kernel))⟩, (by decide +kernel)⟩, ⟨issOf mm, 3, mm, _, streamEnds (there (by decide +kernel)) (by decide +kernel)⟩⟩
theorem witness_Copies :
    MeetsLive (.cpy 112#7 120#7 20#7) (Once (CopyIssue (.cpy 112#7 120#7 20#7) 0 112#7 120#7 20#7)) ∧
    copyForm (.cpy 112#7 120#7 20#7) = some (0, 112#7, 120#7, 20#7) ∧
    MeetsLive (.cpym 112#7 106#7 20#7) (Once (CopyIssue (.cpym 112#7 106#7 20#7) 1 112#7 106#7 20#7)) ∧
    MeetsLive (.cpst 108#7 106#7 9#7) (Once (CpstEffect 108#7 106#7 9#7)) :=
  ⟨meetsLive_once mm (by decide +kernel) (by decide +kernel) ⟨_, copyQueued ⟨_, _, ⟨_, (okay (by decide +kernel)), (okay (by decide +kernel))⟩, (there (by decide +kernel)), rfl⟩ (there (by decide +kernel)) rfl (by decide +kernel) (there (by decide +kernel)) ⟨_, (there (by decide +kernel)), rfl, rfl⟩ rfl (okay (by decide +kernel)), (by decide +kernel)⟩, rfl,
   meetsLive_once mm (by decide +kernel) (by decide +kernel) ⟨_, copyQueued ⟨_, _, ⟨_, (okay (by decide +kernel)), (okay (by decide +kernel))⟩, (there (by decide +kernel)), rfl⟩ (there (by decide +kernel)) rfl (by decide +kernel) (there (by decide +kernel)) ⟨_, (there (by decide +kernel)), rfl, rfl⟩ rfl (okay (by decide +kernel)), (by decide +kernel)⟩,
   meetsLive_once mm (by decide +kernel) (by decide +kernel) ⟨_, ⟨_, _, _, _, (okay (by decide +kernel)), (there (by decide +kernel)), (okay (by decide +kernel)), rfl⟩, (by decide +kernel)⟩⟩

theorem posts {p r c : BitVec 7} {x : Iss} {s u m m1 m3 m4 m5 : State} {vs : List (List Word)} {v id n : Nat} {g : Group}
    (h : CommandStart x (x.act.headD 0) [(oIn .sPair p 2, true)] 2 s vs m)
    (h1 : readObject x (x.act.headD 0) (numberOf (vs.getD 0 [])) 32 m = .ok v m1) (h2 : m1.group? x.gid = some g)
    (h3 : v / 2 ^ 128 % 2 ^ 12 = 0) (h4 : m1.regionOf g ∈ m1.chain 17 (v / 2 ^ 140 % 2 ^ 20))
    (h5 : m1.postRecord {
        home := 0, slot := 0, gen := 0, code := BitVec.ofNat 64 v, frame := BitVec.ofNat 64 (v / 2 ^ 64),
        affinity := BitVec.ofNat 64 (v / 2 ^ 192), join := BitVec.ofNat 32 (v / 2 ^ 160), region := v / 2 ^ 140 % 2 ^ 20,
        deferred := false, isFault := false, runnable := false, saved := none, since := 0 } (some g.core) = (some id, m3))
    (h6 : Numbered x x.act 5 m3 n m4)
    (h7 : writeAll x x.act (oOut .sPairD r 2) [regWord 0#32, regWord (BitVec.ofNat 32 id)]
            (x.act.foldl (fun s l => s.releaseAt x.gid l (recordLoc id) 2 true) (m4.completeTl g.wg 5 n 0 id 0)) = .ok () m5)
    (h8 : NumberTo x x.act c n m5 u) : PostEffect false p r c x s u := by
  refine ⟨vs, m, v, m1, g, h, h1, h2, ?_⟩
  simp only [h3, h4, h5, ne_eq, not_true_eq_false, if_false, Bool.false_eq_true]
  exact ⟨n, m4, m5, h6, h7, h8⟩
theorem pairSome {α β : Type} {p : Option α × β} (h : p.1.isSome = true) : p = (some (p.1.get h), p.2) := by
  obtain ⟨a, b⟩ := p
  cases a with
  | none => cases h
  | some v => rfl
def msteppe : State := mm.setReg 0 .steppecfg (2 ^ 63 + 1)
theorem joinsNone {i st c : BitVec 7} {x : Iss} {s u m : State} {vs : List (List Word)} {g : Group}
    (h : CommandStart x (x.act.headD 0) [(oIn .sOne i 1, false)] 2 s vs m) (h1 : m.group? x.gid = some g)
    (h2 : (m.steppe.find? fun r => r.id == numberOf (vs.getD 0 []) && r.saved.isNone) = none) (h3 : Answered x x.act st c 5 0 m u) :
    TjoinEffect i st c x s u := by
  refine ⟨vs, m, g, h, h1, ?_⟩
  simp only [h2]; exact h3
theorem statNone {a d : BitVec 7} {x : Iss} {s u m : State} {vs : List (List Word)} {g : Group} {r : CommRank}
    (h : readOps x (x.act.headD 0) [(oIn .sOne a 1, false)] s = .ok vs m) (h1 : m.group? x.gid = some g)
    (h2 : ((m.boundRank (numberOf (vs.getD 0 [])) (m.regionOf g)).orElse fun _ => m.ranks.find? fun q => q.comm == numberOf (vs.getD 0 [])) = some r)
    (h3 : writeVals x (x.act.headD 0) (oOut .sQuad d 4) [BitVec.ofNat 32 (r.state * 2 ^ 30 + r.cause % 16 * 2 ^ 20),
        BitVec.ofNat 32 (r.culprit.getD 0xFFFFFFFF), BitVec.ofNat 32 r.rank, BitVec.ofNat 32 r.epoch] [] m = .ok () u) : CstatEffect a d x s u := by
  refine ⟨vs, m, g, h, h1, ?_⟩
  simp only [h2]; exact h3
def rank0 : CommRank := { comm := 5, rank := 0, region := 0, state := 0, cause := 0, culprit := none, epoch := 1, seq := 0, colls := [], inbox := [], excluded := false }
def mrank : State := { mm with ranks := [rank0] }
theorem witness_CommandsToTheRest :
    MeetsLive (.dbw 106#7 114#7 20#7) (Once (DoorbellIssue 106#7 114#7 20#7 1)) ∧ MeetsLive (.dbwX2 106#7 114#7 20#7) (Once (DoorbellIssue 106#7 114#7 20#7 2)) ∧
    MeetsLive (.nmc 112#7 120#7 20#7) (Once (NmcIssue 112#7 120#7 20#7)) ∧ MeetsLive (.launch 106#7 114#7 20#7) (Once (LaunchEffect 106#7 114#7 20#7)) ∧
    MeetsLive (.tpost 106#7 114#7 20#7) (Once (PostEffect false 106#7 114#7 20#7)) ∧
    MeetsLive (.tjoin 112#7 114#7 20#7) (Once (TjoinEffect 112#7 114#7 20#7)) ∧
    MeetsLive (.coll 112#7 20#7) (Once (CollEffect 112#7 20#7)) ∧ MeetsLive (.cabort 112#7 20#7) (Once (CabortEffect 112#7 20#7)) ∧
    MeetsLive (.cstat 112#7 108#7) (Once (CstatEffect 112#7 108#7)) :=
  ⟨meetsLive_once mm (by decide +kernel) (by decide +kernel) ⟨_, ⟨_, _, _, _, _, ⟨_, (okay (by decide +kernel)), (okay (by decide +kernel))⟩, (there (by decide +kernel)), ⟨_, (there (by decide +kernel)), rfl, rfl⟩, (okay (by decide +kernel))⟩, (by decide +kernel)⟩,
   meetsLive_once mm (by decide +kernel) (by decide +kernel) ⟨_, ⟨_, _, _, _, _, ⟨_, (okay (by decide +kernel)), (okay (by decide +kernel))⟩, (there (by decide +kernel)), ⟨_, (there (by decide +kernel)), rfl, rfl⟩, (okay (by decide +kernel))⟩, (by decide +kernel)⟩,
   meetsLive_once mm (by decide +kernel) (by decide +kernel) ⟨_, ⟨_, _, _, _, _, ⟨_, (okay (by decide +kernel)), (okay (by decide +kernel))⟩, (there (by decide +kernel)), ⟨_, (there (by decide +kernel)), rfl, rfl⟩, (okay (by decide +kernel))⟩, (by decide +kernel)⟩,
   meetsLive_once mm (by decide +kernel) (by decide +kernel) ⟨_, ⟨_, _, _, _, _, ⟨_, (okay (by decide +kernel)), (okay (by decide +kernel))⟩, (okay (by decide +kernel)), (there (by decide +kernel)), byNeg (by decide +kernel) (byPos (by decide +kernel) ⟨_, (okay (by decide +kernel)), (okay (by decide +kernel))⟩)⟩, (by decide +kernel)⟩,
   meetsLive_once msteppe (by decide +kernel) (by decide +kernel) ⟨_, posts ⟨_, (okay (by decide +kernel)), (okay (by decide +kernel))⟩ (okay (by decide +kernel)) (there (by decide +kernel)) (by decide +kernel) (by decide +kernel) (pairSome (by decide +kernel)) ⟨_, (there (by decide +kernel)), rfl, rfl⟩ (okay (by decide +kernel)) (okay (by decide +kernel)), (by decide +kernel)⟩,
   meetsLive_once mm (by decide +kernel) (by decide +kernel) ⟨_, joinsNone ⟨_, (okay (by decide +kernel)), (okay (by decide +kernel))⟩ (there (by decide +kernel)) (by decide +kernel) ⟨_, (okay (by decide +kernel)), (okay (by decide +kernel))⟩, (by decide +kernel)⟩,
   meetsLive_once mm (by decide +kernel) (by decide +kernel) ⟨_, ⟨_, _, _, _, _, ⟨_, (okay (by decide +kernel)), (okay (by decide +kernel))⟩, (there (by decide +kernel)), ⟨_, (there (by decide +kernel)), rfl, rfl⟩, (okay (by decide +kernel))⟩, (by decide +kernel)⟩,
   meetsLive_once mm (by decide +kernel) (by decide +kernel) ⟨_, ⟨_, _, _, _, _, ⟨_, (okay (by decide +kernel)), (okay (by decide +kernel))⟩, (there (by decide +kernel)), ⟨_, (there (by decide +kernel)), rfl, rfl⟩, (okay (by decide +kernel))⟩, (by decide +kernel)⟩,
   meetsLive_once mrank (by decide +kernel) (by decide +kernel) ⟨_, statNone (okay (by decide +kernel)) (there (by decide +kernel)) (there (by decide +kernel)) (okay (by decide +kernel)), (by decide +kernel)⟩⟩

theorem test_memory_form_at_reset : State.reset.memoryWf = true := by decide
def sysAt : Xlat := { pa := fetchBase + 64, dev := false, h := fetchBase + 64, check := false, g := false, enc := false, badKey := false, por := false }
def held5 : State := mm.updCore 0 fun k => { k with cch := [(5, { state := .modified, data := 0#1024, dirty := 0#128, poison := 0#128, badW := 0#32, bank := 92, region := 0, op := 0, typ := 0, touched := 0#32, way := 0 })] }
theorem witness_StoreFrame :
    (∃ (s u : State) (x : Iss) (g : Group) (vs : List (List Word)) (m : State) (c : Nat) (at_ : ScrAt), Machine.Inv s ∧ Ready s (.sts 0#2 8#7 3#6 0#1 1#9) x g ∧
      x.act = [0] ∧ x.pos = 0 ∧ LaneSts 0#2 8#7 3#6 0#1 1#9 x 0 s u ∧ Live x u ∧
      readOps x 0 [(oIn .store 8#7 (memN 0#2 0#1), false), (oAddr 3#6 true, false)] s = .ok vs m ∧
      ScratchAt (numberOf (vs.getD 1 [])) (displacement x 1#9 (accessBytes 0#2 0#1)) (accessBytes 0#2 0#1) c ∧
      scrResolve g.wg c (accessBytes 0#2 0#1) m = .ok at_ m) ∧
    (∃ (v : Via) (q : Xlat) (s u : State), Machine.Inv s ∧ targetOf q.pa = .sysmem ∧ storeAt v q [1#8, 2#8] s = .ok () u) ∧
    (∃ (s u : State) (y : CchLine), 126 + 2 ≤ 128 ∧ homeOf (lineKey 5) = basinOf 0 ∧ s.watched 5 = false ∧ (s.core 0).cch.look 5 = some y ∧
      y.state = .modified ∧ cchStore 0 5 126 [1#8, 2#8] 0 32 s = .ok () u) :=
  ⟨⟨mm, _, _, _, _, _, _, _, by unfold Machine.Inv; decide +kernel, ready_of (by decide +kernel), (by decide +kernel), (by decide +kernel), ⟨_, _, _, _, _, _, (okay (by decide +kernel)), (there (by decide +kernel)), ⟨rfl, (by decide +kernel)⟩, (okaySame (by decide +kernel) (by decide +kernel)), (by decide +kernel), (okay (by decide +kernel)), rfl⟩, live_of (by decide +kernel), (okay (by decide +kernel)), ⟨rfl, (by decide +kernel)⟩, (okaySame (by decide +kernel) (by decide +kernel))⟩,
   ⟨mm.viaOf (grpOf mm) 32 0, sysAt, mm, _, by unfold Machine.Inv; decide +kernel, (by decide +kernel), (okay (by decide +kernel))⟩,
   ⟨held5, _, _, (by decide +kernel), (by decide +kernel), (by decide +kernel), (there (by decide +kernel)), (by decide +kernel), (okay (by decide +kernel))⟩⟩
theorem witness_MemoryReadsWhatWasWritten :
    (∃ (v : Via) (q : Xlat) (s u : State), Machine.Inv s ∧ targetOf q.pa = .sysmem ∧ q.por = false ∧ [1#8, 2#8] ≠ ([] : List Byte) ∧
      s.rangeBad q.pa 2 = false ∧ storeAt v q [1#8, 2#8] s = .ok () u) ∧
    (∃ (s t u : State) (r : List Byte × Bool) (a : ScrAt), Machine.Inv s ∧ (s.wgs.look a.wg).isSome = true ∧ scrStore 1 a [1#8, 2#8] s = .ok () t ∧
      scrLoad 1 a 2 t = .ok r u) ∧
    (∃ (s u : State) (y : CchLine), 126 + 2 ≤ 128 ∧ homeOf (lineKey 5) = basinOf 0 ∧ s.watched 5 = false ∧ (s.core 0).cch.look 5 = some y ∧
      y.state = .modified ∧ y.poison = 0#128 ∧ y.badW = 0#32 ∧ cchStore 0 5 126 [1#8, 2#8] 0 32 s = .ok () u) :=
  ⟨⟨mm.viaOf (grpOf mm) 32 0, sysAt, mm, _, by unfold Machine.Inv; decide +kernel, (by decide +kernel), (by decide +kernel), (by decide +kernel), (by decide +kernel), (okay (by decide +kernel))⟩,
   ⟨mm, _, _, _, { wg := 1, addr := 16 }, by unfold Machine.Inv; decide +kernel, (by decide +kernel), (okay (by decide +kernel)), (okay (by decide +kernel))⟩, ⟨held5, _, _, (by decide +kernel), (by decide +kernel), (by decide +kernel), (there (by decide +kernel)), (by decide +kernel), (by decide +kernel), (by decide +kernel), (okay (by decide +kernel))⟩⟩
theorem witness_RegisterFrame : (∃ o, destOf (.imad 0#2 1#7 2#7 4#7) = some o) ∧ Meets (.imad 0#2 1#7 2#7 4#7) (EachLane fun x => LaneResult (.imad 0#2 1#7 2#7 4#7) 32
    (fun l => wrapOrSat x 32 ((src l 1).toInt * (src l 2).toInt + (src l 0).toInt)) x) := ⟨⟨_, rfl⟩, witness_IntegerArithmetic⟩

-- Events of translation and of the strath pool.
def emptyWalk : Walk := { root := 0, vpn := 9, core := some 0, region := 0, master := 0, write := false, started := false, failed := false }
def pf0 : PfRec := { id := 0, seq := none, root := 0, page := 9, cls := 0, sub := 1, va := 0x9000, bufidx := 1, region := 0, master := 0, stamp := 0, waiters := 0, pages := [] }
def withBasin (f : Basin → Basin) (s : State) : State := s.updBasin 0 f
def rootAt : Nat := fetchBase + 65536
def mapped : State :=
  let bs := cellsWrite (cellsWrite mm.mem.bytes rootAt (natToBytes 8 (rootAt + 1))) (rootAt + 72) (natToBytes 8 (pageAt 9 8192 6).pte.toNat)
  { mm with mem := { mm.mem with bytes := bs } }
def tableMem : State := { mm with mem := { mm.mem with bytes := cellsWrite mm.mem.bytes (fetchBase + 160) (natToBytes 32 bte1.toNat) } }
theorem witness_TranslationEvents :
    (∃ (s t : State) (e : Nat), 5 ≤ s.btCount 0 ∧ (s.core 0).bte.look (bteKey (s.ptRoot 0) (s.btBase 0) 5) = none ∧
      bteOf { Who.thread 0 0 true with queued := false } 5 (5 * 2 ^ 48) s = .ok e t) ∧
    (∃ (s : State) (q : Walk), (s.basin 0).walks.find? (fun p => !p.started) = some q ∧ ((s.basin 0).walks.filter (·.started)).length < 64) ∧
    (∃ (s t : State) (q : Walk), (s.basin 0).walks.find? (fun p => p.started && !p.failed) = some q ∧ walkBody (q.who 0) q s = .ok () t) ∧
    (∃ (s t : State) (g : Group) (l : Nat) (ls : List Nat) (p : Thread) (w : Word), s.group? 32 = some g ∧ s.entry g = l :: ls ∧
      g.thread? l = some p ∧ fetchWord { s.whoOf g with queued := false } (s.viaOf g 32 l) p.pc.toNat s = .ok w t) ∧
    (∃ s t : State, 5 ∈ s.mem.dx ∧ (s.mem.dx.filter fun k => l2Line k == l2Line 5) = [5] ∧ publishLine 5 none s = .ok () t) :=
  ⟨⟨tableMem, _, _, (by decide +kernel), (by decide +kernel), (okay (by decide +kernel))⟩, ⟨withBasin (fun b => { b with walks := [emptyWalk] }) mm, _, (there (by decide +kernel)), (by decide +kernel)⟩,
   ⟨withBasin (fun b => { b with walks := [{ emptyWalk with root := rootAt, started := true }] }) mapped, _, _, (there (by decide +kernel)), (okay (by decide +kernel))⟩,
   ⟨withThread (fun t => { t with pc := 0x1000000002000#64 }) mm, _, _, _, _, _, _, (there (by decide +kernel)), rfl, (there (by decide +kernel)), (okay (by decide +kernel))⟩,
   ⟨{ mm with mem := { mm.mem with dx := [5] } }, _, (by decide +kernel), (by decide +kernel), (okay (by decide +kernel))⟩⟩
theorem witness_PageFaultEvents :
    (∃ (s : State) (r : PfRec), (s.basin 0).pfq.find? (fun r => r.seq.isNone) = some r ∧ (s.reg 0 .pfqbase).testBit 63 = true ∧
      (s.reg 0 .pfqptr % 2 ^ 32 + 2 ^ 32 - s.reg 0 .pfqptr / 2 ^ 32 % 2 ^ 32) % 2 ^ 32 < 4096) ∧
    (∃ (s : State) (r : PfRec), s.pfFind 0 3 = some r) ∧ (∃ (s : State) (p : Thread), s.thread? 32 0 = some p ∧ p.park.isSome = true) ∧
    (∃ s : State, s.pfFind 0 3 = none) :=
  ⟨⟨(withBasin (fun b => { b with pfq := [pf0] }) mm).setReg 0 .pfqbase (2 ^ 63), _, (there (by decide +kernel)), (by decide +kernel), (by decide +kernel)⟩,
   ⟨withBasin (fun b => { b with pfq := [{ pf0 with seq := some 3 }] }) mm, _, (there (by decide +kernel))⟩,
   ⟨withThread (fun t => { t with park := some (0, trapOf .pagefault 0#64) }) mm, _, (there (by decide +kernel)), (by decide +kernel)⟩, ⟨mm, (by decide +kernel)⟩⟩

def onCore (f : Core → Core) (s : State) : State := s.updCore 0 f
def bankIs (b : Nat) (x : Bank) (s : State) : State := onCore (fun k => { k with banks := k.banks.set b x }) s
def turning (o i : Role) (d : Bool) : Bank := { role := .trn, region := 0, outgoing := o, incoming := i, drained := d }
def seated (n slab : Nat) : Nat × Group := (n, { group0 [] [] with gix := n - 32, slot := n - 32, slabs := [slab, slab + 1, slab + 2], threads := [(0, Thread.fresh pc0 0 [])] })
def crowded : State :=
  let g : List (Nat × Group) := [seated 32 2, seated 33 7, seated 34 12]
  let w : Waiting := { grid := 1, first := 0, size := 1, restore := some 2, basin := 0, core := some 0, since := 0, woken := [], task := false }
  let away : Workgroup := { wg0 with groups := 1, segs := 0, saved := .pool 0 0 }
  let s : State := { state0 [] [] with cur := none, groups := g ++ [(64, { group0 [] [] with wg := 2 })], wgs := [(1, wg0), (2, away)] }
  let s := s.updCore 0 fun k =>
    { k with ready := true, banks := (0, { role := .reg, region := 0, outgoing := .off, incoming := .off, drained := false }) ::
              (List.range 95).map fun b => (b + 1, { role := .mxs, region := 0, outgoing := .off, incoming := .off, drained := false }) }
  s.updBasin 0 fun b => { b with waits := [w] }
def slide0 : Slide := { want := 3, rest := [33], moved := 3 }
def struckBank (l : NMap Nat) : State := onCore (fun k => { k with soft := l }) (bankIs 3 { turning .off .off false with role := .cch } mm)
def move0 : Move := { group := 32, dest := [3, 4, 5], req := none }
theorem witness_PoolEvents :
    (∃ s : State, (s.core 0).busy = true) ∧ (∃ s : State, (s.bank 0 3).role = .trn ∧ (s.bank 0 3).outgoing = .off) ∧
    (∃ s : State, (s.bank 0 3).role = .trn ∧ s.bankDrained 0 3 = true) ∧
    (∀ p ∈ [false, true], ∃ (s : State) (m : Move) (g : Group), (s.nextMoves 0).find? s.movable = some m ∧ s.group? m.group = some g ∧
      (s.liveOn 0).any (fun p => p.1 == m.group) = true ∧ g.paused = p) ∧
    (∃ (s : State) (m : SegMove) (w : Workgroup), (s.core 0).segMoves = [m] ∧ s.wgs.look m.wg = some w ∧ w.core = 0 ∧ w.saved = .resident ∧
      (w.segMap.look m.seg).isSome = true) ∧
    (∃ s : State, (s.bank 0 3).role = .trn ∧ (s.bank 0 3).outgoing = .cch) ∧ (∀ n ∈ [none, some 1, some 2], ∃ s : State, (s.bank 0 3).role ∈ [Role.scr, .cch, .mxs] ∧ (s.core 0).soft.look (32768 * 3 + 5) = n) ∧
    (∃ (s : State) (n : Nat), (s.core 0).sliding.look 0 = none ∧ (s.compactable 0).find? (fun p => p.1 == 0) = some (0, n)) ∧
    (∃ (s : State) (a : Slide), (s.core 0).sliding.look 0 = some a ∧ ∀ m ∈ (s.core 0).moves, s.moveGlen m ≠ some 0) := by
  refine ⟨⟨onCore (fun k => { k with busy := true }) mm, (by decide +kernel)⟩, ⟨bankIs 3 (turning .off .reg false) mm, (by decide +kernel), (by decide +kernel)⟩,
    ⟨bankIs 3 (turning .off .reg true) mm, (by decide +kernel), (by decide +kernel)⟩, ?_,
    ⟨onCore (fun k => { k with segMoves := [{ wg := 1, seg := 0, dest := 40 }] }) (mm.updWg 1 fun w => { w with segMap := [(0, 32)] }), _, _, rfl, (there (by decide +kernel)), (by decide +kernel), (by decide +kernel), (by decide +kernel)⟩,
    ⟨bankIs 3 (turning .cch .reg false) mm, (by decide +kernel), (by decide +kernel)⟩, ?_,
    ⟨crowded, 3, (by decide +kernel), (by decide +kernel)⟩, ⟨onCore (fun k => { k with sliding := [(0, slide0)] }) crowded, slide0, (by decide +kernel), (by decide +kernel)⟩⟩
  · intro p hp
    simp only [List.mem_cons, List.not_mem_nil, or_false] at hp
    rcases hp with rfl | rfl
    · exact ⟨onCore (fun k => { k with moves := [move0] }) mm, move0, _, (by decide +kernel), (there (by decide +kernel)), (by decide +kernel), (by decide +kernel)⟩
    · exact ⟨withGroup (fun g => { g with paused := true }) (onCore (fun k => { k with moves := [move0] }) mm), move0, _, (by decide +kernel), (there (by decide +kernel)), (by decide +kernel), (by decide +kernel)⟩
  · intro n hn
    simp only [List.mem_cons, List.not_mem_nil, or_false] at hn
    rcases hn with rfl | rfl | rfl
    · exact ⟨struckBank [], (by decide +kernel), (by decide +kernel)⟩
    · exact ⟨struckBank [(32768 * 3 + 5, 1)], (by decide +kernel), (by decide +kernel)⟩
    · exact ⟨struckBank [(32768 * 3 + 5, 2)], (by decide +kernel), (by decide +kernel)⟩

def basin1 (f : Basin → Basin) (s : State) : State := s.updBasin 1 f
def lateOn (s : State) : State := { s with gtb := 0x100000000#64 }
def lease0 (w : Bool) : Lease := { hclass := 1, holder := 1, line := 5, write := w, expiry := 10, region := 0 }
def rdc0 : RdcLine := { data := 7#1024, dirty := 0#128, poison := 0#128, write := true, expiry := 9, len := 100, region := 0 }
theorem bytesOk {α : Type} {r : EStateM.Result AErr State (α × Bool)} (h : (valO r).any (fun p => !p.2) = true) (h1 : okB r = true) :
    r = .ok ((valOf r h1).1, false) (stOf r) := by
  cases r with
  | error e t => cases h1
  | ok a t =>
    obtain ⟨a, b⟩ := a
    cases b with
    | true => cases h
    | false => rfl
theorem witness_CoherenceEvents :
    (∃ (s t : State) (d : BitVec 1024 × BitVec 128), coherentLine 5 = true ∧ homeLoadMiss 0 5 0 s = .ok d t) ∧
    (∃ (s t : State) (r : Bool), homeStoreMiss 87 5 0 s = .ok r t) ∧ (∃ (s t : State) (r : Bool), homeRedMiss 0 5 5 3 0 s = .ok r t) ∧
    (∃ (s t : State) (r : Bool), homeRedMiss 0 5 0 4 0 s = .ok r t) ∧
    (∃ (s m m1 t : State) (old : List Byte), coherentLine (lineOf 644) = true ∧ 644 % typSize 0 = 0 ∧ atHome 0 (lineOf 644) true 0 s = .ok () m ∧
      backBytes 0 (lineOf 644) (644 % 128) (typSize 0) m = .ok (old, false) m1 ∧
      backWrite 0 (lineOf 644) (644 % 128) (natToBytes (typSize 0) (atomicNew 0 0 (bytesToNat old) 3 0)) false m1 = .ok () t) ∧
    (∃ (s : State) (x : CchLine), (s.core 0).cch.look 5 = some x ∧ (x.state = .modified ∨ x.state = .update)) ∧
    (∃ (s m t : State) (at_ : ScrAt) (r : Option Nat), 16 % typSize 0 = 0 ∧ scrResolve 1 (0xFF000000 + 16 % 2 ^ 24) (typSize 0) s = .ok at_ m ∧
      scrAtomic at_ 0 0 5 0 m = .ok r t) ∧
    (∃ (s : State) (v : Workgroup), s.wgs.look 1 = some v ∧ (v.dirOf 0).moving = some 1) := by
  exact ⟨⟨mm, _, _, (by decide +kernel), (okay (by decide +kernel))⟩, ⟨mm, _, _, (okay (by decide +kernel))⟩, ⟨mm, _, _, (okay (by decide +kernel))⟩, ⟨mm, _, _, (okay (by decide +kernel))⟩, ⟨mm, _, _, _, _, (by decide +kernel), (by decide +kernel), (okay (by decide +kernel)), bytesOk (by decide +kernel) (by decide +kernel), (okay (by decide +kernel))⟩, ⟨held5, _, (there (by decide +kernel)), (by decide +kernel)⟩,
    ⟨mm, _, _, _, _, (by decide +kernel), (okay (by decide +kernel)), (okay (by decide +kernel))⟩, ⟨mm.updWg 1 fun w => { w with segDir := [(0, { owner := 0, holders := 0#24, moving := some 1 })] }, _, (there (by decide +kernel)), (by decide +kernel)⟩⟩
theorem witness_LeaseEvents :
    (∃ (s t : State) (r : Bool), homeOf (lineKey 5) ≠ 1 ∧ leaseRequest 1 5 true 0 s = .ok r t) ∧
    (∃ (s : State) (r : RdcLine), (s.basin 1).rdc.look 5 = some r ∧ homeOf (lineKey 5) ≠ 1 ∧ r.expiry ≤ s.time) ∧
    (∀ w : Bool, ∃ (s : State) (g : Lease), (s.basin 0).leases = [g] ∧ g.line = 5 ∧ g.write = w ∧ homeOf (lineKey 5) = 0 ∧ s.homeEnd 0 g ≤ s.time) ∧
    (∃ s : State, 100 ≤ s.reg 0 .lguard % 2 ^ 14) ∧ (∃ s : State, s.reg 0 .lguard % 2 ^ 14 < 101 ∧ (s.basin 0).rdc = []) := by
  refine ⟨⟨mm, _, _, (by decide +kernel), (okay (by decide +kernel))⟩, ⟨lateOn (basin1 (fun b => { b with rdc := [(5, rdc0)] }) mm), _, (there (by decide +kernel)), (by decide +kernel), (by decide +kernel)⟩, ?_, ⟨mm, (by decide +kernel)⟩, ⟨mm, (by decide +kernel), (by decide +kernel)⟩⟩
  intro w
  cases w
  · exact ⟨lateOn (withBasin (fun b => { b with leases := [lease0 false] }) mm), lease0 false, (by decide +kernel), (by decide +kernel), rfl, (by decide +kernel), (by decide +kernel)⟩
  · exact ⟨lateOn (withBasin (fun b => { b with leases := [lease0 true] }) mm), lease0 true, (by decide +kernel), (by decide +kernel), rfl, (by decide +kernel), (by decide +kernel)⟩

-- Events of stacks, expanders, sealed storage, regions and the module's service.
def sealed0 : State := mm.setReg 0 (.sealpool 0) (2 ^ 63 + 2 * 2 ^ 24 + 5)
def cxl0 : CxlReq := { port := 0, line := 5, link := 0, since := 0, dev := false, ready := false, askers := [none], down := false }
theorem witness_StackAndSealEvents :
    (∃ s : State, (s.stack 7).retired.length < 8 ∧ 511 ∉ (s.stack 7).retired ∧ 511 ∉ (s.stack 7).queued ∧ (s.stack 7).remain = 0 ∧ (s.stack 7).queued = []) ∧
    (∃ s : State, (s.stack 0).queued = []) ∧
    (∃ s : State, ∃ q ∈ s.cxlReqs, q.port = 0 ∧ q.ready = false ∧ q.down = false ∧ q.since + 1000 * (s.reg (0 / 4) (.cxlctl (0 % 4)) % 1024) ≤ s.time) ∧
    (∃ s : State, (s.reg (15 / 4) (.cxlctl (15 % 4))).testBit 30 = true ∧ (s.reg (15 / 4) (.cxlctl (15 % 4))).testBit 28 = true) ∧
    (∀ d : Bool, ∃ (s : State) (q : CxlReq), s.cxlReqs.find? (fun r => r.port == 0 && !r.ready) = some q ∧ q.dev = d ∧
      (∀ r ∈ s.cxlReqs, r.port = 0 → r.down = false) ∧ (s.basin (0 / 4)).rdc.length < 262144 ∧ (s.reg (0 / 4) (.cxlctl (0 % 4))).testBit 30 = false) ∧
    (∃ s : State, (∃ r ∈ s.cxlReqs, r.port = 0 ∧ r.ready = false) ∧ ∀ r ∈ s.cxlReqs, r.port = 0 → r.ready = false → r.down = true) ∧
    (∃ s : State, s.firmware = true) ∧ (∃ s : State, s.firmware = false) ∧ (∃ s : State, s.repairsOf 7 511 = 64) ∧
    (∃ s : State, s.sealIsBusy 0 = false ∧ (s.reg (0 / 2) (.sealpool (0 % 2))).testBit 63 = true ∧ s.reg (0 / 2) (.sealpool (0 % 2)) % 2 ^ 24 ≤ 6 ∧
      6 < s.reg (0 / 2) (.sealpool (0 % 2)) % 2 ^ 24 + s.reg (0 / 2) (.sealpool (0 % 2)) / 2 ^ 24 % 2 ^ 24 ∧ (s.seal 0).frames.look 6 = none ∧
      (s.seal 0).nodeExhausted 6 = false) :=
  ⟨⟨mm, (by decide +kernel), (by decide +kernel), (by decide +kernel), (by decide +kernel), (by decide +kernel)⟩, ⟨mm, (by decide +kernel)⟩, ⟨lateOn { mm with cxlReqs := [cxl0] }, cxl0, (by decide +kernel), rfl, rfl, rfl, (by decide +kernel)⟩,
   ⟨mm.setReg (15 / 4) (.cxlctl (15 % 4)) (2 ^ 30 + 2 ^ 28), (by decide +kernel), (by decide +kernel)⟩, fun d => ⟨{ mm with cxlReqs := [{ cxl0 with dev := d }] }, { cxl0 with dev := d }, rfl, rfl, fun r h _ => by simp only [List.mem_singleton] at h; subst h; rfl, show (mm.basin 0).rdc.length < 262144 from (by decide +kernel), show (mm.reg (0 / 4) (.cxlctl (0 % 4))).testBit 30 = false from (by decide +kernel)⟩, ⟨{ mm with cxlReqs := [{ cxl0 with down := true }] }, ⟨_, .head _, rfl, rfl⟩, fun r h _ _ => by simp only [List.mem_singleton] at h; subst h; rfl⟩,
   ⟨{ mm with firmware := true }, rfl⟩, ⟨{ mm with firmware := false }, rfl⟩,
   ⟨mm.setStack 7 { mm.stack 7 with repairs := [(511, List.replicate 64 1)] }, (by decide +kernel)⟩, ⟨sealed0, (by decide +kernel), (by decide +kernel), (by decide +kernel), (by decide +kernel), (by decide +kernel), (by decide +kernel)⟩⟩
theorem witness_RegionAndServiceEvents :
    (∃ s : State, (s.reg 0 .rcbupd).testBit 63 = false ∧ (s.rcbWhy 0 (s.dirEntry 0)
      (s.rcbWords (s.dirEntry 0 / 2 ^ 8 % 2 ^ 44 * 256)) false).isSome = true) ∧
    (∃ s : State, (s.reg 0 .rcbupd).testBit 63 = false ∧ s.rcbWhy 0 (s.dirEntry 0)
      (s.rcbWords (s.dirEntry 0 / 2 ^ 8 % 2 ^ 44 * 256)) false = none) ∧
    (∃ s : State, (s.reg 0 .rcbupd).testBit 63 = false ∧ s.rcbWhy 0 (s.dirEntry 0)
      (s.rcbWords (s.dirEntry 0 / 2 ^ 8 % 2 ^ 44 * 256)) true = none) ∧
    (∃ (s : State) (p : RcbPending), s.rcbPend = some p) ∧ (∃ s : State, s.firmware = true) ∧
    (∃ s : State, ∀ b < 4, 50 ≤ s.reg b .lguard % 2 ^ 14) ∧ (∃ off : Nat, regSizeOk 0 off 8 = true) :=
  ⟨⟨mm, (by decide +kernel), (by decide +kernel)⟩, ⟨{ mm with groups := [] }, (by decide +kernel), (by decide +kernel)⟩, ⟨{ mm with groups := [], regions := [(0, { Region.fresh with dead := true })] }, (by decide +kernel), (by decide +kernel)⟩, ⟨{ mm with rcbPend := some { id := 5, words := [], remove := true } }, _, rfl⟩,
   ⟨{ mm with firmware := true }, rfl⟩, ⟨mm, (by decide +kernel)⟩, ⟨0x8020, (by decide +kernel)⟩⟩

-- Events of the debug unit and the dispatchers.
def sysBytes (off : Nat) (bs : List Byte) (s : State) : State := { s with mem := { s.mem with bytes := cellsWrite s.mem.bytes (fetchBase + off) bs } }
/-- Region 0 grants every right to region 7 by capability 0. -/
def granted : State :=
  let s : State := { sysBytes 0x3000 (natToBytes 8 (2 ^ 63 + 7 * 2 ^ 32 + 0xFF)) mm with
    regions := [(0, { Region.fresh with words := [(4, 16#64), (12, BitVec.ofNat 64 (2 ^ 56 + fetchBase + 0x3000))] })] }
  s
def dbg (arg : Nat) : Nat := 7 * 2 ^ 28 + arg
def haltedS : State := (granted.setReg 0 (.dbgname 3) 1).updRegion 0 fun r => { r with halt := some (none, 0) }
/-- The table of region 0 lies in CXL memory that no basin holds. -/
def farTable : State := { mm with regions := [(0, { Region.fresh with words := [(4, 16#64), (12, BitVec.ofNat 64 (2 ^ 56 + 0x100000000000))] })] }
theorem witness_DebugEvents :
    (∃ s t : State, s.tableWaits (dbgTarget (dbg 0)) [dbgCap (dbg 0)] = some t) ∧
    (∃ s : State, s.tableWaits (dbgTarget (dbg 0)) [dbgCap (dbg 0)] = none ∧ s.capability (dbgTarget (dbg 0)) (dbgCap (dbg 0)) = none) ∧
    (∃ s : State, s.tableWaits (dbgTarget (dbg 0)) [dbgCap (dbg 0)] = none ∧
      s.capability (dbgTarget (dbg 0)) (dbgCap (dbg 0)) = some (dbgHolder (dbg 0), 0xFF)) ∧
    (∃ s : State, (2 ^ 63 : Nat).testBit 63 = true ∧ s.tableWaits (2 ^ 63 / 2 ^ 40 % 2 ^ 20) [2 ^ 63 / 2 ^ 32 % 2 ^ 8] = none) ∧
    (∀ a ∈ [0, 95, 96, 97, 98], ∃ (s : State) (g : Group) (p : Thread), s.capability (dbgTarget (dbg a)) (dbgCap (dbg a)) = some (dbgHolder (dbg a), 0xFF) ∧
      s.haltedRegion (dbgTarget (dbg a)) = true ∧ s.dbgThread (dbgTarget (dbg a)) s.dbgName = some (32, 0) ∧ s.group? 32 = some g ∧
      s.tableWaits (dbgTarget (dbg a)) [dbgCap (dbg a)] = none ∧ dbgArg (dbg a) = a ∧ 95 < g.count ∧ (g.ownV 0 (dbgArg (dbg a))).bad = false ∧ g.thread? 0 = some p) ∧
    (∃ (s : State) (k : Region), s.region? 0 = some k ∧ k.halt = some (some 3, 0) ∧ s.tableWaits 0 [3] = none ∧ s.capability 0 3 = none) ∧
    (∃ (s : State) (g : Group) (l : Nat) (ls : List Nat) (p : Thread) (holder : Nat), (s.reg 0 .sampctl).testBit 31 = true ∧
      s.sampleOrder 0 = [(32, g)] ∧ s.tableWaits (s.regionOf g) (List.range (s.dcCount (s.regionOf g))) = none ∧ s.sampler (s.regionOf g) = some holder ∧ s.entry g = l :: ls ∧ g.thread? l = some p) := by
  refine ⟨⟨farTable, _, (there (by decide +kernel))⟩, ⟨mm, (by decide +kernel), (by decide +kernel)⟩, ⟨granted, (by decide +kernel), (by decide +kernel)⟩, ⟨mm, (by decide +kernel), (by decide +kernel)⟩, ?_,
    ⟨granted.updRegion 0 fun r => { r with halt := some (some 3, 0) }, _, (there (by decide +kernel)), (by decide +kernel), (by decide +kernel), (by decide +kernel)⟩,
    ⟨granted.setReg 0 .sampctl (2 ^ 31), grpOf mm, 0, [], _, 7, (by decide +kernel), (by decide +kernel), (by decide +kernel), (by decide +kernel), (by decide +kernel), (there (by decide +kernel))⟩⟩
  intro a ha
  have h : ∃ (g : Group) (p : Thread), haltedS.group? 32 = some g ∧ 95 < g.count ∧ g.thread? 0 = some p ∧ ∀ a ∈ [0, 95, 96, 97, 98], (g.ownV 0 (dbgArg (dbg a))).bad = false :=
    ⟨_, _, (there (by decide +kernel)), (by decide +kernel), (there (by decide +kernel)), (by decide +kernel)⟩
  obtain ⟨g, p, h1, h2, h3, h4⟩ := h
  have k : ∀ a ∈ [0, 95, 96, 97, 98], haltedS.capability (dbgTarget (dbg a)) (dbgCap (dbg a)) = some (dbgHolder (dbg a), 0xFF) ∧
      haltedS.haltedRegion (dbgTarget (dbg a)) = true ∧ haltedS.dbgThread (dbgTarget (dbg a)) haltedS.dbgName = some (32, 0) ∧ dbgArg (dbg a) = a ∧
      haltedS.tableWaits (dbgTarget (dbg a)) [dbgCap (dbg a)] = none := (by decide +kernel)
  exact ⟨haltedS, g, p, (k a ha).1, (k a ha).2.1, (k a ha).2.2.1, h1, (k a ha).2.2.2.2, (k a ha).2.2.2.1, h2, h4 a ha, h3⟩
def opened (s : State) : State := s.setReg 0 .rgndir (2 ^ 63)
def kernelBytes : List Byte :=
  natToBytes 24 (0x314B485A + 0x0100 * 2 ^ 32) ++ natToBytes 8 1 ++ natToBytes 224 (256 * 2 ^ 32) ++
  natToBytes 8 1 ++ natToBytes 48 ((1 + 2 ^ 32) * (1 + 2 ^ 64 + 2 ^ 128) + (2 ^ 32 - 1) * 2 ^ 224 + 2 ^ 32 * 2 ^ 256 + (1 + 2 ^ 16) * 2 ^ 320)
def queued (kind : Nat) : State :=
  let p := natToBytes 64 (kind * 2 ^ 56 + (0x1000000000100 * 2 ^ 64) + (1 + 2 ^ 32) * 2 ^ 256 + 1 * 2 ^ 320)
  let s : State := { crowded with mem := mm.mem, groups := [], wgs := [] }
  let s := s.updBasin 0 fun b => { b with mat := (mm.basin 0).mat, waits := [], tlb := [pageAt 0 fetchBase 2] }
  let s := sysBytes 0x20 (natToBytes 32 bte1.toNat) (sysBytes 0x100 kernelBytes (sysBytes 0x2000 p s))
  let s := (((s.setReg 0 (.matctl 0) 1).setReg 0 (.matctl 10) 1).setReg 0 (.matctl 12) 1).setReg 0 (.matctl 13) 1
  opened ((s.setReg 0 (.hqbase 0) (2 ^ 63 + fetchBase + 0x2000)).setReg 0 (.hqptr 0) 1)
theorem packetOk {r : Option (Except Nat Grid) × State} (h : (match r.1 with
    | some (.ok _) => true
    | _ => false) = true) : ∃ g t, r = (some (.ok g), t) := by
  obtain ⟨o, t⟩ := r
  match o, h with
  | some (.ok g), _ => exact ⟨g, t, rfl⟩
theorem packetNo {r : Option (Except Nat Grid) × State} (h : (match r.1 with
    | some (.error _) => true
    | _ => false) = true) : ∃ g t, r = (some (.error g), t) := by
  obtain ⟨o, t⟩ := r
  match o, h with
  | some (.error g), _ => exact ⟨g, t, rfl⟩
def grid0 : Grid :=
  { region := 0, packet := [], parent := none, ctx := none, hostq := none, groups := 1, regCount := 1, scratch := 0, spillSize := 0, entry := pc0, per := (1, 1, 1),
    nx := 1, ny := 1, nz := 1, streams := [], left := 1, basin := 0, aborted := false }
def placing : State :=
  let w : Waiting := { grid := 1, first := 0, size := 1, restore := none, basin := 0, core := none, since := 0, woken := [], task := false }
  opened ({ crowded with groups := [], wgs := [], grids := [(1, grid0)] }.updBasin 0 fun b => { b with waits := [w] })
def restoring : State := opened { crowded with groups := crowded.groups.drop 3, wgs := crowded.wgs.drop 1 }
def saved0 : Record := { home := 0, slot := 65538, gen := 0, code := 0#64, frame := 0#64, affinity := 0#64, join := 0#32, region := 0, deferred := false, isFault := false, runnable := true, saved := some 2, since := 0 }
def blocked (task : Bool) : State :=
  lateOn ((waitFor (.grace 0 3)).updWg 1 fun w => { w with task := task, groups := 0, segs := 0 })
def crossing (s : State) : State := s.updBasin 0 fun b => { b with waits := [{ grid := 1, first := 0, size := 1, restore := none, basin := 0, core := none, since := 0, woken := [], task := false }] }
theorem kernelOk {r : Option (Option (Header × List Bucket)) × State} (h : (match r.1 with
    | some (some _) => true
    | _ => false) = true) : ∃ g, r = (some (some g), r.2) := by
  obtain ⟨o, t⟩ := r
  match o, h with
  | some (some g), _ => exact ⟨g, rfl⟩
def tasking : State :=
  let s : State := ({ restoring with steppe := [saved0] } : State).setReg 0 .steppecfg (2 ^ 63)
  (s.updBasin 0 fun b => { b with waits := [] }).updWg 2 fun w => { w with task := true, saved := .task 0 0 0 }
def task0 : Record := { saved0 with slot := 3, code := 0x1000000000100#64, saved := none }
/-- A record whose kernel stands in memory. -/
def posted : State :=
  let s : State := { queued 1 with steppe := [task0] }
  (s.setReg 0 (.hqptr 0) 0).setReg 0 .steppecfg (2 ^ 63)
def waitOne : Waiting := { grid := 1, first := 0, size := 1, restore := some 2, basin := 0, core := some 0, since := 0, woken := [], task := false }
def waitTask (w : Option Nat) : Waiting := { grid := 0, first := 0, size := 1, restore := w, basin := 0, core := some 0, since := 0, woken := [], task := true }
def readsB (s : State) (w : Nat) : Bool :=
  match (s.wgs.look w).bind fun x => x.saved.record with
  | none => true
  | some (_, pa) => match (agentReadN pa (s.recordSize w)).outcome s with
    | (.error (.stall _), _) => false
    | _ => true
/-- A record whose memory makes nothing wait is restored or lost. -/
theorem restores {s : State} {w c : Nat} {f : Fit} (h : readsB s w = true) : ∃ t, s.restoreOrLose w c f = some t := by
  unfold State.restoreOrLose
  unfold readsB at h
  cases h1 : (s.wgs.look w).bind fun x => x.saved.record with
  | none => exact ⟨_, rfl⟩
  | some p =>
    obtain ⟨since, pa⟩ := p
    rw [h1] at h
    dsimp only at h ⊢
    generalize (agentReadN pa (s.recordSize w)).outcome s = o at h ⊢
    obtain ⟨r, t⟩ := o
    cases r with
    | ok v =>
      obtain ⟨bs, bad⟩ := v
      dsimp only
      split <;> exact ⟨_, rfl⟩
    | error e =>
      cases e
      case stall r => exact absurd (show false = true from h) Bool.false_ne_true
      all_goals exact ⟨_, rfl⟩
theorem restoresUnit {s : State} {e : Waiting} {w c : Nat} {f : Fit}
    (h : ((s.coresFor e).findSome? fun c => (s.fit c (s.needOf w) false).map (c, ·)) = some (c, f)) (h1 : readsB s w = true) :
    ∃ t, s.restoreUnit e w = some t := by
  obtain ⟨t, ht⟩ := restores (c := c) (f := f) h1
  unfold State.restoreUnit
  simp only [h, ht]
  exact ⟨_, rfl⟩
def pooled (s : State) : State := s.setReg 0 .ctxpool (2 ^ 63 + 100)
theorem witness_DispatchEvents :
    (∀ put ∈ [64, 65], ∃ s : State, put < 2 ^ 32 ∧ ((put + 2 ^ 32 - s.reg 0 (.hqptr 0) / 2 ^ 32) % 2 ^ 32 ≤ hostSlots (s.reg 0 (.hqbase 0)) ↔ put = 64)) ∧
    (∃ (p : List DWord) (g : Grid) (s m t : State), (s.reg 0 .rgndir).testBit 63 = true ∧ s.descriptors 0 < 1024 ∧
      s.nextSource 0 = some (.host 0) ∧ readPacket 0 (.host 0) false s = .ok p m ∧ m.checkPacket (some p) none 0 = (some (.ok g), t)) ∧
    (∃ (code : Nat) (p : List DWord) (s m t : State), (s.reg 0 .rgndir).testBit 63 = true ∧ s.descriptors 0 < 1024 ∧
      s.nextSource 0 = some (.host 0) ∧ readPacket 0 (.host 0) false s = .ok p m ∧ m.checkPacket (some p) none 0 = (some (.error code), t)) ∧
    (∃ (e : Waiting) (s t : State), s.waitOrder 0 = [e] ∧ e.restore = none ∧ e.task = false ∧ (s.reg 0 .rgndir).testBit 63 = true ∧ s.placeUnit e = some t) ∧
    (∃ (x : Workgroup) (e : Waiting) (s t : State), s.wgs.look 2 = some x ∧ s.waitOrder (basinOf x.core) = [e] ∧ e.restore = some 2 ∧
      e.task = false ∧ s.restoreUnit e 2 = some t) ∧
    (∃ (s t : State) (r : Record) (x : Workgroup) (f : Fit) (e : Waiting), (s.reg 0 .steppecfg).testBit 63 = true ∧ (s.reg 0 .rgndir).testBit 63 = true ∧
      s.bucketHead 0 = some r ∧ r.saved = some 2 ∧ s.wgs.look 2 = some x ∧ x.exited = false ∧ s.waitOrder (basinOf 0) = [e] ∧ e.task = true ∧
      e.core = some 0 ∧ s.fit 0 (s.needOf 2) false = some f ∧ ({ s with steppe := s.steppe.erase r } : State).restoreOrLose 2 0 f = some t) ∧
    (∃ (s m t : State) (r : Record) (hb : Header × List Bucket) (e : Waiting), (s.reg 0 .steppecfg).testBit 63 = true ∧
      (s.reg 0 .rgndir).testBit 63 = true ∧ s.bucketHead 0 = some r ∧ r.saved = none ∧ s.regionUsable r.region = true ∧
      s.kernel (r.who 0) r.code.toNat = (some (some hb), m) ∧ m.waitOrder (basinOf 0) = [e] ∧ e.task = true ∧ e.core = some 0 ∧
      m.startTask 0 = some t) ∧
    (∃ (x : Workgroup) (s t : State), s.wgs.look 1 = some x ∧ x.task = true ∧ x.saved = .resident ∧ x.exited = false ∧
      s.allBlocked 1 (s.quantum x.region) = true ∧ s.saveToPool 1 (fun pa => .task (s.time + s.quantum x.region) s.time pa) = some t) ∧
    (∃ (x : Workgroup) (s : State), s.wgs.look 2 = some x ∧ x.saved = .task 5 3 0 ∧ x.exited = false ∧ 5 ≤ s.time ∧ ∀ r ∈ s.steppe, r.saved ≠ some 2) ∧
    (∃ (x : Workgroup) (s : State), s.wgs.look 1 = some x ∧ x.task = false ∧ x.saved = .resident ∧ x.exited = false ∧
      x.resident + s.quantum x.region ≤ s.time) ∧
    (∃ (x : Workgroup) (s t : State), s.wgs.look 1 = some x ∧ x.task = false ∧ x.saved = .resident ∧ x.exited = false ∧ x.yieldable = true ∧
      s.wantsCore 1 = true ∧ s.poolSave 1 true = some t) ∧
    (∃ (x : Workgroup) (s t : State), s.wgs.look 1 = some x ∧ x.task = false ∧ x.saved = .resident ∧ x.exited = false ∧ s.allBlocked 1 0 = true ∧
      s.yieldFor x.region (basinOf x.core) = true ∧ s.poolSave 1 false = some t) := by
  refine ⟨?_, ?_, ?_, ⟨{ grid := 1, first := 0, size := 1, restore := none, basin := 0, core := none, since := 0, woken := [], task := false }, placing, _,
      (by decide +kernel), (by decide +kernel), (by decide +kernel), (by decide +kernel), (there (by decide +kernel))⟩, ?_,
    ?_, ?_,
    ⟨_, pooled (blocked true), _, (there (by decide +kernel)), (by decide +kernel), (by decide +kernel), (by decide +kernel), (by decide +kernel), (there (by decide +kernel))⟩,
    ⟨_, lateOn (restoring.updWg 2 fun w => { w with task := true, saved := .task 5 3 0 }), (there (by decide +kernel)), (by decide +kernel), (by decide +kernel), (by decide +kernel), (by decide +kernel)⟩,
    ⟨_, lateOn mm, (there (by decide +kernel)), (by decide +kernel), (by decide +kernel), (by decide +kernel), (by decide +kernel)⟩,
    ⟨_, ((mm.updWg 1 fun w => { w with yieldable := true }).updCore 0 fun k => { k with mxe := { k.mxe with holder := some 1, waiters := [2] } }).setReg 0 .ctxpool (2 ^ 63), _,
      (there (by decide +kernel)), (by decide +kernel), (by decide +kernel), (by decide +kernel), (by decide +kernel), (by decide +kernel), (there (by decide +kernel))⟩,
    ⟨_, pooled (crossing { blocked false with grids := [(1, grid0)] }), _, (there (by decide +kernel)), (by decide +kernel), (by decide +kernel), (by decide +kernel), (by decide +kernel), (by decide +kernel), (there (by decide +kernel))⟩⟩
  · intro put h
    exact ⟨mm, (show ∀ put ∈ [64, 65], put < 2 ^ 32 ∧ ((put + 2 ^ 32 - mm.reg 0 (.hqptr 0) / 2 ^ 32) % 2 ^ 32 ≤ hostSlots (mm.reg 0 (.hqbase 0)) ↔ put = 64) by decide +kernel) put h⟩
  · obtain ⟨g, t, h⟩ := packetOk (r := (stOf (readPacket 0 (.host 0) false (queued 1))).checkPacket (some (valOf (readPacket 0 (.host 0) false (queued 1)) (by decide +kernel))) none 0) (by decide +kernel)
    exact ⟨_, g, queued 1, _, t, (by decide +kernel), (by decide +kernel), (by decide +kernel), (okay (by decide +kernel)), h⟩
  · obtain ⟨g, t, h⟩ := packetNo (r := (stOf (readPacket 0 (.host 0) false (queued 0))).checkPacket (some (valOf (readPacket 0 (.host 0) false (queued 0)) (by decide +kernel))) none 0) (by decide +kernel)
    exact ⟨g, _, queued 0, _, t, (by decide +kernel), (by decide +kernel), (by decide +kernel), (okay (by decide +kernel)), h⟩
  · obtain ⟨t, h⟩ := restoresUnit (s := restoring) (e := waitOne) (w := 2) (there (by decide +kernel)) (by decide +kernel)
    exact ⟨_, waitOne, restoring, t, (there (by decide +kernel)), (by decide +kernel), (by decide +kernel), (by decide +kernel), h⟩
  · obtain ⟨t, h⟩ := restores (s := { tasking with steppe := [] }) (w := 2) (c := 0) (f := (tasking.fit 0 (tasking.needOf 2) false).get (by decide +kernel)) (by decide +kernel)
    exact ⟨tasking, t, saved0, _, _, waitTask (some 2), (by decide +kernel), (by decide +kernel), (by decide +kernel), (by decide +kernel), (there (by decide +kernel)), (by decide +kernel), (by decide +kernel), (by decide +kernel), (by decide +kernel), (there (by decide +kernel)), h⟩
  · obtain ⟨hb, h⟩ := kernelOk (r := posted.kernel (task0.who 0) task0.code.toNat) (by decide +kernel)
    exact ⟨posted, (posted.kernel (task0.who 0) task0.code.toNat).2, _, task0, hb, waitTask none, (by decide +kernel), (by decide +kernel), (by decide +kernel), (by decide +kernel), (by decide +kernel), h, (by decide +kernel), (by decide +kernel), (by decide +kernel), (there (by decide +kernel))⟩
theorem witness_TurnEvents :
    (∃ (p : Pipe) (s : State), (s.core (0 / 128)).pipes.look (0 % 128) = some p ∧ 64 ≤ p.count ∧ ∀ q ∈ s.onPipe 0, q.2.window = none) ∧
    (∃ (g : Group) (s : State), (32, g) ∈ s.onPipe g.pipeKey ∧ s.group? 32 = some g ∧ s.readyGroup g = true ∧ g.lastIssue + 65536 ≤ s.time ∧
      (∀ q ∈ s.onPipe g.pipeKey, q.2.window = none ∧ s.keepsTurn g.pipeKey q = false) ∧
      ∀ q ∈ s.onPipe g.pipeKey, q.1 ≠ 32 → s.readyGroup q.2 = true → g.lastIssue < q.2.lastIssue) ∧
    (∃ (g : Group) (p : Thread) (f : FebWait) (s : State), s.group? 32 = some g ∧ g.threads = [(0, p)] ∧ p.exited = false ∧ p.feb = some f ∧
      s.resident g = true ∧ s.lineEmpty { wg := f.wg, addr := f.addr } = true ∧ f.since + s.febTimeout (s.regionOf g) < s.clockOf (s.regionOf g)) ∧
    (∃ (g : Group) (p : Thread) (w : Wait) (s : State), s.group? 32 = some g ∧ g.threads = [(0, p)] ∧ p.exited = false ∧ p.wait = some w ∧ g.trap = none ∧
      s.resident g = true ∧ s.waitMet g w = false ∧ w.since + s.waitTimeout (s.regionOf g) < s.clockOf (s.regionOf g) + w.elapsed) ∧
    (∃ (x : Workgroup) (s : State), s.wgs.look 1 = some x ∧ s.ranks = []) := by
  exact ⟨⟨_, mm.updCore 0 fun k => { k with pipes := [(0, { group := some 32, count := 64, last := 0, busy := 0 })] }, (there (by decide +kernel)), (by decide +kernel), (by decide +kernel)⟩,
    ⟨((lateOn mm).group? 32).get (by decide +kernel), lateOn mm, (by decide +kernel), (there (by decide +kernel)), (by decide +kernel), (by decide +kernel), (by decide +kernel), (by decide +kernel)⟩,
    ⟨_, _, _, lateOn (withThread (fun t => { t with feb := some { since := 0, wg := 1, addr := 16, hold := false, lines := [(1, 16)] } }) (mm.updWg 1 fun w => { w with empty := [0, 1, 4, 16] })),
      (there (by decide +kernel)), rfl, (by decide +kernel), (there (by decide +kernel)), (by decide +kernel), (by decide +kernel), (by decide +kernel)⟩,
    ⟨_, _, _, lateOn (blocked false), (there (by decide +kernel)), rfl, (by decide +kernel), (there (by decide +kernel)), (by decide +kernel), (by decide +kernel), (by decide +kernel), (by decide +kernel)⟩, ⟨_, mm, (there (by decide +kernel)), (by decide +kernel)⟩⟩

-- Events of the engines.
def mxq (k : MxKind) : MxCmd := { freshMx (issOf mm) k 0 with num := 1 }
def mxs (q : MxCmd) : State := mm.updMxe 0 fun e => { e with holder := some 1, queue := [q] }
def loading : Stream := { num := 1, desc := [0x1000000000008#64, 8#64, 4#64, 0#64], moved := 0, region := 0, ue := false, park := none, again := false }
def streaming : State := withGroup (fun g => { g with queues := [(2, { Queue.empty with stream := some loading })] }) mm
def slice0 (a : Word) : Slice := { gix := 0, desc := [a, 0#32, 0#32, 0#32, 0#32, 0#32, 0#32, 0#32], notify := 0#32, start := none }
def copy0 (a : Word) (o : Option (Nat × Nat × Nat)) : CopyCmd :=
  { num := 4, index := 1, done := 0, ue := false, refused := 0, kind := 0, members := [0], slices := [slice0 a], reserved := false, region := 0, scope := 1,
    started := false, park := none, outcome := o }
def copying (a : Word) (o : Option (Nat × Nat × Nat)) : State := mm.updWg 1 fun w => { w with copies := [copy0 a o] }
def nmu0 (r : Option (Nat × Nat × Nat × Nat)) : NmuCmd := { num := 3, words := List.replicate 8 0#32, status := none, region := 0, group := 32, park := none, done := 0, result := r }
def nmuS (r : Option (Nat × Nat × Nat × Nat)) : State := mm.updWg 1 fun w => { w with nmus := [nmu0 r] }
def bell0 : Doorbell := { wg := 1, num := 1, region := 0, core := 0, handle := 0#64, size := 4, value := 5#64, target := some (0, 0xFFF0000000000), park := none }
theorem witness_EngineEvents :
    (∃ s : State, (s.core 0).mxe.holder = none ∧ (s.core 0).mxe.waiters = [1]) ∧
    (∃ (q : MxCmd) (s : State), (s.core 0).mxe.queue = [q] ∧ q.kind = .aclr ∧ q.status = none ∧ q.park = none ∧ s.shareLeft (basinOf 0) q.region 2 = true ∧
      q.started = false ∧ (s.hasMxs 0 = true → (s.freeUnit 0).isSome = true)) ∧
    (∃ (q : MxCmd) (s : State), (s.core 0).mxe.queue = [q] ∧ q.kind = .wswap ∧ q.status = none ∧ q.park = none ∧ q.started = false ∧
      s.shareLeft (basinOf 0) q.region 2 = true) ∧
    (∃ (q : MxCmd) (s t : State), (s.core 0).mxe.queue = [q] ∧ q.status = none ∧ q.park = none ∧ s.shareLeft (basinOf 0) q.region 2 = true ∧
      q.started = true ∧ q.struck = false ∧ q.kind = .wload ∧ (q.unit.isSome = true ∨ s.hasMxs 0 = false) ∧
      (((s.mxStaged 0 q).core 0).mxe.queue.map (·.struck)).headD false = false ∧ wholeUnit (mxUnit 0 q q.done) (s.mxStaged 0 q) = .ok () t) ∧
    (∃ (q : MxCmd) (s : State), (s.core 0).mxe.queue = [q] ∧ q.status = some 2) ∧
    (∃ (g : Group) (k : Queue) (t : Stream) (w : QWord) (s m : State), s.group? 32 = some g ∧ g.queues.look 2 = some k ∧ k.stream = some t ∧
      t.park = none ∧ k.dir = false ∧ s.stagingBad 32 2 g k = false ∧ k.words.length < k.cap ∧ s.shareLeft (basinOf g.core) t.region 2 = true ∧
      t.moved + 1 < streamTotal t.desc ∧ streamRead g t t.moved s.answersKept = .ok w m ∧ m.group? 32 = some g) := by
  exact ⟨⟨mm.updMxe 0 fun e => { e with waiters := [1] }, (by decide +kernel), (by decide +kernel)⟩, ⟨mxq .aclr, mxs (mxq .aclr), rfl, rfl, rfl, rfl, (by decide +kernel), rfl, (by decide +kernel)⟩,
    ⟨mxq .wswap, mxs (mxq .wswap), rfl, rfl, rfl, rfl, rfl, (by decide +kernel)⟩,
    ⟨{ mxq .wload with started := true, base := 0x1000000000400#64 }, mxs { mxq .wload with started := true, base := 0x1000000000400#64 }, _, rfl, rfl, rfl, (by decide +kernel), rfl, rfl, rfl, .inr (by decide +kernel), (by decide +kernel), (okay (by decide +kernel))⟩,
    ⟨{ mxq .mma with status := some 2 }, mxs { mxq .mma with status := some 2 }, rfl, rfl⟩,
    ⟨_, { Queue.empty with stream := some loading }, loading, _, streaming, _, (there (by decide +kernel)), (by decide +kernel), rfl, rfl, rfl, (by decide +kernel), (by decide +kernel), (by decide +kernel), (by decide +kernel), (okay (by decide +kernel)), (by decide +kernel)⟩⟩
theorem witness_CommandEvents :
    (∃ (g : Group) (s : State), s.group? 32 = some g ∧ g.engqSince = some 0 ∧ g.stall = some .engq ∧ 0 + s.quantum (s.regionOf g) ≤ s.time) ∧
    (∀ p ∈ [(0#32, false), (1#32, true)], ∃ (x : Workgroup) (q : CopyCmd) (s : State), s.wgs.look 1 = some x ∧ x.copies.find? (fun q => q.num == 4) = some q ∧
      q.started = false ∧ s.copyReady x q = true ∧ s.copyBad 1 { q with slices := if q.kind = 0 then sortSlices q.slices else q.slices } = p.2) ∧
    (∀ st ∈ [0, 2], ∃ (x : Workgroup) (q : CopyCmd) (l : Slice) (s t : State), s.wgs.look 1 = some x ∧ x.copies.find? (fun q => q.num == 4) = some q ∧
      q.outcome = some (st, 0, 0) ∧ q.slices = [l] ∧ q.park = none ∧ q.kind ≠ 1 ∧
      wholeUnit (noteAction x.core 1 q l.nkind l.nsp (l.note (2 ≤ q.kind)) l.notify) s = .ok () t) ∧
    (∃ (d : Doorbell) (s : State) (forwards : Bool), s.bells = [d] ∧ d.target = some (0, 0xFFF0000000000) ∧ s.portUp 0 = true ∧
      s.forwards 0 0xFFF0000000000 = forwards) ∧
    (∀ up : Bool, ∃ (d : Doorbell) (s : State), s.bells = [d] ∧ d.target = some (0, 0xFFF0000000000) ∧ s.portUp 0 = up) ∧
    (∃ (x : Workgroup) (q : NmuCmd) (s t : State) (r : Nat × Nat × Nat × Nat), s.wgs.look 1 = some x ∧ x.nmus = [q] ∧ q.result = none ∧ q.park = none ∧
      s.shareLeft (basinOf x.core) q.region 3 = true ∧ nmuRun x.core 1 q s = .ok r t) ∧
    (∃ (x : Workgroup) (q : NmuCmd) (s : State), s.wgs.look 1 = some x ∧ x.nmus = [q] ∧ q.result = some (0, 0, 0, 0) ∧ q.park = none ∧ q.status = none) := by
  refine ⟨⟨_, lateOn (withGroup (fun g => { g with engqSince := some 0, stall := some .engq }) mm), (there (by decide +kernel)), (by decide +kernel), (by decide +kernel), (by decide +kernel)⟩, ?_, ?_, ⟨bell0, ({ mm with bells := [bell0] } : State).setReg 0 (.rpctl 0) (2 ^ 31 + 2 ^ 30), _, rfl, rfl, (by decide +kernel), rfl⟩, ?_,
    ⟨_, nmu0 none, nmuS none, _, _, (there (by decide +kernel)), (by decide +kernel), rfl, rfl, (by decide +kernel), (okay (by decide +kernel))⟩, ⟨_, nmu0 (some (0, 0, 0, 0)), nmuS (some (0, 0, 0, 0)), (there (by decide +kernel)), (by decide +kernel), rfl, rfl, rfl⟩⟩
  · intro p hp
    simp only [List.mem_cons, List.not_mem_nil, or_false] at hp
    rcases hp with rfl | rfl
    · exact ⟨_, copy0 0#32 none, copying 0#32 none, (there (by decide +kernel)), (by decide +kernel), rfl, (by decide +kernel), (by decide +kernel)⟩
    · exact ⟨_, copy0 1#32 none, copying 1#32 none, (there (by decide +kernel)), (by decide +kernel), rfl, (by decide +kernel), (by decide +kernel)⟩
  · intro p hp
    simp only [List.mem_cons, List.not_mem_nil, or_false] at hp
    rcases hp with rfl | rfl
    · exact ⟨_, copy0 0#32 (some (0, 0, 0)), slice0 0#32, copying 0#32 (some (0, 0, 0)), _, (there (by decide +kernel)), (by decide +kernel), rfl, rfl, rfl, (by decide +kernel), (okay (by decide +kernel))⟩
    · exact ⟨_, copy0 0#32 (some (2, 0, 0)), slice0 0#32, copying 0#32 (some (2, 0, 0)), _, (there (by decide +kernel)), (by decide +kernel), rfl, rfl, rfl, (by decide +kernel), (okay (by decide +kernel))⟩
  · intro up
    cases up
    · exact ⟨bell0, { mm with bells := [bell0] }, rfl, rfl, (by decide +kernel)⟩
    · exact ⟨bell0, ({ mm with bells := [bell0] } : State).setReg 0 (.rpctl 0) (2 ^ 31 + 2 ^ 30), rfl, rfl, (by decide +kernel)⟩

-- Events of root ports, endpoints and peers, and of collectives.
def faultB {α : Type} (r : EStateM.Result AErr State α) : Bool :=
  match r with
  | .error (.fault _ _ _ _ _ _) _ => true
  | _ => false
theorem faults {α : Type} {r : EStateM.Result AErr State α} (h : faultB r = true) :
    ∃ sub root va i cls k m, r = .error (.fault sub root va i cls k) m := by
  cases r with
  | ok a t => cases h
  | error e t => cases e <;> first | exact ⟨_, _, _, _, _, _, _, rfl⟩ | cases h
def outer : State :=
  withBasin (fun b => { b with tlb := [pageAt 0 fetchBase 2, pageAt 1 0 2, pageAt 2 4096 4] })
    ((sysBytes 0x20 (natToBytes 32 bte1.toNat ++ List.replicate 32 0 ++ natToBytes 32 (bte1.toNat + 0xF00)) mm).setReg 0 (.pasidnone 0) (2 ^ 63 + 2 ^ 62 + 2 ^ 61))
def iatEntry (held : Bool) : Nat := 2 ^ 127 + 2 ^ 108 + if held then 2 ^ 126 + 0xFF * 2 ^ 216 else (2 ^ 48 + 0x1000) * 2 ^ 192
def tabled (i : Nat) (held : Bool) : State :=
  (sysBytes (0x200000 + 32 * i) (natToBytes 32 (iatEntry held)) outer).setReg 0 .iatbase (2 ^ 63 + fetchBase + 0x200000)
def iatWho : Who := { region := 0, master := endpointMaster 0 0 noPasid, basin := 0, core := none, sup := true }
def bar0 (op : Nat) : BarReq := { id := 4, port := 0, dev := true, peer := none, master := 0, used := false, group := 32, lane := 0, pa := 0, size := 4, op := op, value := 0, cmp := 0, since := 0, core := 0, lanes := [0], result := none }
def peerWho : Who := { region := 0, master := 4 * 2 ^ 44, basin := 0, core := none, sup := true }
def peerVia : Via := { engineVia 0 0 (2 ^ 42) with peer := some 0 }
/-- 64 page requests of an endpoint without an answer. -/
def pagesFull : State := withBasin (fun b => { b with pfq := [{ pf0 with pages := List.replicate 64 (0, 0) }] }) outer
theorem quiet {s : State} {p rid : Nat} (h : s.later ++ s.agenda = []) : ∀ e ∈ s.later ++ s.agenda,
    ∀ pasid k h z v, e = .endpointRequest p rid pasid k h z v → pasid < 2 ^ 20 ∨ k % 8 ≠ 1 := by
  rw [h]; nofun
theorem witness_PortEvents :
    (∀ i ∈ [0, 65535], (∀ e ∈ (tabled i true).later ++ (tabled i true).agenda, ∀ pasid k h z v, e = .endpointRequest 0 0 pasid k h z v → pasid < 2 ^ 20 ∨ k % 8 ≠ 1) ∧
      (tabled i true).matAdmits 0 13 (endpointMaster 0 0 noPasid) (0xFFFFF00000000 + (4 * i) % 2 ^ 32) 2 = true ∧
      ((tabled i true).reg 0 .iatbase).testBit 63 = true ∧ (tabled i true).paNat ((tabled i true).iatBase + 32 * i) 32 = iatEntry true ∧
      iatBad (iatEntry true) 0 = false ∧ (iatEntry true).testBit 126 = true ∧
      ((tabled i true).heldTry { entry := i, launch := 0, wix := 0, addr := 0, count := 1, region := 0 }).isSome = true) ∧
    (∃ (l : Loc) (m t : State) (r : Nat), (tabled 0 false).matAdmits 0 13 (endpointMaster 0 0 noPasid) 0xFFFFF00000000 2 = true ∧
      ((tabled 0 false).reg 0 .iatbase).testBit 63 = true ∧ (tabled 0 false).paNat (tabled 0 false).iatBase 32 = iatEntry false ∧
      iatBad (iatEntry false) 0 = false ∧ (iatEntry false).testBit 126 = false ∧
      iatReach iatWho (iatEntry false / 2 ^ 192 % 2 ^ 64) (tabled 0 false) = .ok l m ∧ barArrive l 1 m = .ok (some r) t) ∧
    (∀ kind ∈ [0, 1, 2, 3, 4], ∃ (e d : Nat) (x : Xlat) (s m0 m t : State), outsideOk kind (2 ^ 48 + 0x1000) 8 = true ∧ s.pasidEntry 0 noPasid = some e ∧
      e % 2 ^ 20 = 0 ∧ (s.region? 0).isSome = true ∧ handlePieces (endpointWho 0 0 noPasid 0) (2 ^ 48 + 0x1000) 8 (outsideKind kind) s.answersKept = .ok [(0, 8)] m0 ∧
      translate (endpointWho 0 0 noPasid 0) (2 ^ 48 + 0x1000) 8 (outsideKind kind) m0 = .ok x m ∧
      outsideAccess (endpointWho 0 0 noPasid 0) (endpointVia 0 0 noPasid 0) x kind 8 1 m = .ok d t) ∧
    (∀ kind ∈ [0, 1], ∃ (e n k d c : Nat) (x y : Xlat) (s m0 m m1 m2 t : State), outsideOk kind (3 * 2 ^ 48 + 0xFC) 8 = true ∧
      s.pasidEntry 0 noPasid = some e ∧ e % 2 ^ 20 = 0 ∧ (s.region? 0).isSome = true ∧
      handlePieces (endpointWho 0 0 noPasid 0) (3 * 2 ^ 48 + 0xFC) 8 (outsideKind kind) s.answersKept = .ok [(0, n), (n, k)] m0 ∧
      translate (endpointWho 0 0 noPasid 0) (3 * 2 ^ 48 + 0xFC) n (outsideKind kind) m0 = .ok x m ∧
      translate (endpointWho 0 0 noPasid 0) (3 * 2 ^ 48 + 0xFC + n) k (outsideKind kind) m = .ok y m1 ∧
      outsideAccess (endpointWho 0 0 noPasid 0) (endpointVia 0 0 noPasid 0) x kind n 1 m1 = .ok d m2 ∧
      outsideAccess (endpointWho 0 0 noPasid 0) (endpointVia 0 0 noPasid 0) y kind k (1 / 2 ^ (8 * n)) m2 = .ok c t) ∧
    (∃ s : State, outsideOk (4 % 8) 0 8 = true ∧ s.pasidEntry 15 noPasid = none) ∧
    (∃ (e d : Nat) (s t : State), s.pasidEntry 0 noPasid = some e ∧ e.testBit 62 = true ∧ e % 2 ^ 20 = 0 ∧
      atsAnswer (endpointWho 0 0 noPasid 0) (2 ^ 48 + 0x1000) s = .ok d t) ∧
    (∃ (e : Nat) (s : State), s.pasidEntry 0 noPasid = some e ∧ e.testBit 61 = true ∧ e % 2 ^ 20 = 0 ∧ (s.region? 0).isSome = true ∧
      s.pagesOut 0 0 < 64 ∧
      (∃ x t va u, translate (endpointWho 0 0 noPasid 0) (2 ^ 48 + 0x1000) 1 .store s = .ok x t ∧ pageVa (endpointWho 0 0 noPasid 0) (2 ^ 48 + 0x1000) t = .ok va u) ∧
      ∃ sub root va i cls k m, translate (endpointWho 0 0 noPasid 0) (2 ^ 48 + 0x2000) 1 .store s = .error (.fault sub root va i cls k) m) ∧
    (∃ (e : Nat) (s : State), s.pasidEntry 0 noPasid = some e ∧ e.testBit 61 = true ∧ e % 2 ^ 20 = 0 ∧ (s.region? 0).isSome = true ∧ 64 ≤ s.pagesOut 0 0) ∧
    (∃ (q : AtsWait) (s : State), q ∈ s.atsWaits ∧ q.port = 0 ∧ q.rid = 0 ∧ q.since + 1000000 ≤ s.time) ∧
    (∀ op ∈ [0, storeOp], ∃ (q : BarReq) (s : State), s.barReqs.find? (fun q => q.id == 4 && q.result.isNone) = some q ∧ q.op = op ∧
      q.since + s.portTimeout q.port ≤ s.time) ∧
    (∃ s : State, (s.reg (15 / 4) (.rpctl (15 % 4))).testBit 31 = true ∧ (s.reg (15 / 4) (.rpctl (15 % 4))).testBit 29 = false) ∧
    (∀ kind ∈ [0, 1, 2, 3, 4], ∃ (d : Nat) (s m1 m2 t : State), matCheck peerWho 0 (outsideKind kind) s.answersKept = .ok () m1 ∧ unsealed 0 m1 = .ok () m2 ∧
      m1.lapsedFor (homeOf (keyOf 0)) 4 0 0 = false ∧ outsideOk kind 0 8 = true ∧ outsideAccess peerWho peerVia
        { pa := 0, h := 0, dev := !isMain 0, check := false, g := false, enc := false, badKey := false, por := false } kind 8 1 m2 = .ok d t) ∧
    (∀ kind ∈ [5, 6], ∃ (granted : Bool) (bs : List Byte) (s m1 m2 m3 t : State), matCheck peerWho 0 (if kind = 5 then .load else .store) s.answersKept = .ok () m1 ∧
      unsealed 0 m1 = .ok () m2 ∧ m1.lapsedFor (homeOf (keyOf 0)) 4 0 0 = false ∧ isMain 0 = true ∧
      peerLease 0 (lineOf (keyOf 0)) (kind == 6) m2 = .ok granted m3 ∧ (agentReadN 0 128 peerVia.except) m3 = .ok (bs, false) t) := by
  refine ⟨?_, ⟨_, _, _, _, (by decide +kernel), (by decide +kernel), (by decide +kernel), (by decide +kernel), (by decide +kernel), (okay (by decide +kernel)), okaySome (by decide +kernel)⟩, ?_, ?_, ⟨mm, (by decide +kernel), (by decide +kernel)⟩, ⟨_, _, outer, _, (there (by decide +kernel)), (by decide +kernel), (by decide +kernel), (okay (by decide +kernel))⟩,
    ⟨_, outer, (there (by decide +kernel)), (by decide +kernel), (by decide +kernel), (by decide +kernel), (by decide +kernel), ⟨_, _, _, _, (okay (by decide +kernel)), (okay (by decide +kernel))⟩, faults (by decide +kernel)⟩, ⟨_, pagesFull, (there (by decide +kernel)), (by decide +kernel), (by decide +kernel), (by decide +kernel), (by decide +kernel)⟩, ⟨{ root := 0, group := 32, port := 0, rid := 0, since := 0 }, lateOn { mm with atsWaits := [{ root := 0, group := 32, port := 0, rid := 0, since := 0 }] }, (by decide +kernel), rfl, rfl, (by decide +kernel)⟩,
    ?_, ⟨mm.setReg (15 / 4) (.rpctl (15 % 4)) (2 ^ 31), (by decide +kernel), (by decide +kernel)⟩, ?_, ?_⟩
  · intro i h
    simp only [List.mem_cons, List.not_mem_nil, or_false] at h
    rcases h with rfl | rfl
    · exact ⟨quiet (by decide +kernel), (by decide +kernel), (by decide +kernel), (by decide +kernel), (by decide +kernel), (by decide +kernel), (by decide +kernel)⟩
    · exact ⟨quiet (by decide +kernel), (by decide +kernel), (by decide +kernel), (by decide +kernel), (by decide +kernel), (by decide +kernel), (by decide +kernel)⟩
  · intro kind h
    simp only [List.mem_cons, List.not_mem_nil, or_false] at h
    rcases h with rfl | rfl | rfl | rfl | rfl
    · exact ⟨_, _, _, outer, _, _, _, (by decide +kernel), (there (by decide +kernel)), (by decide +kernel), (by decide +kernel), (okay (by decide +kernel)), (okay (by decide +kernel)), (okay (by decide +kernel))⟩
    · exact ⟨_, _, _, outer, _, _, _, (by decide +kernel), (there (by decide +kernel)), (by decide +kernel), (by decide +kernel), (okay (by decide +kernel)), (okay (by decide +kernel)), (okay (by decide +kernel))⟩
    · exact ⟨_, _, _, outer, _, _, _, (by decide +kernel), (there (by decide +kernel)), (by decide +kernel), (by decide +kernel), (okay (by decide +kernel)), (okay (by decide +kernel)), (okay (by decide +kernel))⟩
    · exact ⟨_, _, _, outer, _, _, _, (by decide +kernel), (there (by decide +kernel)), (by decide +kernel), (by decide +kernel), (okay (by decide +kernel)), (okay (by decide +kernel)), (okay (by decide +kernel))⟩
    · exact ⟨_, _, _, outer, _, _, _, (by decide +kernel), (there (by decide +kernel)), (by decide +kernel), (by decide +kernel), (okay (by decide +kernel)), (okay (by decide +kernel)), (okay (by decide +kernel))⟩
  · intro kind h
    simp only [List.mem_cons, List.not_mem_nil, or_false] at h
    rcases h with rfl | rfl
    · exact ⟨_, 4, 4, _, _, _, _, outer, _, _, _, _, _, (by decide +kernel), (there (by decide +kernel)), (by decide +kernel), (by decide +kernel), okayIs (by decide +kernel), (okay (by decide +kernel)), (okay (by decide +kernel)), (okay (by decide +kernel)), (okay (by decide +kernel))⟩
    · exact ⟨_, 4, 4, _, _, _, _, outer, _, _, _, _, _, (by decide +kernel), (there (by decide +kernel)), (by decide +kernel), (by decide +kernel), okayIs (by decide +kernel), (okay (by decide +kernel)), (okay (by decide +kernel)), (okay (by decide +kernel)), (okay (by decide +kernel))⟩
  · intro op h
    simp only [List.mem_cons, List.not_mem_nil, or_false] at h
    rcases h with rfl | rfl
    · exact ⟨bar0 0, lateOn { mm with barReqs := [bar0 0] }, (by decide +kernel), rfl, (by decide +kernel)⟩
    · exact ⟨bar0 storeOp, lateOn { mm with barReqs := [bar0 storeOp] }, (by decide +kernel), rfl, (by decide +kernel)⟩
  · intro kind h
    simp only [List.mem_cons, List.not_mem_nil, or_false] at h
    rcases h with rfl | rfl | rfl | rfl | rfl
    · exact ⟨_, outer, _, _, _, (okay (by decide +kernel)), (okay (by decide +kernel)), (by decide +kernel), (by decide +kernel), (okay (by decide +kernel))⟩
    · exact ⟨_, outer, _, _, _, (okay (by decide +kernel)), (okay (by decide +kernel)), (by decide +kernel), (by decide +kernel), (okay (by decide +kernel))⟩
    · exact ⟨_, outer, _, _, _, (okay (by decide +kernel)), (okay (by decide +kernel)), (by decide +kernel), (by decide +kernel), (okay (by decide +kernel))⟩
    · exact ⟨_, outer, _, _, _, (okay (by decide +kernel)), (okay (by decide +kernel)), (by decide +kernel), (by decide +kernel), (okay (by decide +kernel))⟩
    · exact ⟨_, outer, _, _, _, (okay (by decide +kernel)), (okay (by decide +kernel)), (by decide +kernel), (by decide +kernel), (okay (by decide +kernel))⟩
  · intro kind h
    simp only [List.mem_cons, List.not_mem_nil, or_false] at h
    rcases h with rfl | rfl
    · exact ⟨_, _, outer, _, _, _, _, (okay (by decide +kernel)), (okay (by decide +kernel)), (by decide +kernel), (by decide +kernel), (okay (by decide +kernel)), bytesOk (by decide +kernel) (by decide +kernel)⟩
    · exact ⟨_, _, outer, _, _, _, _, (okay (by decide +kernel)), (okay (by decide +kernel)), (by decide +kernel), (by decide +kernel), (okay (by decide +kernel)), bytesOk (by decide +kernel) (by decide +kernel)⟩
/-- Communicator 5 of two ranks; a barrier step of rank 0. -/
def comm5 : Comm := { tstep := 1000, table := [(0, 0), (0, 0)], reform := none }
def coll0 : Coll := { k := 0, wg := 1, num := 3, desc := [0x40000000#32], region := 0, group := 32, start := none, issue := 0, got := [], sent := [] }
def ranked (i : Nat) : CommRank := { rank0 with rank := i, colls := [coll0] }
def inComm (rs : List CommRank) : State := lateOn { mm with comms := [(5, comm5)], ranks := rs }
def step0 : StepMsg := { epoch := 1, k := 0, word0 := 0x40000000, count := 0, fail := 0, data := [] }
/-- The descriptor of communicator 5 at FFFFE_0004_0000. -/
def described (s : State) : State :=
  sysBytes 0x40000 (natToBytes 8 (2 ^ 44 + 10 * 2 ^ 12) ++ natToBytes 8 (fetchBase + 0x41000) ++ natToBytes 4 5) s
def desc5 : CommDesc := { id := 5, tstep := 10000, table := [(0, 0, false), (0, 0, false)] }
theorem witness_CollectiveEvents :
    (∀ rs ∈ [[ranked 0], [ranked 0, ranked 1]], ∃ (q : CommRank) (c : Coll) (d : List Nat) (t : State), (inComm rs).rank? 5 0 = some q ∧
      (inComm rs).collOf q = some c ∧ 1 ∉ c.sent ∧ collBlock c 1 (inComm rs) = .ok d t) ∧
    ((inComm [ranked 0]).rank? 5 1 = none ∧ ∃ (r : CommRank) (e : Coll), (inComm [ranked 0, ranked 1]).rank? 5 1 = some r ∧ r.state = 0 ∧
      (inComm [ranked 0, ranked 1]).collOf r = some e ∧ e.k = 0) ∧
    (∃ (r : CommRank) (c : Coll), (inComm [ranked 1]).rank? 5 0 = none ∧ (inComm [ranked 1]).rank? 5 1 = some r ∧
      (inComm [ranked 1]).collOf r = some c ∧ step0.epoch = r.epoch ∧ step0.k = c.k ∧ (inComm [ranked 1]).commEpoch 5 ≤ step0.epoch) ∧
    (∃ (m : StepMsg) (s : State), (∃ r ∈ s.ranks, r.comm = 5) ∧ m.epoch < s.commEpoch 5) ∧
    (∃ (r : CommRank) (c : Coll) (s : State), s.rank? 5 0 = some r ∧ s.collOf r = some c ∧ 1 < s.commSize 5 ∧ c.got.look 1 = none ∧
      c.due + s.tstep 5 ≤ s.time) ∧
    ((described mm).commBusy = false ∧ (described mm).commDesc (fetchBase + 0x40000) = some desc5 ∧ (described mm).namesLocal desc5 = true ∧
      (∀ e ∈ desc5.table, e.2.2 = false) ∧ (described mm).comms.look desc5.id = none) ∧
    (∃ (k : Comm) (s : State), s.commBusy = false ∧ s.commDesc (fetchBase + 0x40000) = some desc5 ∧ s.namesLocal desc5 = true ∧ s.comms.look desc5.id = some k ∧
      k.table = desc5.table.map (fun e => (e.1, e.2.1)) ∧ 2 ≤ (desc5.table.filter fun e => !e.2.2).length ∧
      ∃ e ∈ desc5.table.filter fun e => !e.2.2, e.1 = s.moduleId.toNat) ∧
    (∃ (k : Comm) (s : State), s.comms.look 5 = some k ∧ k.reform = some s.time) ∧
    (∃ (r : CommRank) (s : State), s.rank? 5 0 = some r ∧ r.epoch < 2) := by
  refine ⟨?_, ⟨(by decide +kernel), _, _, (there (by decide +kernel)), (by decide +kernel), (there (by decide +kernel)), (by decide +kernel)⟩, ⟨_, _, (by decide +kernel), (there (by decide +kernel)), (there (by decide +kernel)), (by decide +kernel), (by decide +kernel), (by decide +kernel)⟩,
    ⟨{ step0 with epoch := 0 }, inComm [ranked 1], (by decide +kernel), (by decide +kernel)⟩, ⟨_, _, inComm [ranked 0], (there (by decide +kernel)), (there (by decide +kernel)), (by decide +kernel), (by decide +kernel), (by decide +kernel)⟩, ⟨(by decide +kernel), (by decide +kernel), (by decide +kernel), (by decide +kernel), (by decide +kernel)⟩,
    ⟨comm5, described (inComm [ranked 0, ranked 1]), (by decide +kernel), (by decide +kernel), (by decide +kernel), (by decide +kernel), rfl, (by decide +kernel), (by decide +kernel)⟩,
    ⟨{ comm5 with reform := some (lateOn mm).time }, lateOn { mm with comms := [(5, { comm5 with reform := some (lateOn mm).time })] }, (by decide +kernel), (by decide +kernel)⟩,
    ⟨_, inComm [ranked 0], (there (by decide +kernel)), (by decide +kernel)⟩⟩
  intro rs h
  simp only [List.mem_cons, List.not_mem_nil, or_false] at h
  rcases h with rfl | rfl
  · exact ⟨_, _, _, _, (there (by decide +kernel)), (there (by decide +kernel)), (by decide +kernel), (okay (by decide +kernel))⟩
  · exact ⟨_, _, _, _, (there (by decide +kernel)), (there (by decide +kernel)), (by decide +kernel), (okay (by decide +kernel))⟩

-- Words written out from the rows of the opcode table (match, and each field in its place), one for each encoded constructor.
theorem test_decode_integer_0 :
    decodeWord 0x02d88010#32 = .ok (.iadd 1#2 88#7 64#7 4#7) ∧
    decodeWord 0x02c0e1d1#32 = .ok (.isub 1#2 64#7 112#7 116#7) ∧
    decodeWord 0x0284d1d2#32 = .ok (.iadds 1#2 4#7 104#7 116#7) ∧
    decodeWord 0x02884853#32 = .ok (.isubs 1#2 8#7 36#7 20#7) ∧
    decodeWord 0x04b481b0#32 = .ok (.imul 1#2 52#7 64#7 108#7) ∧
    decodeWord 0x0510d891#32 = .ok (.imulhI32 2#2 16#7 108#7 36#7) ∧
    decodeWord 0x0514b072#32 = .ok (.imulhN32 2#2 20#7 88#7 28#7) ∧
    decodeWord 0x04901103#32 = .ok (.imad 1#2 16#7 8#7 64#7) ∧
    decodeWord 0x07100891#32 = .ok (.idiv 2#2 16#7 4#7 36#7 1#1) ∧
    decodeWord 0x07102893#32 = .ok (.irem 2#2 16#7 20#7 36#7 1#1) ∧
    decodeWord 0x083947ad#32 = .ok (.imin 0#2 57#7 35#7 107#7 1#1) ∧
    decodeWord 0x085248f3#32 = .ok (.imax 0#2 82#7 36#7 60#7 1#1) :=
  ⟨rfl, rfl, rfl, rfl, rfl, rfl, rfl, rfl, rfl, rfl, rfl, rfl⟩
theorem test_decode_integer_1 :
    decodeWord 0x0b10e9a0#32 = .ok (.andR 2#2 16#7 116#7 104#7) ∧
    decodeWord 0x0aa4e451#32 = .ok (.orR 1#2 36#7 114#7 20#7) ∧
    decodeWord 0x0ad4750a#32 = .ok (.xorR 1#2 84#7 58#7 66#7) ∧
    decodeWord 0x0ac0e1ab#32 = .ok (.andn 1#2 64#7 112#7 106#7) ∧
    decodeWord 0x0c8411a0#32 = .ok (.shl 1#2 4#7 8#7 104#7) ∧
    decodeWord 0x0cd4d561#32 = .ok (.shr 1#2 84#7 106#7 88#7) ∧
    decodeWord 0x0d142162#32 = .ok (.sar 2#2 20#7 16#7 88#7) ∧
    decodeWord 0x0d14e1a3#32 = .ok (.rotl 2#2 20#7 112#7 104#7) ∧
    decodeWord 0x0f148000#32 = .ok (.popc 2#2 20#7 64#7) ∧
    decodeWord 0x0ec02001#32 = .ok (.clz 1#2 64#7 16#7) ∧
    decodeWord 0x0f207002#32 = .ok (.ctz 2#2 32#7 56#7) ∧
    decodeWord 0x0ed23c03#32 = .ok (.brev 1#2 82#7 30#7) :=
  ⟨rfl, rfl, rfl, rfl, rfl, rfl, rfl, rfl, rfl, rfl, rfl, rfl⟩
theorem test_decode_integer_2 :
    decodeWord 0x11000851#32 = .ok (.bfx 2#2 0#7 4#7 20#7 1#1) ∧
    decodeWord 0x100875be#32 = .ok (.bfi 0#2 8#7 58#7 111#7) ∧
    decodeWord 0x105ec273#32 = .ok (.bytsel 0#2 94#7 97#7 28#7) ∧
    decodeWord 0x12d45ca2#32 = .ok (.icmp 1#2 5#3 4#4 46#7 40#7 2#2) ∧
    decodeWord 0x150881a1#32 = .ok (.sel 2#2 8#7 64#7 104#7 1#2) ∧
    decodeWord 0x1788e000#32 = .ok (.iabs 3#2 8#7 112#7) ∧
    decodeWord 0x17405801#32 = .ok (.ineg 2#2 64#7 44#7) ∧
    decodeWord 0x16d69c02#32 = .ok (.mov 1#2 86#7 78#7) ∧
    decodeWord 0x16d0c803#32 = .ok (.notR 1#2 80#7 100#7) ∧
    decodeWord 0x191009c1#32 = .ok (.dp4 2#2 16#7 4#7 112#7 1#1) ∧
    decodeWord 0x1910d823#32 = .ok (.dp2 2#2 16#7 108#7 8#7 1#1) ∧
    decodeWord 0x1ac229b8#32 = .ok (.lea 66#7 20#7 110#7) :=
  ⟨rfl, rfl, rfl, rfl, rfl, rfl, rfl, rfl, rfl, rfl, rfl, rfl⟩
theorem test_decode_integer_3 :
    decodeWord 0x1ad809a3#32 = .ok (.leas 88#7 4#7 104#7 3#2) ∧
    decodeWord 0x1c3933c1#32 = .ok (.iaddi 57#7 25#7 449#9) ∧
    decodeWord 0x1e53af90#32 = .ok (.andi 83#7 87#7 400#9) ∧
    decodeWord 0x1eaf4b90#32 = .ok (.ori 47#7 37#7 400#9) ∧
    decodeWord 0x1f04e923#32 = .ok (.xori 4#7 116#7 291#9) :=
  ⟨rfl, rfl, rfl, rfl, rfl⟩
theorem test_decode_immediate_0 :
    decodeWord 0x200da5e4#32 = .ok (.shli 13#7 82#7 484#9) ∧
    decodeWord 0x20ddc244#32 = .ok (.shri 93#7 97#7 68#9) ∧
    decodeWord 0x2110d5ba#32 = .ok (.sari 16#7 106#7 442#9) ∧
    decodeWord 0x219cf347#32 = .ok (.rotli 28#7 121#7 327#9) ∧
    decodeWord 0x2224002a#32 = .ok (.movi 36#7 42#9) ∧
    decodeWord 0x2467868f#32 = .ok (.imuli 103#7 67#7 143#9) ∧
    decodeWord 0x276ae886#32 = .ok (.icmpi 2#2 6#3 10#4 116#7 134#9) ∧
    decodeWord 0x28df5c1b#32 = .ok (.imini 1#1 95#7 46#7 27#9) ∧
    decodeWord 0x29884950#32 = .ok (.imaxi 1#1 8#7 36#7 336#9) ∧
    decodeWord 0x39678041#32 = .ok (.lxch 2#2 103#7 64#7 16#7 1#2) ∧
    decodeWord 0x3ae8e400#32 = .ok (.ballot 1#2 104#7 114#7) ∧
    decodeWord 0x3a9da401#32 = .ok (.lanesAll 1#2 29#7 82#7) :=
  ⟨rfl, rfl, rfl, rfl, rfl, rfl, rfl, rfl, rfl, rfl, rfl, rfl⟩
theorem test_decode_immediate_1 :
    decodeWord 0x3ad5c602#32 = .ok (.lanesAny 1#2 85#7 99#7) ∧
    decodeWord 0x3ad9e403#32 = .ok (.peers 1#2 89#7 114#7) ∧
    decodeWord 0x3c167200#32 = .ok (.rank 22#7 57#7) ∧
    decodeWord 0x3c045c01#32 = .ok (.mpopc 4#7 46#7) ∧
    decodeWord 0x3e10d401#32 = .ok (.lfold 0#2 16#7 106#7 0#7 1#1) :=
  ⟨rfl, rfl, rfl, rfl, rfl⟩
theorem test_decode_float_0 :
    decodeWord 0x40a4e0c0#32 = .ok (.fadd 1#2 36#7 112#7 48#7) ∧
    decodeWord 0x40942021#32 = .ok (.fsub 1#2 20#7 16#7 8#7) ∧
    decodeWord 0x409481aa#32 = .ok (.fmul 1#2 20#7 64#7 106#7) ∧
    decodeWord 0x40823c2b#32 = .ok (.fmac 1#2 2#7 30#7 10#7) ∧
    decodeWord 0x430480b0#32 = .ok (.fmin 2#2 4#7 64#7 44#7) ∧
    decodeWord 0x4294e021#32 = .ok (.fmax 1#2 20#7 112#7 8#7) ∧
    decodeWord 0x431029a2#32 = .ok (.fminm 2#2 16#7 20#7 104#7) ∧
    decodeWord 0x42c008ab#32 = .ok (.fcpysgn 1#2 64#7 4#7 42#7) ∧
    decodeWord 0x44b999a2#32 = .ok (.fcmp 1#2 3#3 9#4 76#7 104#7 2#2) ∧
    decodeWord 0x470411c0#32 = .ok (.fdiv 2#2 4#7 8#7 112#7) ∧
    decodeWord 0x4790b001#32 = .ok (.fsqrt 3#2 16#7 88#7) ∧
    decodeWord 0x4724fe02#32 = .ok (.frcp 2#2 36#7 127#7) :=
  ⟨rfl, rfl, rfl, rfl, rfl, rfl, rfl, rfl, rfl, rfl, rfl, rfl⟩
theorem test_decode_float_1 :
    decodeWord 0x46c06c03#32 = .ok (.frsq 1#2 64#7 54#7) ∧
    decodeWord 0x48be1000#32 = .ok (.fexp2 1#2 62#7 8#7) ∧
    decodeWord 0x48d82801#32 = .ok (.flog2 1#2 88#7 20#7) ∧
    decodeWord 0x4890d802#32 = .ok (.fsin 1#2 16#7 108#7) ∧
    decodeWord 0x48a4f403#32 = .ok (.fcos 1#2 36#7 122#7) ∧
    decodeWord 0x4a8a9c00#32 = .ok (.ftanh 1#2 10#7 78#7) ∧
    decodeWord 0x4b402001#32 = .ok (.fsigm 2#2 64#7 16#7) ∧
    decodeWord 0x4b08d002#32 = .ok (.ferf 2#2 8#7 104#7) ∧
    decodeWord 0x4b041003#32 = .ok (.fclass 2#2 4#7 8#7) ∧
    decodeWord 0x4c9481b0#32 = .ok (.hadd2 1#2 20#7 64#7 108#7) ∧
    decodeWord 0x4c888d01#32 = .ok (.hsub2 1#2 8#7 70#7 64#7) ∧
    decodeWord 0x4cd6e1d2#32 = .ok (.hmul2 1#2 86#7 112#7 116#7) :=
  ⟨rfl, rfl, rfl, rfl, rfl, rfl, rfl, rfl, rfl, rfl, rfl, rfl⟩
theorem test_decode_float_2 :
    decodeWord 0x4c90e5ab#32 = .ok (.hmac2 1#2 16#7 114#7 106#7) ∧
    decodeWord 0x4f10b1a0#32 = .ok (.badd2 2#2 16#7 88#7 104#7) ∧
    decodeWord 0x4f1481b1#32 = .ok (.bsub2 2#2 20#7 64#7 108#7) ∧
    decodeWord 0x4f14e022#32 = .ok (.bmul2 2#2 20#7 112#7 8#7) ∧
    decodeWord 0x4f08d903#32 = .ok (.bmac2 2#2 8#7 108#7 64#7) ∧
    decodeWord 0x5098ca18#32 = .ok (.hmin2 1#2 24#7 101#7 6#7) ∧
    decodeWord 0x50a4d4c9#32 = .ok (.hmax2 1#2 36#7 106#7 50#7) ∧
    decodeWord 0x50942062#32 = .ok (.bmin2 1#2 20#7 16#7 24#7) ∧
    decodeWord 0x5058d9a3#32 = .ok (.bmax2 0#2 88#7 108#7 104#7) ∧
    decodeWord 0x53c0d000#32 = .ok (.frnd 3#2 64#7 104#7) ∧
    decodeWord 0x5284e801#32 = .ok (.frndNx 1#2 4#7 116#7) ∧
    decodeWord 0x6008b5a0#32 = .ok (.cvtIntToFloat 8#7 90#7 3#2 1#2) :=
  ⟨rfl, rfl, rfl, rfl, rfl, rfl, rfl, rfl, rfl, rfl, rfl, rfl⟩
theorem test_decode_float_3 :
    decodeWord 0x6024d9c1#32 = .ok (.cvtFloatToInt 36#7 108#7 3#2 2#2) ∧
    decodeWord 0x6246b6e0#32 = .ok (.cvtFloat 70#7 91#7 3#3 4#3) ∧
    decodeWord 0x643f2702#32 = .ok (.pack8 63#7 19#7 4#3 2#2) ∧
    decodeWord 0x660aa883#32 = .ok (.unpack8 10#7 84#7 2#3 3#2) ∧
    decodeWord 0x6814b040#32 = .ok (.pack4 0#2 20#7 88#7 1#3) ∧
    decodeWord 0x6a486080#32 = .ok (.unpack4 0#2 72#7 48#7 2#3) ∧
    decodeWord 0x6d10d900#32 = .ok (.scaleb 2#2 16#7 108#7 64#7) ∧
    decodeWord 0x6c0c3dc9#32 = .ok (.xval 12#7 30#7 114#7) :=
  ⟨rfl, rfl, rfl, rfl, rfl, rfl, rfl, rfl⟩
theorem test_decode_uniform_0 :
    decodeWord 0x700f2ac8#32 = .ok (.sadd 15#6 10#6 1#1 200#9) ∧
    decodeWord 0x70708325#32 = .ok (.ssub 48#6 32#6 1#1 293#9) ∧
    decodeWord 0x70a4afea#32 = .ok (.smul 36#6 43#6 1#1 490#9) ∧
    decodeWord 0x70cd8b16#32 = .ok (.smin 13#6 34#6 1#1 278#9) ∧
    decodeWord 0x71188e1a#32 = .ok (.smax 24#6 35#6 1#1 26#9) ∧
    decodeWord 0x7158c268#32 = .ok (.sminn 24#6 48#6 1#1 104#9) ∧
    decodeWord 0x7198c319#32 = .ok (.smaxn 24#6 48#6 1#1 281#9) ∧
    decodeWord 0x7215e72a#32 = .ok (.sand 21#6 57#6 1#1 298#9) ∧
    decodeWord 0x724bde3c#32 = .ok (.sor 11#6 55#6 1#1 60#9) ∧
    decodeWord 0x72ba6a9a#32 = .ok (.sxor 58#6 26#6 1#1 154#9) ∧
    decodeWord 0x72d736c4#32 = .ok (.sshl 23#6 13#6 1#1 196#9) ∧
    decodeWord 0x733c42c9#32 = .ok (.sshr 60#6 16#6 1#1 201#9) :=
  ⟨rfl, rfl, rfl, rfl, rfl, rfl, rfl, rfl, rfl, rfl, rfl, rfl⟩
theorem test_decode_uniform_1 :
    decodeWord 0x73631237#32 = .ok (.ssar 35#6 4#6 1#1 55#9) ∧
    decodeWord 0x73aa9306#32 = .ok (.srotl 42#6 36#6 1#1 262#9) ∧
    decodeWord 0x74380006#32 = .ok (.smov 56#6 6#6) ∧
    decodeWord 0x744d0384#32 = .ok (.smovi 13#6 388#9) ∧
    decodeWord 0x74b0d317#32 = .ok (.scmp 48#6 52#6 1#1 279#9) ∧
    decodeWord 0x74ecb80b#32 = .ok (.ssel 44#6 46#6 11#6) ∧
    decodeWord 0x76180a40#32 = .ok (.vrd 24#6 2#6 64#7) ∧
    decodeWord 0x76429247#32 = .ok (.vwr 2#6 36#6 71#7) ∧
    decodeWord 0x78b06365#32 = .ok (.slea 2#2 48#6 24#6 1#1 357#9) :=
  ⟨rfl, rfl, rfl, rfl, rfl, rfl, rfl, rfl, rfl⟩
theorem test_decode_memory_0 :
    decodeWord 0x81aa3666#32 = .ok (.ld 3#2 42#7 13#6 1#1 102#9) ∧
    decodeWord 0x82ec19d7#32 = .ok (.st 1#2 108#7 6#6 0#1 471#9) ∧
    decodeWord 0x854081c7#32 = .ok (.lds 2#2 64#7 32#6 0#1 455#9) ∧
    decodeWord 0x8704426a#32 = .ok (.sts 2#2 4#7 16#6 1#1 106#9) ∧
    decodeWord 0x8968dc3f#32 = .ok (.ldu 2#2 104#7 55#6 63#9) ∧
    decodeWord 0x88eae243#32 = .ok (.stu 1#2 106#7 56#6 67#9) ∧
    decodeWord 0x8a08d8f1#32 = .ok (.ldx 8#7 54#6 241#9) ∧
    decodeWord 0x8a79be80#32 = .ok (.stx 121#7 47#6 128#9) ∧
    decodeWord 0x8cda9d9b#32 = .ok (.ldacq 1#2 90#7 39#6 3#2 0#1 27#6) ∧
    decodeWord 0x8d4013ac#32 = .ok (.strel 2#2 64#7 4#6 3#2 0#1 44#6) ∧
    decodeWord 0x8e001000#32 = .ok (.pref 4#6) ∧
    decodeWord 0x8e2e40e0#32 = .ok (.wbr 46#7 16#6 3#2) :=
  ⟨rfl, rfl, rfl, rfl, rfl, rfl, rfl, rfl, rfl, rfl, rfl, rfl⟩
theorem test_decode_memory_1 :
    decodeWord 0x8e01e560#32 = .ok (.invr 1#7 57#6 3#2) ∧
    decodeWord 0x8e4041a0#32 = .ok (.invd 64#7 16#6 1#2) ∧
    decodeWord 0x90007588#32 = .ok (.setf 29#6 3#2 8#7) ∧
    decodeWord 0x90004a65#32 = .ok (.clrf 18#6 101#7) ∧
    decodeWord 0x92133800#32 = .ok (.ownseg 19#7 14#6) ∧
    decodeWord 0x922cb600#32 = .ok (.dropseg 44#7 45#6) :=
  ⟨rfl, rfl, rfl, rfl, rfl, rfl⟩
theorem test_decode_atomic_0 :
    decodeWord 0xa0884c28#32 = .ok (.aadd 1#2 8#7 19#6 0#1 0#1 1#2 2#3) ∧
    decodeWord 0xa27279c4#32 = .ok (.amin 0#2 114#7 30#6 1#1 1#1 2#2 1#3) ∧
    decodeWord 0xa26cb0e1#32 = .ok (.amax 0#2 108#7 44#6 0#1 1#1 3#2 0#3) ∧
    decodeWord 0xa46841a4#32 = .ok (.aand 0#2 104#7 16#6 1#1 1#1 1#2 1#3) ∧
    decodeWord 0xa484204d#32 = .ok (.aor 1#2 4#7 8#6 0#1 0#1 2#2 3#3) ∧
    decodeWord 0xa4081c42#32 = .ok (.axor 0#2 8#7 7#6 0#1 0#1 2#2 0#3) ∧
    decodeWord 0xa45811c3#32 = .ok (.axchg 0#2 88#7 4#6 1#1 1#1 2#2 0#3) ∧
    decodeWord 0xa6e8816c#32 = .ok (.acas 1#2 104#7 32#6 1#1 0#1 3#2 3#3) ∧
    decodeWord 0xa822d510#32 = .ok (.red 0#2 34#7 53#6 1#1 0#1 4#3 0#2) :=
  ⟨rfl, rfl, rfl, rfl, rfl, rfl, rfl, rfl, rfl⟩
theorem test_decode_flow_0 :
    decodeWord 0xb0f51f6b#32 = .ok (.bra 7#4 1#1 335723#20) ∧
    decodeWord 0xb2801800#32 = .ok (.brx 12#7) ∧
    decodeWord 0xb400fe00#32 = .ok (.call) ∧
    decodeWord 0xb4808001#32 = .ok (.callx 64#7) ∧
    decodeWord 0xb4000002#32 = .ok (.ret) ∧
    decodeWord 0xb6010000#32 = .ok (.join 4#7) ∧
    decodeWord 0xb6210000#32 = .ok (.leave 4#7) ∧
    decodeWord 0xb6418000#32 = .ok (.waitm 6#7) ∧
    decodeWord 0xb8023900#32 = .ok (.mset 8#7 114#7) ∧
    decodeWord 0xb822438b#32 = .ok (.mand 9#7 7#7 11#7) ∧
    decodeWord 0xb842c089#32 = .ok (.mor 11#7 1#7 9#7) ∧
    decodeWord 0xb860c385#32 = .ok (.mxor 3#7 7#7 5#7) :=
  ⟨rfl, rfl, rfl, rfl, rfl, rfl, rfl, rfl, rfl, rfl, rfl, rfl⟩
theorem test_decode_flow_1 :
    decodeWord 0xb8814100#32 = .ok (.mnot 5#7 2#7) ∧
    decodeWord 0xb8a0c480#32 = .ok (.mmov 3#7 9#7) ∧
    decodeWord 0xba000089#32 = .ok (.prio 137#8) ∧
    decodeWord 0xbc000000#32 = .ok (.nop) ∧
    decodeWord 0xbc010000#32 = .ok (.exitI) ∧
    decodeWord 0xbc02c43c#32 = .ok (.trap 50236#16) ∧
    decodeWord 0xbc03ba9f#32 = .ok (.bkpt 47775#16) :=
  ⟨rfl, rfl, rfl, rfl, rfl, rfl, rfl⟩
theorem test_decode_sync_0 :
    decodeWord 0xc0000060#32 = .ok (.fence 3#2) ∧
    decodeWord 0xc06a7cc0#32 = .ok (.xpub 106#7 31#6 2#2) ∧
    decodeWord 0xc2232870#32 = .ok (.barinit 35#7 10#6 1#1 3#2) ∧
    decodeWord 0xc21080e0#32 = .ok (.bararr 16#7 32#6 1#1 2#2) ∧
    decodeWord 0xc2744170#32 = .ok (.barwait 116#7 16#6 1#1 3#2) ∧
    decodeWord 0xc26a61e0#32 = .ok (.barkill 106#7 24#6 1#1 2#2) ∧
    decodeWord 0xc46a6130#32 = .ok (.waitaddr 0#2 106#7 24#6 4#3 1#1 2#2) ∧
    decodeWord 0xc6023804#32 = .ok (.tlwait 8#7 112#7 4#7) ∧
    decodeWord 0xc6210068#32 = .ok (.tlread 4#7 104#7) ∧
    decodeWord 0xc8000000#32 = .ok (.rsect) ∧
    decodeWord 0xc8200000#32 = .ok (.rsecx) ∧
    decodeWord 0xc8400000#32 = .ok (.qpass) :=
  ⟨rfl, rfl, rfl, rfl, rfl, rfl, rfl, rfl, rfl, rfl, rfl, rfl⟩
theorem test_decode_sync_1 :
    decodeWord 0xc8760040#32 = .ok (.gpwait 88#7 64#7) ∧
    decodeWord 0xca000d00#32 = .ok (.timeat 26#7) ∧
    decodeWord 0xca200022#32 = .ok (.timerd 34#7) :=
  ⟨rfl, rfl, rfl⟩
theorem test_decode_matrix_0 :
    decodeWord 0xd01b366c#32 = .ok (.wload 0#1 108#7 108#7 108#7) ∧
    decodeWord 0xd200002c#32 = .ok (.wswap 44#7) ∧
    decodeWord 0xd4733a70#32 = .ok (.mma 3#3 76#7 116#7 112#7) ∧
    decodeWord 0xd64db56c#32 = .ok (.mmax 2#3 54#7 106#7 108#7) ∧
    decodeWord 0xd8000004#32 = .ok (.aclr 4#7) ∧
    decodeWord 0xd83a8068#32 = .ok (.aclrRows 106#7 104#7) ∧
    decodeWord 0xda022000#32 = .ok (.ard 8#7 64#7) ∧
    decodeWord 0xda241200#32 = .ok (.awr 16#7 36#7) ∧
    decodeWord 0xdc363524#32 = .ok (.ast 1#3 88#7 106#7 36#7) ∧
    decodeWord 0xde1b0000#32 = .ok (.mxcfg 108#7) ∧
    decodeWord 0xde200068#32 = .ok (.mxstat 0#7 104#7) ∧
    decodeWord 0xde400040#32 = .ok (.mxres 64#7) :=
  ⟨rfl, rfl, rfl, rfl, rfl, rfl, rfl, rfl, rfl, rfl, rfl, rfl⟩
theorem test_decode_engine_0 :
    decodeWord 0xe000b402#32 = .ok (.strm 2#7 104#7 2#7) ∧
    decodeWord 0xe0200074#32 = .ok (.strq 0#7 116#7) ∧
    decodeWord 0xe040c000#32 = .ok (.strqEnd 3#7) ∧
    decodeWord 0xe21c3c7f#32 = .ok (.cpy 112#7 120#7 127#7) ∧
    decodeWord 0xe23c343e#32 = .ok (.cpym 112#7 104#7 62#7) ∧
    decodeWord 0xe25c3402#32 = .ok (.cpst 112#7 104#7 2#7) ∧
    decodeWord 0xe41a38f2#32 = .ok (.gath 104#7 113#7 114#7) ∧
    decodeWord 0xe43c3a00#32 = .ok (.scat 112#7 116#7 0#7) ∧
    decodeWord 0xe61ab470#32 = .ok (.dbw 106#7 104#7 112#7) ∧
    decodeWord 0xe63db940#32 = .ok (.dbwX2 118#7 114#7 64#7) ∧
    decodeWord 0xe81c3470#32 = .ok (.nmc 112#7 104#7 112#7) ∧
    decodeWord 0xea1a3910#32 = .ok (.launch 104#7 114#7 16#7) :=
  ⟨rfl, rfl, rfl, rfl, rfl, rfl, rfl, rfl, rfl, rfl, rfl, rfl⟩
theorem test_decode_engine_1 :
    decodeWord 0xea3c3568#32 = .ok (.tpost 112#7 106#7 104#7) ∧
    decodeWord 0xea5cb404#32 = .ok (.tjoin 114#7 104#7 4#7) ∧
    decodeWord 0xea7c3610#32 = .ok (.defer 112#7 108#7 16#7) ∧
    decodeWord 0xec1c0002#32 = .ok (.coll 112#7 2#7) ∧
    decodeWord 0xec3b0006#32 = .ok (.cabort 108#7 6#7) ∧
    decodeWord 0xec5c8070#32 = .ok (.cstat 114#7 112#7) :=
  ⟨rfl, rfl, rfl, rfl, rfl, rfl⟩
theorem test_decode_system_0 :
    decodeWord 0xf0080010#32 = .ok (.csrr 8#6 16#12) ∧
    decodeWord 0xf0480010#32 = .ok (.csrw 8#6 16#12) ∧
    decodeWord 0xf0840040#32 = .ok (.csrs 4#6 64#12) ∧
    decodeWord 0xf0c80040#32 = .ok (.csrc 8#6 64#12) ∧
    decodeWord 0xf20c2000#32 = .ok (.role 12#6 8#6) ∧
    decodeWord 0xf24a00d9#32 = .ok (.pstat 10#6 217#9) ∧
    decodeWord 0xf40050e5#32 = .ok (.sysc 20709#16) ∧
    decodeWord 0xf4400000#32 = .ok (.eret) ∧
    decodeWord 0xf4800000#32 = .ok (.halt) ∧
    decodeWord 0xf604e000#32 = .ok (.btinv 4#6 3#2 1#1) ∧
    decodeWord 0xf648002c#32 = .ok (.tfence 8#6 0#2 0#1 44#6) ∧
    decodeWord 0xf8040000#32 = .ok (.ctxsv 4#6) :=
  ⟨rfl, rfl, rfl, rfl, rfl, rfl, rfl, rfl, rfl, rfl, rfl, rfl⟩
theorem test_decode_system_1 :
    decodeWord 0xf8440000#32 = .ok (.ctxld 4#6) ∧
    decodeWord 0xfe7bfb0c#32 = .ok (.xw 8125196#23) ∧
    decodeWord 0xfe800006#32 = .ok (.xh 6#3) ∧
    decodeWord 0xff1b3f93#32 = .ok (.xm 1#3 1#1 0#1 1#1 1#1 0#1 7#4 1#1 114#7 3#3) :=
  ⟨rfl, rfl, rfl, rfl⟩

-- Well-formedness: for each check one ill-formed term, refused with the reason R230 and R231 give.
def refused (l : List (Instr × Nat)) : Prop := ∀ p ∈ l, p.1.wellFormed = false ∧ p.1.illegal = some p.2
theorem test_wellFormed_widths :
    refused [(.imulhI32 1#2 2#7 4#7 6#7, 5), (.imulhN32 3#2 0#7 0#7 0#7, 5), (.bfi 1#2 2#7 4#7 6#7, 5), (.bytsel 1#2 2#7 4#7 6#7, 5), (.bfx 1#2 2#7 4#7 6#7 0#1, 5),
      (.dp4 1#2 2#7 4#7 6#7 0#1, 5), (.dp2 1#2 2#7 4#7 6#7 0#1, 5), (.icmp 2#2 0#3 1#4 8#7 8#7 0#2, 5), (.fcmp 2#2 0#3 1#4 8#7 8#7 0#2, 5), (.ballot 2#2 104#7 8#7, 5),
      (.lanesAll 2#2 104#7 8#7, 5), (.lanesAny 2#2 104#7 8#7, 5), (.peers 2#2 8#7 8#7, 5), (.lfold 2#2 104#7 8#7 0#7 0#1, 5),
      (.pack4 1#2 8#7 8#7 0#3, 5), (.unpack4 1#2 8#7 8#7 0#3, 5), (.aadd 0#2 9#7 3#6 0#1 1#1 2#2 2#3, 5), (.red 1#2 8#7 3#6 1#1 1#1 0#3 1#2, 5)] := by
  unfold refused; decide +kernel
theorem test_wellFormed_fields :
    refused [(.icmp 0#2 0#3 12#4 0#7 0#7 0#2, 3), (.fcmp 0#2 0#3 15#4 0#7 0#7 0#2, 3), (.icmpi 0#2 0#3 12#4 0#7 0#9, 3), (.leas 2#7 4#7 6#7 0#2, 3),
      (.lfold 0#2 104#7 5#7 8#7 0#1, 3), (.lfold 0#2 104#7 5#7 2#7 1#1, 3), (.cvtFloat 2#7 4#7 6#3 0#3, 3), (.cvtFloat 2#7 4#7 0#3 7#3, 3), (.cvtFloat 2#7 4#7 2#3 2#3, 3),
      (.pack8 2#7 4#7 5#3 0#2, 3), (.unpack8 2#7 4#7 5#3 0#2, 3), (.vrd 1#6 2#6 96#7, 3), (.vwr 1#6 2#6 96#7, 3), (.st 1#2 4#7 3#6 1#1 0#9, 3), (.sts 3#2 8#7 3#6 1#1 0#9, 3),
      (.ldacq 3#2 8#7 4#6 0#2 0#1 0#6, 3), (.strel 3#2 8#7 4#6 0#2 0#1 0#6, 3), (.aadd 0#2 9#7 3#6 0#1 1#1 2#2 6#3, 3), (.axchg 0#2 9#7 3#6 0#1 1#1 2#2 6#3, 3),
      (.amin 0#2 9#7 3#6 0#1 1#1 2#2 4#3, 3), (.amax 0#2 9#7 3#6 0#1 1#1 2#2 4#3, 3), (.aand 0#2 9#7 3#6 0#1 1#1 2#2 4#3, 3), (.aor 0#2 9#7 3#6 0#1 1#1 2#2 4#3, 3),
      (.axor 0#2 9#7 3#6 0#1 1#1 2#2 4#3, 3), (.acas 0#2 8#7 3#6 0#1 1#1 2#2 4#3, 3), (.red 0#2 9#7 3#6 1#1 1#1 0#3 2#2, 3), (.red 0#2 9#7 3#6 1#1 1#1 4#3 1#2, 3),
      (.waitaddr 2#2 8#7 4#6 0#3 0#1 0#2, 3), (.tlwait 9#7 4#7 9#7, 3), (.tlread 9#7 4#7, 3), (.bra 13#4 0#1 0#20, 3), (.bra 12#4 1#1 0#20, 3), (.join 12#7, 3),
      (.leave 12#7, 3), (.waitm 12#7, 3), (.mset 12#7 104#7, 3), (.mand 12#7 0#7 0#7, 3), (.mor 0#7 12#7 0#7, 3), (.mxor 0#7 0#7 12#7, 3), (.mnot 12#7 0#7, 3), (.mnot 0#7 12#7, 3),
      (.mmov 0#7 12#7, 3), (.csrr 4#6 2#12, 3), (.csrw 4#6 0x014#12, 3), (.csrs 4#6 0x02A#12, 3), (.csrc 4#6 0x051#12, 3), (.tfence 4#6 0#2 0#1 46#6, 3), (.tfence 4#6 0#2 1#1 46#6, 3),
      (.xm 7#3 0#1 0#1 0#1 0#1 0#1 0#4 0#1 0#7 0#3, 3), (.xm 0#3 0#1 0#1 0#1 0#1 0#1 13#4 0#1 0#7 0#3, 3), (.xm 0#3 0#1 0#1 0#1 0#1 0#1 12#4 1#1 0#7 0#3, 3),
      (.xm 0#3 0#1 0#1 0#1 0#1 0#1 0#4 0#1 0#7 5#3, 3), (.mxstat 4#7 8#7, 3), (.strm 4#7 112#7 8#7, 3), (.strq 4#7 8#7, 3), (.strqEnd 4#7, 3), (.cpst 8#7 8#7 16#7, 3)] := by
  unfold refused; decide +kernel
theorem test_wellFormed_operands :
    refused [(.sadd 1#6 1#6 0#1 0x040#9, 2), (.sshl 1#6 1#6 0#1 0x100#9, 2), (.slea 0#2 2#6 4#6 0#1 0x080#9, 2), (.slea 0#2 1#6 4#6 0#1 0#9, 5), (.slea 0#2 2#6 3#6 0#1 0#9, 5),
      (.iadd 0#2 125#7 1#7 2#7, 4), (.iadd 0#2 1#7 126#7 2#7, 4), (.iadd 0#2 120#7 1#7 2#7, 4), (.iadd 1#2 1#7 2#7 4#7, 5), (.iadd 1#2 2#7 105#7 4#7, 5),
      (.mmov 12#7 0#7, 4), (.csrr 16#6 0#12, 4), (.csrr 1#6 0x030#12, 4), (.role 2#6 0#6, 4), (.role 4#6 16#6, 4), (.pstat 16#6 0#9, 4), (.btinv 1#6 0#2 0#1, 4),
      (.tfence 2#6 0#2 0#1 0#6, 4), (.ctxsv 2#6, 4), (.ctxld 17#6, 4), (.cpy 8#7 112#7 8#7, 4), (.coll 108#7 8#7, 4)] := by
  unfold refused; decide +kernel
theorem test_wellFormed_events : (Instr.walkStart 0).wellFormed = false ∧ (Instr.pcieLinkDown 0 0).wellFormed = false ∧ encode (.walkStart 0) = none := by
  decide +kernel
-- Words that are illegal (R230): the all-zero word, a mask number above 11, a register that does not fit, a reserved field that is not zero.
theorem test_decode_refuses : decodeWord 0#32 = .error 1 ∧ decodeWord 0x127CFF7F#32 = .error 3 ∧ decodeWord 0x02830408#32 = .error 5 ∧
    decodeWord 0xF4400001#32 = .error 2 ∧ decodeWord 0xEC1A00F6#32 = .error 3 ∧ decodeWord 0xEC3AC0FF#32 = .error 3 := by
  exact ⟨rfl, rfl, rfl, rfl, rfl, rfl⟩

end Sys2Proof.Tests
end

section
/-! SUPPORT. What an issue needs of its group while its lanes run, and that reading and writing operands keeps it. -/
namespace Sys2Proof.Machine

/-- The group of an issue as its lanes find it: no soft error due to its results, the threads of its entry live. -/
def Running (x : Iss) (s : State) : Prop :=
  ∃ g, s.group? x.gid = some g ∧ g.upset = [] ∧ ∀ l ∈ x.lanes, ∃ t, g.thread? l = some t ∧ t.exited = false

theorem Ready.running {s : State} {i : Instr} {x : Iss} {g : Group} (h : Ready s i x g) : Running x s :=
  ⟨g, h.group, h.sound, h.live⟩

theorem Running.of_groups {x : Iss} {s t : State} (h : Running x s) (e : t.groups = s.groups) : Running x t := by
  simpa only [Running, State.group?, e] using h

/-- An update of a group that leaves its threads and the soft errors due to it. -/
def KeepsThreads (f : Group → Group) : Prop := ∀ g, (f g).upset = g.upset ∧ (f g).threads = g.threads

theorem Running.updGroup {x : Iss} {s : State} {f : Group → Group} (h : Running x s) (hf : KeepsThreads f) :
    Running x (s.updGroup x.gid f) := by
  obtain ⟨g, hg, hu, hl⟩ := h
  refine ⟨f g, by simp [hg], (hf g).1.trans hu, ?_⟩
  simpa only [Group.thread?, (hf g).2] using hl

theorem Running.updThread {x : Iss} {s : State} {lane : Nat} {f : Thread → Thread} (h : Running x s)
    (hf : ∀ t, (f t).exited = t.exited) : Running x (s.updThread x.gid lane f) := by
  obtain ⟨g, hg, hu, hl⟩ := h
  refine ⟨{ g with threads := g.threads.upd lane f }, by simp [State.updThread, hg], hu, fun l hm => ?_⟩
  obtain ⟨t, ht, he⟩ := hl l hm
  by_cases e : lane = l
  · subst e
    exact ⟨f t, by simpa [Group.thread?] using ⟨t, ht, rfl⟩, (hf t).trans he⟩
  · exact ⟨t, by simpa [Group.thread?, e] using ht, he⟩

theorem bind_eq_ok {α β : Type} {m : M α} {f : α → M β} {s t : State} {b : β} :
    (m >>= f) s = .ok b t ↔ ∃ a u, m s = .ok a u ∧ f a u = .ok b t := by
  show EStateM.bind m f s = _ ↔ _
  unfold EStateM.bind
  cases m s with
  | ok a u =>
    refine ⟨fun h => ⟨a, u, rfl, h⟩, fun ⟨_, _, e, h⟩ => ?_⟩
    cases e
    exact h
  | error e u => exact ⟨nofun, fun ⟨_, _, h, _⟩ => nomatch h⟩

/-- A part of an issue whose answers have p, and after which the issue's group is as the other lanes need it. -/
def Gives {α : Type} (x : Iss) (m : M α) (p : α → Prop) : Prop :=
  ∀ s a t, Running x s → m s = .ok a t → Running x t ∧ p a

/-- The same of a part whose answer does not matter. -/
abbrev Keeps {α : Type} (x : Iss) (m : M α) : Prop := Gives x m fun _ => True

section
variable {α β : Type} {x : Iss}

theorem Gives.pure {p : α → Prop} {a : α} (h : p a) : Gives x (Pure.pure a) p := by
  intro s b t hr e
  cases e
  exact ⟨hr, h⟩

theorem Gives.err {p : α → Prop} (e : AErr) : Gives x (Machine.err e : M α) p := by
  intro s b t _ h
  cases h

theorem Gives.getS : Keeps x Machine.getS := by
  intro s b t hr e
  cases e
  exact ⟨hr, trivial⟩

theorem Gives.modS {f : State → State} (hf : ∀ s, Running x s → Running x (f s)) : Keeps x (Machine.modS f) := by
  intro s b t hr e
  cases e
  exact ⟨hf s hr, trivial⟩

theorem Gives.bind {m : M α} {f : α → M β} {p : α → Prop} {q : β → Prop} (hm : Gives x m p)
    (hf : ∀ a, p a → Gives x (f a) q) : Gives x (m >>= f) q := by
  intro s b t hr e
  obtain ⟨a, u, h1, h2⟩ := bind_eq_ok.1 e
  obtain ⟨hu, ha⟩ := hm s a u hr h1
  exact hf a ha u b t hu h2

theorem Gives.ite {c : Prop} [Decidable c] {m n : M α} {p : α → Prop} (hm : c → Gives x m p) (hn : ¬c → Gives x n p) :
    Gives x (if c then m else n) p := by
  split
  · next h => exact hm h
  · next h => exact hn h

theorem Gives.mapEach {f : α → M β} {p : α → β → Prop} (hf : ∀ a, Gives x (f a) (p a)) (as : List α) :
    Gives x (M.mapEach f as) fun bs => ∀ b ∈ bs, ∃ a ∈ as, p a b := by
  induction as with
  | nil => exact .pure (by simp)
  | cons a as ih =>
    refine .bind (hf a) fun b hb => .bind ih fun bs hbs => .pure ?_
    rintro c (_ | ⟨_, hc⟩)
    · exact ⟨a, by simp, hb⟩
    · obtain ⟨d, hd, hp⟩ := hbs c hc
      exact ⟨d, List.mem_cons_of_mem _ hd, hp⟩

end

variable {x : Iss}

theorem groupM_of_group {s : State} {g : Group} (h : s.group? x.gid = some g) : groupM x s = .ok g s := by
  simp only [groupM, bind, EStateM.bind, getS, h]
  rfl

theorem keeps_groupM : Keeps x (groupM x) := by
  refine .bind .getS fun s _ => ?_
  cases s.group? x.gid with
  | none => exact .err _
  | some g => exact .pure trivial

theorem keeps_threadM (lane : Nat) : Keeps x (threadM x lane) := by
  refine .bind keeps_groupM fun g _ => ?_
  cases g.thread? lane with
  | none => exact .err _
  | some t => exact .pure trivial

theorem keeps_updG {f : Group → Group} (hf : KeepsThreads f) : Keeps x (updG x f) := .modS fun _ h => h.updGroup hf

theorem keeps_updT (lane : Nat) {f : Thread → Thread} (hf : ∀ t, (f t).exited = t.exited) : Keeps x (updT x lane f) :=
  .modS fun _ h => h.updThread hf

/-! Operands in queues: the staging units lie in the core, not in the group (R375, R76). -/

theorem groups_foldl {α : Type} {f : State → α → State} (hf : ∀ s a, (f s a).groups = s.groups) (as : List α) (s : State) :
    (as.foldl f s).groups = s.groups :=
  List.foldlRecOn (motive := fun t => t.groups = s.groups) as f rfl fun t ht a _ => (hf t a).trans ht

theorem groups_softRead (s : State) (c lo n : Nat) : (s.softRead c lo n fun _ s => s).groups = s.groups := by
  unfold State.softRead
  simp only
  split <;> rfl

theorem groups_queueRead (s : State) (c gid q : Nat) (k : Queue) (n : Nat) : (s.queueRead c gid q k n).groups = s.groups := by
  unfold State.queueRead
  cases s.stageBase c gid q k with
  | none => rfl
  | some b => exact groups_foldl (fun s j => groups_softRead s c _ 1) _ s

theorem groups_queueWrite (s : State) (c gid q : Nat) (k : Queue) (n : Nat) : (s.queueWrite c gid q k n).groups = s.groups := by
  unfold State.queueWrite
  cases s.stageBase c gid q k with
  | none => rfl
  | some b => exact groups_foldl (fun s j => groups_updCore s c _) _ s

theorem gives_popQueue (q n : Nat) : Gives x (popQueue x q n) fun ws => ws.length = n := by
  refine .bind keeps_groupM fun g _ => .bind .getS fun s _ => .ite (fun hc => ?_) fun _ => ?_
  · refine .bind (.modS fun s h => h.of_groups (groups_queueRead ..)) fun _ _ =>
      .bind (keeps_updG fun _ => ⟨rfl, rfl⟩) fun _ _ => .pure ?_
    simp only [Bool.and_eq_true, decide_eq_true_eq] at hc
    obtain ⟨⟨⟨-, hn⟩, -⟩, -⟩ := hc
    rw [List.length_map, List.length_zipIdx, List.length_take, Nat.min_eq_left hn]
  · cases (g.queues.get .empty q).stream with
    | none => exact .err _
    | some t => exact .ite (fun _ => .err _) fun _ => .err _

theorem keeps_pushQueue (q : Nat) (ws : List RegWord) : Keeps x (pushQueue x q ws) := by
  refine .bind keeps_groupM fun g _ => ?_
  dsimp only
  cases (g.queues.get .empty q).stream with
  | none => exact .err _
  | some t =>
    refine .ite (fun _ => .err _) fun _ => .ite (fun _ => .err _) fun _ => ?_
    exact .bind (.modS fun s h => h.of_groups (groups_queueWrite ..)) fun _ _ => keeps_updG fun _ => ⟨rfl, rfl⟩

/-! Reading and writing operands. -/

/-- An operand gives as many words as it has registers (R218). -/
theorem gives_readRaw (lane : Nat) (o : Operand) (w64 : Bool) : Gives x (readRaw x lane o w64) fun ws => ws.length = o.n := by
  refine .bind keeps_groupM fun g _ => .ite (fun _ => .pure (by simp)) fun _ => .ite (fun _ => ?_) fun _ =>
    .ite (fun _ => gives_popQueue _ _) fun _ => .ite (fun _ => .pure (by simp)) fun _ => ?_
  · exact .bind (keeps_threadM lane) fun t _ => .pure (by simp [Latch.words])
  · refine .bind .getS fun s _ => ?_
    split <;> exact .pure (by simp [spread])

theorem keeps_checkWords (os : List (Operand × List RegWord)) : Keeps x (checkWords os) := by
  have last : Keeps x (match firstBad RegWord.bad os with
      | some c => raise .regerr (BitVec.ofNat 64 c)
      | none => pure ()) := by
    cases firstBad RegWord.bad os with
    | some c => exact .err _
    | none => exact .pure trivial
  unfold checkWords
  cases firstBad RegWord.poisoned os with
  | some c => exact .bind (p := fun _ => True) (.err _) fun _ _ => last
  | none => exact last

theorem gives_readOps (lane : Nat) (os : List (Operand × Bool)) :
    Gives x (readOps x lane os) fun vs => ∀ ws ∈ vs, ∃ o ∈ os, ws.length = o.1.n := by
  refine .bind (.mapEach (fun o => gives_readRaw lane o.1 o.2) os) fun raw hraw =>
    .bind (keeps_checkWords _) fun _ _ => .pure ?_
  simpa using hraw

theorem keepsThreads_setV (lane r : Nat) (v : RegWord) : KeepsThreads fun g => g.setV lane r v := by
  intro g
  dsimp only [Group.setV]
  split <;> exact ⟨rfl, rfl⟩

theorem keepsThreads_setS (k : Nat) (v : RegWord) : KeepsThreads fun g => g.setS k v := by
  intro g
  dsimp only [Group.setS]
  split <;> exact ⟨rfl, rfl⟩

theorem keepsThreads_foldl {α : Type} {f : Group → α → Group} (hf : ∀ a, KeepsThreads fun g => f g a) (as : List α) :
    KeepsThreads fun g => as.foldl f g := fun g =>
  List.foldlRecOn (motive := fun k => k.upset = g.upset ∧ k.threads = g.threads) as f ⟨rfl, rfl⟩ fun k hk a _ =>
    ⟨(hf a k).1.trans hk.1, (hf a k).2.trans hk.2⟩

theorem keeps_writeDst (lane : Nat) (o : Operand) (ws : List RegWord) (dep : NMap Nat) : Keeps x (writeDst x lane o ws dep) := by
  have shifts {v : DWord} : Keeps x (if (decide (o.code < 104) || o.code == 127) = true then
      updT x lane (fun t => t.shift v dep) else pure ()) :=
    .ite (fun _ => keeps_updT lane fun _ => rfl) fun _ => .pure trivial
  unfold writeDst
  refine .ite (fun _ => .bind (keeps_updG ?_) fun _ _ => shifts) fun _ =>
    .ite (fun _ => .bind (keeps_pushQueue _ _) fun _ _ => shifts) fun _ =>
    .ite (fun _ => .bind (keeps_updG ?_) fun _ _ => shifts) fun _ => shifts
  · exact keepsThreads_foldl (fun w g => by exact keepsThreads_setV lane _ w.1 g) _
  · exact keepsThreads_foldl (fun w g => by exact keepsThreads_setS _ w.1 g) _

theorem Running.writeVals {s t : State} {lane : Nat} {o : Operand} {ws : List Word} {dep : NMap Nat} (h : Running x s)
    (hw : writeVals x lane o ws dep s = .ok () t) : Running x t := (keeps_writeDst lane o _ dep s () t h hw).1

/-- Where no soft error is due to the group, a result is written as it is (R74). -/
theorem Running.writeRes {s : State} (h : Running x s) (lane : Nat) (cls : ResClass) (o : Operand) (ws : List Word)
    (dep : NMap Nat) : writeRes x lane cls o ws dep s = Machine.writeVals x lane o ws dep s := by
  obtain ⟨g, hg, hu, -⟩ := h
  have : resultOf x lane cls ws s = .ok (ws.map regWord) s := by
    show EStateM.bind (groupM x) _ s = _
    simp only [EStateM.bind, groupM_of_group hg, hu]
    rfl
  show EStateM.bind _ _ s = _
  simp only [EStateM.bind, this]
  rfl

end Sys2Proof.Machine
end

section
/-! SUPPORT. The instructions of the integer unit: what their lanes' elements are as bit vectors, and that an instruction whose model gives
the reference's result of every element completes with it (R218, R263, R264, R268). -/
namespace Sys2Proof.Machine

/-- Lanes run in turn, each step read another way while what it keeps holds. -/
theorem Chain.imp_of_keeps {r q : Nat → State → State → Prop} {p : State → Prop} {ls : List Nat} {s t : State}
    (hc : Chain r ls s t) (hs : p s) (step : ∀ l a b, p a → r l a b → q l a b ∧ p b) : Chain q ls s t ∧ p t := by
  induction hc with
  | nil s => exact ⟨.nil s, hs⟩
  | cons hr _ ih =>
    obtain ⟨hq, hm⟩ := step _ _ _ hs hr
    obtain ⟨hrest, ht⟩ := ih hm
    exact ⟨.cons hq hrest, ht⟩

/-- A per-thread instruction completes where each lane's effect is what its body does and the group goes on. -/
theorem completes_of_eachLane {i : Instr} {body : Iss → Nat → M LaneEnd} {r : Iss → Nat → State → State → Prop}
    (hexec : ∀ s, exec i s = perThread i body s)
    (step : ∀ {s x g}, Ready s i x g → ∀ l a b, Running x a → r x l a b → body x l a = .ok .next b ∧ Running x b) :
    Completes i (EachLane r) := by
  intro s x g u hr hc
  obtain ⟨hbody, k, hk, -, hl⟩ := hc.imp_of_keeps hr.running (step hr)
  obtain ⟨t, ht, hd⟩ := hr.perThread hbody (e := fun _ => .next) (fun _ _ => .inl rfl) hk hl
  exact ⟨t, (hexec s).trans ht, by simpa [LaneEnd.target] using hd⟩

/-! Elements of operands as numbers and as bit vectors (R218, R264). -/

@[simp] theorem arg_map_toNat {n : Nat} (l : List (BitVec n)) (k : Nat) : arg (l.map BitVec.toNat) k = (src l k).toNat := by
  simp only [arg, src, List.getD_eq_getElem?_getD, List.getElem?_map]
  cases l[k]? <;> simp

/-- Element k of an operand of 32-bit elements. -/
theorem elemsOf_getD_32 (ws : List Word) (k : Nat) : (elemsOf 32 ws).getD k 0 = (ws.getD k 0#32).toNat := by
  simp only [elemsOf, List.getD_eq_getElem?_getD]
  rw [if_neg (by decide), List.getElem?_map]
  cases ws[k]? <;> simp

/-- Element k of an operand of register pairs. -/
theorem elemsOf_getD_64 {ws : List Word} (he : ws.length % 2 = 0) (k : Nat) :
    (elemsOf 64 ws).getD k 0 = (ws.getD (2 * k + 1) 0#32 ++ ws.getD (2 * k) 0#32).toNat := by
  simp only [elemsOf]
  rw [if_pos (by decide)]
  by_cases hk : k < ws.length / 2
  · simp [List.getD_eq_getElem?_getD, hk, dword]
  · simp [List.getD_eq_getElem?_getD, hk, show ws.length ≤ 2 * k by omega, show ws.length ≤ 2 * k + 1 by omega]

/-- The model's element k of each operand is the reference's, as a number. -/
theorem column_eq_map_elements {n : Nat} (hn : n = 32 ∨ n = 64) {vs : List (List Word)}
    (he : n = 64 → ∀ ws ∈ vs, ws.length % 2 = 0) (k : Nat) : column n vs k = (elements n vs k).map BitVec.toNat := by
  simp only [column, elements, List.map_map]
  refine List.map_congr_left fun ws hw => ?_
  rcases hn with rfl | rfl
  · simpa using elemsOf_getD_32 ws k
  · simpa using elemsOf_getD_64 (he rfl ws hw) k

theorem flatten_map_pair {α : Type} (f g : Nat → α) (m : Nat) :
    ((List.range m).map fun k => [f k, g k]).flatten = (List.range (2 * m)).map fun k => if k % 2 = 0 then f (k / 2) else g (k / 2) := by
  induction m with
  | zero => rfl
  | succ m ih =>
    rw [List.range_succ, List.map_append, List.flatten_append, ih, show 2 * (m + 1) = 2 * m + 1 + 1 by omega,
      List.range_succ, List.range_succ]
    simp [show (2 * m + 1) / 2 = m by omega]

/-- The words of a result, from its elements as numbers and as bit vectors. -/
theorem wordsOf_eq_resultWords {n m : Nat} (hn : n = 32 ∨ n = 64) (he : n = 64 → m % 2 = 0) (v : Nat → Nat) (f : Nat → BitVec n)
    (hf : ∀ k, BitVec.ofNat n (v k) = f k) : wordsOf n ((List.range (m * 32 / n)).map v) = resultWords n m f := by
  rcases hn with rfl | rfl
  · simp only [wordsOf, resultWords]
    rw [if_neg (by decide), if_neg (by decide), Nat.mul_div_cancel _ (by decide), List.map_map]
    exact List.map_congr_left fun k _ => by simp [hf]
  · have hm := he rfl
    simp only [wordsOf, resultWords, if_true]
    rw [if_pos (by decide), List.map_map]
    have := flatten_map_pair (fun k => BitVec.ofNat 32 (v k)) (fun k => BitVec.ofNat 32 (v k / 2 ^ 32)) (m * 32 / 64)
    rw [show 2 * (m * 32 / 64) = m by omega] at this
    refine this.trans (List.map_congr_left fun k _ => ?_)
    split
    · rw [← hf]; apply BitVec.eq_of_toNat_eq; simp
    · rw [← hf]; apply BitVec.eq_of_toNat_eq; simp [Nat.shiftRight_eq_div_pow]; omega

/-! IntOp (R268): an instruction of the integer unit, by the number its model gives for each element. -/

/-- Instruction i is IntOp on elements of n bits with `f` for each: exec runs it so, and 64-bit elements stand in register pairs. -/
structure IntOp (i : Instr) (n : Nat) (f : Iss → List Nat → Nat) : Prop where
  exec  : ∀ s, exec i s = alu i n f s
  width : n = 32 ∨ n = 64
  pairs : n = 64 → ∀ o ∈ i.operands, o.n % 2 = 0

theorem IntOp.of_32 {i : Instr} {f : Iss → List Nat → Nat} (h : ∀ s, Machine.exec i s = alu i 32 f s) : IntOp i 32 f :=
  ⟨h, .inl rfl, fun e => absurd e (by decide)⟩

theorem elemBits_eq (w : BitVec 2) : elemBits w = 32 ∨ elemBits w = 64 := by
  unfold elemBits
  split <;> simp

theorem elemBits_pos (w : BitVec 2) : 0 < elemBits w := by
  rcases elemBits_eq w with h | h <;> omega

theorem widthN_even {w : BitVec 2} (h : elemBits w = 64) : widthN w % 2 = 0 := by
  revert w
  decide

theorem IntOp.of_elemBits {i : Instr} {w : BitVec 2} {f : Iss → List Nat → Nat}
    (h : ∀ s, Machine.exec i s = alu i (elemBits w) f s) (ho : ∀ o ∈ i.operands, o.n = widthN w) : IntOp i (elemBits w) f :=
  ⟨h, elemBits_eq w, fun e o hm => by rw [ho o hm, widthN_even e]⟩

theorem n_of_mem_ops3 {d a b : BitVec 7} {n : Nat} : ∀ o ∈ ops3 d a b n, o.n = n := by simp [ops3, oDst, oSrc]
theorem n_of_mem_ops3rw {d a b : BitVec 7} {n : Nat} : ∀ o ∈ ops3rw d a b n, o.n = n := by simp [ops3rw, oRw, oSrc]
theorem n_of_mem_ops2 {d a : BitVec 7} {n : Nat} : ∀ o ∈ ops2 d a n, o.n = n := by simp [ops2, oDst, oSrc]

theorem mem_operands_of_mem_sources {i : Instr} {o : Operand} (h : o ∈ sources i) : o ∈ i.operands := (List.mem_filter.1 h).1

theorem mem_operands_of_destOf {i : Instr} {o : Operand} (h : destOf i = some o) : o ∈ i.operands := List.mem_of_find?_eq_some h

/-- Checked sources, 64-bit elements of which stand in pairs: the lane goes on, and their words make whole elements. -/
theorem Running.readSources {i : Instr} {n : Nat} {x : Iss} {l : Nat} {a m : State} {vs : List (List Word)} (hr : Running x a)
    (hp : n = 64 → ∀ o ∈ sources i, o.n % 2 = 0) (h : readOps x l ((sources i).map fun o => (o, n == 64)) a = .ok vs m) :
    Running x m ∧ (n = 64 → ∀ ws ∈ vs, ws.length % 2 = 0) := by
  obtain ⟨hm, hlen⟩ := gives_readOps l _ a vs m hr h
  refine ⟨hm, fun hn ws hws => ?_⟩
  obtain ⟨p, hmem, e⟩ := hlen ws hws
  obtain ⟨q, hq, rfl⟩ := List.mem_map.1 hmem
  rw [e]
  exact hp hn q hq

/-- One lane of IntOp does what the reference says of its elements. -/
theorem IntOp.lane {i : Instr} {n : Nat} {f : Iss → List Nat → Nat} {r : List (BitVec n) → BitVec n} {x : Iss} (h : IntOp i n f)
    (hv : ∀ l : List (BitVec n), BitVec.ofNat n (f x (l.map BitVec.toNat)) = r l) {l : Nat} {a b : State} (hr : Running x a)
    (hl : LaneResult i n r x l a b) : aluLane i n f x l a = .ok .next b ∧ Running x b := by
  obtain ⟨g, vs, m, o, hg, hread, ho, hw⟩ := hl
  obtain ⟨hm, heven⟩ := hr.readSources (fun hn o hs => h.pairs hn o (mem_operands_of_mem_sources hs)) hread
  have hwords := wordsOf_eq_resultWords h.width (fun hn => h.pairs hn o (mem_operands_of_destOf ho))
    (fun k => f x (column n vs k)) (fun k => r (elements n vs k)) fun k => by rw [column_eq_map_elements h.width heven, hv]
  refine ⟨bind_eq_ok.2 ⟨g, a, groupM_of_group hg, bind_eq_ok.2 ⟨vs, m, hread, ?_⟩⟩, hm.writeVals hw⟩
  rw [ho]
  refine bind_eq_ok.2 ⟨(), b, ?_, rfl⟩
  rw [hm.writeRes, hwords, hw]

/-- IntOp completes with the reference's results, where the two agree on every element a legal instruction meets. -/
theorem IntOp.completes_of_legal {i : Instr} {n : Nat} {f : Iss → List Nat → Nat} {r : Iss → List (BitVec n) → BitVec n}
    (h : IntOp i n f) (hv : ∀ x g, issueBad i x g = none → ∀ l : List (BitVec n), BitVec.ofNat n (f x (l.map BitVec.toNat)) = r x l) :
    Completes i (EachLane fun x => LaneResult i n (r x) x) :=
  completes_of_eachLane h.exec fun {_ x g} hr _ _ _ ha hl => h.lane (hv x g hr.legal) ha hl

theorem IntOp.completes {i : Instr} {n : Nat} {f : Iss → List Nat → Nat} {r : Iss → List (BitVec n) → BitVec n}
    (h : IntOp i n f) (hv : ∀ x (l : List (BitVec n)), BitVec.ofNat n (f x (l.map BitVec.toNat)) = r x l) :
    Completes i (EachLane fun x => LaneResult i n (r x) x) := h.completes_of_legal fun x _ _ => hv x

end Sys2Proof.Machine
end

section
/-! SUPPORT. The model's results of the integer arithmetic as bit vectors (R268, R269). -/
namespace Sys2Proof.Machine
variable {n : Nat}

@[simp] theorem sext_toNat (a : BitVec n) : sext n a.toNat = a.toInt := by
  cases n with
  | zero => simp [sext, BitVec.of_length_zero]
  | succ n =>
    have h := a.isLt
    simp only [sext, Nat.mod_eq_of_lt h, BitVec.toInt_eq_toNat_cond, Nat.add_sub_cancel]
    congr 1
    rw [Nat.pow_succ, eq_iff_iff]
    omega

@[simp] theorem ofNat_wrap (v : Int) : BitVec.ofNat n (wrap n v) = BitVec.ofInt n v := by
  apply BitVec.eq_of_toNat_eq
  have h : (v % ↑(2 ^ n : Nat)).toNat < 2 ^ n := by
    have := Int.emod_lt_of_pos v (Int.natCast_pos.2 (Nat.two_pow_pos n))
    omega
  rw [BitVec.toNat_ofNat, BitVec.toNat_ofInt, wrap, Nat.mod_eq_of_lt h]

@[simp] theorem ofNat_clampS (v : Int) : BitVec.ofNat n (clampS n v) = clampInt n v := by
  simp [clampS, clampInt]

@[simp] theorem ofNat_clampN (v : Int) : BitVec.ofNat n (clampN n v) = clampNat n v := by
  have h : (0 : Int) ≤ max 0 (min ((2 ^ n : Nat) - 1 : Int) v) := Int.le_max_left ..
  rw [clampN, ← BitVec.ofInt_natCast, Int.toNat_of_nonneg h]
  simp [clampNat]

@[simp] theorem ofNat_satWrap (x : Iss) (v : Int) : BitVec.ofNat n (satWrap x n v) = wrapOrSat x n v := by
  unfold satWrap wrapOrSat
  split <;> simp

theorem ofNat_intAdd (x : Iss) (l : List (BitVec n)) : BitVec.ofNat n (intAdd n x (l.map BitVec.toNat)) =
    wrapOrSat x n ((src l 0).toInt + (src l 1).toInt) := by simp [intAdd]

theorem ofNat_intSub (x : Iss) (l : List (BitVec n)) : BitVec.ofNat n (intSub n x (l.map BitVec.toNat)) =
    wrapOrSat x n ((src l 0).toInt - (src l 1).toInt) := by simp [intSub]

theorem ofNat_intAddS (x : Iss) (l : List (BitVec n)) : BitVec.ofNat n (intAddS n x (l.map BitVec.toNat)) =
    clampNat n ((src l 0).toNat + (src l 1).toNat) := by simp [intAddS]

theorem ofNat_intSubS (x : Iss) (l : List (BitVec n)) : BitVec.ofNat n (intSubS n x (l.map BitVec.toNat)) =
    clampNat n (((src l 0).toNat : Int) - (src l 1).toNat) := by simp [intSubS]

theorem ofNat_intMul (x : Iss) (l : List (BitVec n)) : BitVec.ofNat n (intMul n x (l.map BitVec.toNat)) =
    wrapOrSat x n ((src l 0).toInt * (src l 1).toInt) := by simp [intMul]

theorem ofNat_intMad (x : Iss) (l : List (BitVec n)) : BitVec.ofNat n (intMad n x (l.map BitVec.toNat)) =
    wrapOrSat x n ((src l 1).toInt * (src l 2).toInt + (src l 0).toInt) := by simp [intMad]

/-- The high half of a product of 32-bit elements. -/
theorem ofNat_intMulhS (x : Iss) (l : List (BitVec 32)) : BitVec.ofNat 32 (intMulhS x (l.map BitVec.toNat)) =
    ((src l 0).signExtend 64 * (src l 1).signExtend 64).extractLsb' 32 32 := by
  simp only [intMulhS, arg_map_toNat, sext_toNat, ofNat_wrap]
  generalize src l 0 = a
  generalize src l 1 = b
  have hp : a.signExtend 64 * b.signExtend 64 = BitVec.ofInt 64 (a.toInt * b.toInt) := by
    apply BitVec.eq_of_toInt_eq
    rw [BitVec.toInt_mul, BitVec.toInt_ofInt, BitVec.toInt_signExtend_of_le (by decide), BitVec.toInt_signExtend_of_le (by decide)]
  rw [hp]
  apply BitVec.eq_of_toNat_eq
  simp only [BitVec.extractLsb'_toNat, BitVec.toNat_ofInt, Nat.shiftRight_eq_div_pow]
  omega

theorem ofNat_intMulhN (x : Iss) (l : List (BitVec 32)) : BitVec.ofNat 32 (intMulhN x (l.map BitVec.toNat)) =
    ((src l 0).zeroExtend 64 * (src l 1).zeroExtend 64).extractLsb' 32 32 := by
  simp only [intMulhN, arg_map_toNat]
  generalize src l 0 = a
  generalize src l 1 = b
  apply BitVec.eq_of_toNat_eq
  have : a.toNat * b.toNat < 18446744073709551616 := Nat.mul_lt_mul'' a.isLt b.isLt
  simp [BitVec.extractLsb'_toNat, Nat.shiftRight_eq_div_pow, Nat.mod_eq_of_lt this]

theorem ofInt_tdiv_toInt (a b : BitVec n) : BitVec.ofInt n (a.toInt.tdiv b.toInt) = a.sdiv b := by
  apply BitVec.eq_of_toInt_eq
  rw [BitVec.toInt_ofInt, BitVec.toInt_sdiv]

theorem ofInt_tmod_toInt (a b : BitVec n) : BitVec.ofInt n (a.toInt.tmod b.toInt) = a.srem b := by
  rw [← BitVec.toInt_srem, BitVec.ofInt_toInt]

theorem ofNat_intDiv (k : BitVec 1) (l : List (BitVec n)) : BitVec.ofNat n (intDiv n (k == 1#1) (l.map BitVec.toNat)) =
    if src l 1 = 0#n then BitVec.allOnes n else if k = 1#1 then src l 0 / src l 1 else (src l 0).sdiv (src l 1) := by
  simp only [intDiv, arg_map_toNat, sext_toNat]
  by_cases h : src l 1 = 0#n
  · rw [h, if_pos (by simp), if_pos rfl]
    apply BitVec.eq_of_toNat_eq
    simp
  · rw [if_neg (by simpa [BitVec.toNat_eq] using h), if_neg h]
    by_cases hk : k = 1#1
    · rw [if_pos (by simpa using hk), if_pos hk, ← BitVec.toNat_udiv, BitVec.ofNat_toNat, BitVec.setWidth_eq]
    · rw [if_neg (by simpa using hk), if_neg hk, ofNat_wrap, ofInt_tdiv_toInt]

theorem ofNat_intRem (k : BitVec 1) (l : List (BitVec n)) : BitVec.ofNat n (intRem n (k == 1#1) (l.map BitVec.toNat)) =
    if src l 1 = 0#n then src l 0 else if k = 1#1 then src l 0 % src l 1 else (src l 0).srem (src l 1) := by
  simp only [intRem, arg_map_toNat, sext_toNat]
  by_cases h : src l 1 = 0#n
  · rw [h, if_pos (by simp), if_pos rfl, BitVec.ofNat_toNat, BitVec.setWidth_eq]
  · rw [if_neg (by simpa [BitVec.toNat_eq] using h), if_neg h]
    by_cases hk : k = 1#1
    · rw [if_pos (by simpa using hk), if_pos hk, ← BitVec.toNat_umod, BitVec.ofNat_toNat, BitVec.setWidth_eq]
    · rw [if_neg (by simpa using hk), if_neg hk, ofNat_wrap, ofInt_tmod_toInt]

/-- The order of the model's minima and maxima is the reference's. -/
theorem less_iff (u : Bool) (a b : BitVec n) :
    (if u then a.toNat < b.toNat else sext n a.toNat < sext n b.toNat) ↔ less u a b = true := by
  cases u <;> simp [less, BitVec.ult, BitVec.slt]

theorem ofNat_intMin (u : Bool) (l : List (BitVec n)) : BitVec.ofNat n (intMin n u (l.map BitVec.toNat)) =
    if less u (src l 1) (src l 0) then src l 1 else src l 0 := by
  simp only [intMin, arg_map_toNat, less_iff]
  split <;> simp

theorem ofNat_intMax (u : Bool) (l : List (BitVec n)) : BitVec.ofNat n (intMax n u (l.map BitVec.toNat)) =
    if less u (src l 0) (src l 1) then src l 1 else src l 0 := by
  simp only [intMax, arg_map_toNat, less_iff]
  split <;> simp

/-- An immediate as the model and as the reference give it (R277). -/
@[simp] theorem immWord_eq_toNat_immOf (x : Iss) (j : BitVec 9) : immWord x j = (immOf x 32 j).toNat := by
  simp only [immWord, immOf, wrap, BitVec.ofInt_toInt, BitVec.toNat_ofInt]

/-- Settles O13: each instruction is IntOp, and its model's result of an element is the reference's. -/
theorem integerArithmetic : Obligations.IntegerArithmetic := by
  unfold Obligations.IntegerArithmetic
  intro i n f h
  unfold arithmetic at h
  split at h <;> cases h
  · exact IntOp.completes (.of_elemBits (fun _ => rfl) n_of_mem_ops3) ofNat_intAdd
  · exact IntOp.completes (.of_elemBits (fun _ => rfl) n_of_mem_ops3) ofNat_intSub
  · exact IntOp.completes (.of_elemBits (fun _ => rfl) n_of_mem_ops3) ofNat_intAddS
  · exact IntOp.completes (.of_elemBits (fun _ => rfl) n_of_mem_ops3) ofNat_intSubS
  · exact IntOp.completes (.of_elemBits (fun _ => rfl) n_of_mem_ops3) ofNat_intMul
  · exact IntOp.completes (.of_elemBits (fun _ => rfl) n_of_mem_ops3rw) ofNat_intMad
  · exact IntOp.completes (.of_32 fun _ => rfl) ofNat_intMulhS
  · exact IntOp.completes (.of_32 fun _ => rfl) ofNat_intMulhN
  · exact IntOp.completes (.of_elemBits (fun _ => rfl) n_of_mem_ops3) fun _ => ofNat_intDiv _
  · exact IntOp.completes (.of_elemBits (fun _ => rfl) n_of_mem_ops3) fun _ => ofNat_intRem _
  · exact IntOp.completes (.of_elemBits (fun _ => rfl) n_of_mem_ops3) fun _ => ofNat_intMin _
  · exact IntOp.completes (.of_elemBits (fun _ => rfl) n_of_mem_ops3) fun _ => ofNat_intMax _
  · exact IntOp.completes (.of_elemBits (fun _ => rfl) n_of_mem_ops2) fun _ _ => by simp
  · exact IntOp.completes (.of_elemBits (fun _ => rfl) n_of_mem_ops2) fun _ _ => by simp
  · exact IntOp.completes (.of_32 fun _ => rfl) fun x l => by
      rw [arg_map_toNat, immWord_eq_toNat_immOf]; exact ofNat_intAdd x [_, _]
  · exact IntOp.completes (.of_32 fun _ => rfl) fun x l => by
      rw [arg_map_toNat, immWord_eq_toNat_immOf]; exact ofNat_intMul x [_, _]
  · exact IntOp.completes (.of_32 fun _ => rfl) fun x l => by
      rw [arg_map_toNat, immWord_eq_toNat_immOf]; exact ofNat_intMin _ [_, _]
  · exact IntOp.completes (.of_32 fun _ => rfl) fun x l => by
      rw [arg_map_toNat, immWord_eq_toNat_immOf]; exact ofNat_intMax _ [_, _]

end Sys2Proof.Machine
end

section
/-! SUPPORT. The model's results of the logical instructions, shifts and counts as bit vectors, and the bits of a number's fields
(R270, R271, R274, R277). -/
namespace Sys2Proof.Machine
variable {n : Nat}

/-! Bits and bit fields of numbers. -/

theorem bit_eq_testBit (v i : Nat) : bit v i = v.testBit i := by
  rw [Nat.testBit_eq_decide_div_mod_eq]
  rfl

@[simp] theorem bit_toNat (a : BitVec n) (i : Nat) : bit a.toNat i = a.getLsbD i := bit_eq_testBit ..

@[simp] theorem bits_toNat (a : BitVec n) (lo m : Nat) : bits a.toNat lo m = (a.extractLsb' lo m).toNat := by
  simp [bits, BitVec.extractLsb'_toNat, Nat.shiftRight_eq_div_pow]

/-- Replacing a field touches only its bits. -/
theorem testBit_setBits (v lo m w i : Nat) :
    (setBits v lo m w).testBit i = if lo ≤ i ∧ i < lo + m then w.testBit (i - lo) else v.testBit i := by
  have hv : v = (2 ^ lo * (2 ^ m * (v / 2 ^ lo / 2 ^ m)) + v % 2 ^ lo) + v / 2 ^ lo % 2 ^ m * 2 ^ lo := by
    rw [Nat.add_right_comm, Nat.mul_comm (v / 2 ^ lo % 2 ^ m), ← Nat.mul_add, Nat.div_add_mod, Nat.div_add_mod]
  have hs : setBits v lo m w = 2 ^ lo * (2 ^ m * (v / 2 ^ lo / 2 ^ m) + w % 2 ^ m) + v % 2 ^ lo := by
    rw [setBits, bits, Nat.sub_eq_of_eq_add hv, Nat.add_right_comm, Nat.mul_comm (w % 2 ^ m), ← Nat.mul_add]
  rw [hs, Nat.testBit_two_pow_mul_add _ (Nat.mod_lt _ (Nat.two_pow_pos _)), Nat.testBit_two_pow_mul_add _ (Nat.mod_lt _ (Nat.two_pow_pos _)),
    Nat.testBit_mod_two_pow, Nat.testBit_mod_two_pow, Nat.testBit_div_two_pow, Nat.testBit_div_two_pow]
  by_cases h1 : i < lo
  · simp [h1, show ¬lo ≤ i by omega]
  · by_cases h2 : i - lo < m
    · simp [h1, h2, show lo ≤ i ∧ i < lo + m by omega]
    · simp [h1, h2, show ¬(lo ≤ i ∧ i < lo + m) by omega, show i - lo - m + m + lo = i by omega]

/-! Logic and shifts. -/

theorem ofNat_shiftL (a : BitVec n) (k : Nat) : BitVec.ofNat n (shiftL n a.toNat k) = a <<< k := by
  apply BitVec.eq_of_toNat_eq
  simp [shiftL, Nat.shiftLeft_eq]

theorem ofNat_shiftR (a : BitVec n) (k : Nat) : BitVec.ofNat n (shiftR a.toNat k) = a >>> k := by
  rw [shiftR, ← Nat.shiftRight_eq_div_pow, ← BitVec.toNat_ushiftRight, BitVec.ofNat_toNat, BitVec.setWidth_eq]

theorem ofNat_shiftA (a : BitVec n) (k : Nat) : BitVec.ofNat n (shiftA n a.toNat k) = a.sshiftRight k := by
  rw [shiftA, ofNat_wrap, sext_toNat, BitVec.sshiftRight_eq, Int.shiftRight_eq_div_pow]

theorem ofNat_rotateL (a : BitVec n) {k : Nat} (hk : k < n) : BitVec.ofNat n (rotateL n a.toNat k) = a.rotateLeft k := by
  rw [BitVec.rotateLeft_def, Nat.mod_eq_of_lt hk, rotateL, BitVec.ofNat_or, ← Nat.shiftLeft_eq, ← BitVec.toNat_shiftLeft]
  have := ofNat_shiftR a (n - k)
  rw [shiftR] at this
  rw [this, BitVec.ofNat_toNat, BitVec.setWidth_eq]

/-- A shift count is taken modulo the width (R270). -/
theorem countOf_eq_mod (h : n = 32 ∨ n = 64) (b : Nat) : countOf n b = b % n := by
  rcases h with rfl | rfl <;> rfl

/-! Counts and reversal. -/

theorem popCount_toNat (a : BitVec n) (m : Nat) : popCount m a.toNat = (List.range m).countP a.getLsbD := by
  simp only [popCount, bit_toNat, List.countP_eq_length_filter]

theorem leadZeros_toNat (a : BitVec n) : leadZeros n a.toNat = ((List.range n).find? a.getMsbD).getD n := by
  unfold leadZeros
  by_cases h : a.toNat = 0
  · have h0 : a = 0#n := BitVec.eq_of_toNat_eq (by simpa using h)
    have : (List.range n).find? a.getMsbD = none := by simp [h0]
    simp [this, h]
  · have hlog : a.toNat.log2 < n := (Nat.log2_lt h).2 a.isLt
    have : (List.range n).find? a.getMsbD = some (n - 1 - a.toNat.log2) := by
      rw [List.find?_range_eq_some]
      refine ⟨?_, by simp; omega, fun j hj => ?_⟩
      · rw [BitVec.getMsbD_eq_getLsbD, show n - 1 - (n - 1 - a.toNat.log2) = a.toNat.log2 by omega]
        rw [← BitVec.testBit_toNat, Nat.testBit_log2 h]
        simp; omega
      · rw [BitVec.getMsbD_eq_getLsbD]
        have : a.toNat < 2 ^ (n - 1 - j) := Nat.lt_of_lt_of_le (Nat.lt_log2_self) (Nat.pow_le_pow_right (by decide) (by omega))
        rw [← BitVec.testBit_toNat, Nat.testBit_lt_two_pow this]
        simp
    simp [this, h]

theorem trailZeros_toNat (a : BitVec n) : trailZeros n a.toNat = ((List.range n).find? a.getLsbD).getD n := by
  simp only [trailZeros, bit_toNat]

theorem foldl_add_eq_sum {α M : Type} [Add M] [Zero M] [Std.Associative (α := M) (· + ·)] [Std.Commutative (α := M) (· + ·)]
    [Std.LawfulLeftIdentity (α := M) (· + ·) 0] (f : α → M) (l : List α) (c : M) :
    l.foldl (fun v a => v + f a) c = (l.map f).sum + c := by
  induction l generalizing c with
  | nil => exact (Std.LawfulLeftIdentity.left_id c).symm
  | cons a l ih =>
    rw [List.foldl_cons, ih, List.map_cons, List.sum_cons]
    ac_rfl

theorem sum_map_range_succ (f : Nat → Nat) (m : Nat) :
    ((List.range (m + 1)).map f).sum = ((List.range m).map f).sum + f m := by
  rw [List.range_succ, List.map_append, List.sum_append, List.map_singleton, List.sum_singleton]

theorem sum_map_two_mul (f : Nat → Nat) (l : List Nat) : (l.map fun k => 2 * f k).sum = 2 * (l.map f).sum := by
  induction l with
  | nil => rfl
  | cons a l ih => rw [List.map_cons, List.map_cons, List.sum_cons, List.sum_cons, ih, Nat.mul_add]

theorem bitReverse_toNat (a : BitVec n) : bitReverse n a.toNat = a.reverse.toNat := by
  simp only [bitReverse, bit_toNat, foldl_add_eq_sum, Nat.add_zero]
  induction n with
  | zero => simp [BitVec.of_length_zero]
  | succ n ih =>
    rw [sum_map_range_succ, BitVec.reverse, BitVec.toNat_concat, ← ih, Nat.mul_comm, ← sum_map_two_mul]
    congr 2
    · refine List.map_congr_left fun k hk => ?_
      have hk := List.mem_range.1 hk
      simp only [BitVec.getLsbD_setWidth, hk, decide_true, Bool.true_and]
      split
      · rw [← Nat.pow_succ', show n + 1 - 1 - k = (n - 1 - k).succ by omega]
      · rfl
    · rw [BitVec.msb_eq_getLsbD_last, Nat.add_sub_cancel, Nat.sub_self]
      cases a.getLsbD n <;> rfl

end Sys2Proof.Machine
end

section
/-! SUPPORT. The model's results of bit fields, byte selection and dot products as bit vectors (R272, R275). -/
namespace Sys2Proof.Machine

theorem fieldLen_le (b : BitVec 32) : fieldPos b + fieldLen b ≤ 32 := by
  have := (b.extractLsb' 0 5).isLt
  unfold fieldLen fieldPos
  omega

theorem bits_eq_fieldPos (b : BitVec 32) : bits b.toNat 0 5 = fieldPos b := bits_toNat ..

theorem min_bits_eq_fieldLen (b : BitVec 32) : min (bits b.toNat 8 6) (32 - fieldPos b) = fieldLen b := by
  rw [bits_toNat, fieldLen]

theorem getLsbD_fieldOnes (p m i : Nat) : (fieldOnes p m).getLsbD i = decide (p ≤ i ∧ i < p + m ∧ i < 32) := by
  rw [fieldOnes, BitVec.getLsbD_shiftLeft, BitVec.getLsbD_ofNat, Nat.testBit_two_pow_sub_one]
  rw [Bool.eq_iff_iff]
  simp
  omega

/-- A signed field is the field shifted to the top and back. -/
theorem signExtend_extractLsb' (a : BitVec 32) {p m : Nat} (hm : m ≠ 0) (h : p + m ≤ 32) :
    (a.extractLsb' p m).signExtend 32 = (a <<< (32 - p - m)).sshiftRight (32 - m) := by
  apply BitVec.eq_of_getLsbD_eq
  intro i hi
  rw [BitVec.getLsbD_signExtend, BitVec.getLsbD_sshiftRight, BitVec.msb_eq_getLsbD_last, BitVec.msb_eq_getLsbD_last]
  by_cases hc : i < m
  · simp [hc, show ¬32 ≤ i by omega, hi, show p + i < 32 by omega, show 32 - m + i < 32 by omega,
      show ¬32 - m + i < 32 - p - m by omega,
      show 32 - m + i - (32 - p - m) = p + i by omega]
  · simp [hc, show ¬32 ≤ i by omega, hi, show p + (m - 1) < 32 by omega, show ¬32 - m + i < 32 by omega,
      show m - 1 < m by omega, show ¬31 < 32 - p - m by omega,
      show 31 - (32 - p - m) = p + (m - 1) by omega]

/-- An unsigned field is the field shifted to the bottom, the rest masked out. -/
theorem setWidth_extractLsb' (a : BitVec 32) (p m : Nat) :
    (a.extractLsb' p m).setWidth 32 = (a >>> p) &&& fieldOnes 0 m := by
  apply BitVec.eq_of_getLsbD_eq
  intro i hi
  rw [BitVec.getLsbD_setWidth, BitVec.getLsbD_extractLsb', BitVec.getLsbD_and, BitVec.getLsbD_ushiftRight, getLsbD_fieldOnes]
  by_cases hc : i < m <;> simp [hc, hi]

theorem ofNat_bitField (k : BitVec 1) (l : List (BitVec 32)) : BitVec.ofNat 32 (bitField (k == 1#1) (l.map BitVec.toNat)) =
    if fieldLen (src l 1) = 0 then 0#32
    else if k = 1#1 then
      (src l 0 <<< (32 - fieldPos (src l 1) - fieldLen (src l 1))).sshiftRight (32 - fieldLen (src l 1))
    else (src l 0 >>> fieldPos (src l 1)) &&& fieldOnes 0 (fieldLen (src l 1)) := by
  have hle := fieldLen_le (src l 1)
  simp only [bitField, arg_map_toNat, bits_eq_fieldPos, min_bits_eq_fieldLen, beq_iff_eq]
  by_cases h0 : fieldLen (src l 1) = 0
  · rw [if_pos h0, if_pos h0]
  · rw [if_neg h0, if_neg h0]
    by_cases hk : k = 1#1
    · rw [if_pos hk, if_pos hk, bits_toNat, sext_toNat, ofNat_wrap, ← signExtend_extractLsb' _ h0 hle, BitVec.signExtend]
    · rw [if_neg hk, if_neg hk, bits_toNat, BitVec.ofNat_toNat, setWidth_extractLsb']

theorem ofNat_bitInsert (l : List (BitVec 32)) : BitVec.ofNat 32 (bitInsert (l.map BitVec.toNat)) =
    (src l 0 &&& ~~~(fieldOnes (fieldPos (src l 2)) (fieldLen (src l 2)))) |||
      ((src l 1 <<< fieldPos (src l 2)) &&& fieldOnes (fieldPos (src l 2)) (fieldLen (src l 2))) := by
  simp only [bitInsert, arg_map_toNat, bits_eq_fieldPos, min_bits_eq_fieldLen]
  apply BitVec.eq_of_getLsbD_eq
  intro i hi
  simp only [BitVec.getLsbD_ofNat, testBit_setBits, BitVec.getLsbD_or, BitVec.getLsbD_and, BitVec.getLsbD_not,
    getLsbD_fieldOnes, BitVec.getLsbD_shiftLeft, BitVec.testBit_toNat, hi, and_true, decide_true, Bool.true_and]
  by_cases hc : fieldPos (src l 2) ≤ i ∧ i < fieldPos (src l 2) + fieldLen (src l 2)
  · simp [hc]
  · simp [hc]

theorem toNat_append_eq_add {m n : Nat} (a : BitVec m) (b : BitVec n) : (a ++ b).toNat = a.toNat * 2 ^ n + b.toNat := by
  rw [BitVec.toNat_append, ← Nat.shiftLeft_add_eq_or_of_lt b.isLt, Nat.shiftLeft_eq]

/-- The number of the byte that BYTSEL's 5-bit code c picks of the eight of `pool` (R272). -/
def byteNumber (pool c : Nat) : Nat :=
  let p := bits pool (8 * (c % 8)) 8
  match c / 8 with
  | 0 => p
  | 1 => bitReverse 8 p
  | 2 => if bit p 7 then 0xFF else 0
  | _ => 0

theorem byteSelect_eq_sum (l : List Nat) : byteSelect l = ((List.range 4).map fun j =>
    byteNumber (arg l 1 + arg l 2 * 2 ^ 32) (bits (arg l 0) (5 * j) 5) * 2 ^ (8 * j)).sum := by
  rw [← Nat.add_zero (List.sum _), ← foldl_add_eq_sum]
  rfl

theorem byteNumber_toNat (pool : BitVec 64) (c : BitVec 5) : byteNumber pool.toNat c.toNat = (byteOf pool c).toNat := by
  have hlow : (c.extractLsb' 0 3).toNat = c.toNat % 8 := by simp [BitVec.extractLsb'_toNat]
  have hhigh : (c.extractLsb' 3 2).toNat = c.toNat / 8 := by
    have := c.isLt
    simp only [BitVec.extractLsb'_toNat, Nat.shiftRight_eq_div_pow]
    omega
  simp only [byteNumber, byteOf, hlow, hhigh, bits_toNat, bitReverse_toNat, bit_toNat]
  generalize pool.extractLsb' (8 * (c.toNat % 8)) 8 = p
  obtain h | h | h | h : c.toNat / 8 = 0 ∨ c.toNat / 8 = 1 ∨ c.toNat / 8 = 2 ∨ c.toNat / 8 = 3 := by
    have := c.isLt
    omega
  · simp only [h]
  · simp only [h]
  · rw [h]
    show _ = (if p.msb then 0xFF#8 else 0#8).toNat
    rw [BitVec.msb_eq_getLsbD_last, apply_ite BitVec.toNat]
    rfl
  · rw [h]
    rfl

/-- A number of four bytes.  Its powers are evaluated one by one, since the kernel would count to them inside a product. -/
theorem ofNat_bytes (b : Nat → BitVec 8) :
    BitVec.ofNat 32 ((List.range 4).map fun j => (b j).toNat * 2 ^ (8 * j)).sum = b 3 ++ b 2 ++ b 1 ++ b 0 := by
  have p0 : 2 ^ (8 * 0) = 1 := by rfl
  have p1 : 2 ^ (8 * 1) = 256 := by rfl
  have p2 : 2 ^ (8 * 2) = 65536 := by rfl
  have p3 : 2 ^ (8 * 3) = 16777216 := by rfl
  have hsum : ((List.range 4).map fun j => (b j).toNat * 2 ^ (8 * j)).sum =
      (b 0).toNat + (b 1).toNat * 256 + (b 2).toNat * 65536 + (b 3).toNat * 16777216 := by
    rw [sum_map_range_succ, sum_map_range_succ, sum_map_range_succ, sum_map_range_succ, p0, p1, p2, p3, List.range_zero,
      List.map_nil, List.sum_nil, Nat.mul_one, Nat.zero_add]
  have h0 := (b 0).isLt
  have h1 := (b 1).isLt
  have h2 := (b 2).isLt
  have h3 := (b 3).isLt
  apply BitVec.eq_of_toNat_eq
  rw [hsum]
  simp only [toNat_append_eq_add, BitVec.toNat_ofNat]
  omega

theorem ofNat_byteSelect (l : List (BitVec 32)) : BitVec.ofNat 32 (byteSelect (l.map BitVec.toNat)) =
    byteOf (src l 2 ++ src l 1) ((src l 0).extractLsb' (5 * 3) 5) ++ byteOf (src l 2 ++ src l 1) ((src l 0).extractLsb' (5 * 2) 5) ++
      byteOf (src l 2 ++ src l 1) ((src l 0).extractLsb' (5 * 1) 5) ++ byteOf (src l 2 ++ src l 1) ((src l 0).extractLsb' (5 * 0) 5) := by
  have hpool : (src l 1).toNat + (src l 2).toNat * 2 ^ 32 = (src l 2 ++ src l 1).toNat := by
    rw [toNat_append_eq_add, Nat.add_comm]
  rw [byteSelect_eq_sum]
  simp only [arg_map_toNat, hpool, bits_toNat, byteNumber_toNat]
  exact ofNat_bytes fun j => byteOf (src l 2 ++ src l 1) ((src l 0).extractLsb' (5 * j) 5)

theorem ofNat_dotProduct (m w : Nat) (u : Bool) (x : Iss) (l : List (BitVec 32)) :
    BitVec.ofNat 32 (dotProduct m w u x (l.map BitVec.toNat)) = dotOf m w u x l := by
  simp only [dotProduct, dotOf, partOf, arg_map_toNat, bits_toNat, sext_toNat, foldl_add_eq_sum]
  rw [apply_ite (BitVec.ofNat 32), apply_ite (BitVec.ofNat 32), ofNat_clampN, ofNat_clampS, ofNat_wrap]

end Sys2Proof.Machine
end

section
/-! SUPPORT. Logic, shifts, counts, bit fields, byte selection and dot products complete with the reference's results. -/
namespace Sys2Proof.Machine

/-! What the legality of an instruction says of its immediate (R277). -/

theorem foldl_bothBad_eq_none {l : List (Option Nat)} {r : Option Nat} (h : l.foldl bothBad r = none) :
    r = none ∧ ∀ a ∈ l, a = none := by
  induction l generalizing r with
  | nil => exact ⟨h, by simp⟩
  | cons a l ih =>
    obtain ⟨hra, hl⟩ := ih h
    have : r = none ∧ a = none := by cases r <;> cases a <;> simp_all [bothBad]
    exact ⟨this.1, by simpa [this.2] using hl⟩

/-- A legal shift by an immediate has a count below 32. -/
theorem immOf_lt_of_legal {i : Instr} {x : Iss} {g : Group} {j : BitVec 9}
    (hi : immBad i x = if immWord x j < 32 then none else some 0x03) (h : issueBad i x g = none) : (immOf x 32 j).toNat < 32 := by
  have hbad : immBad i x = none := (foldl_bothBad_eq_none h).2 _ (by simp)
  rw [hi, immWord_eq_toNat_immOf] at hbad
  by_cases hc : (immOf x 32 j).toNat < 32
  · exact hc
  · rw [if_neg hc] at hbad
    cases hbad

/-- The logical instructions, shifts and moves (R270, R274, R277). -/
theorem completes_of_logical (i : Instr) (n : Nat) (f : (n : Nat) → Iss → List (BitVec n) → BitVec n) (h : logical i = some (n, f)) :
    Completes i (EachLane fun x => LaneResult i n (f n x) x) := by
  unfold logical at h
  split at h <;> cases h
  · exact IntOp.completes (.of_32 fun _ => rfl) fun _ _ => by simp [BitVec.ofNat_and]
  · exact IntOp.completes (.of_32 fun _ => rfl) fun _ _ => by simp [BitVec.ofNat_or]
  · exact IntOp.completes (.of_32 fun _ => rfl) fun _ _ => by simp [BitVec.ofNat_xor]
  · exact IntOp.completes (.of_32 fun _ => rfl) fun _ _ => by
      rw [arg_map_toNat, arg_map_toNat, ← BitVec.toNat_not, ← BitVec.toNat_and, BitVec.ofNat_toNat, BitVec.setWidth_eq]
  · exact IntOp.completes (.of_32 fun _ => rfl) fun _ _ => by
      rw [arg_map_toNat, ← BitVec.toNat_not, BitVec.ofNat_toNat, BitVec.setWidth_eq]
  · exact IntOp.completes (.of_32 fun _ => rfl) fun _ _ => by simp
  · exact IntOp.completes (.of_elemBits (fun _ => rfl) n_of_mem_ops3) fun _ _ => by
      rw [arg_map_toNat, arg_map_toNat, countOf_eq_mod (elemBits_eq _), ofNat_shiftL]
  · exact IntOp.completes (.of_elemBits (fun _ => rfl) n_of_mem_ops3) fun _ _ => by
      rw [arg_map_toNat, arg_map_toNat, countOf_eq_mod (elemBits_eq _), ofNat_shiftR]
  · exact IntOp.completes (.of_elemBits (fun _ => rfl) n_of_mem_ops3) fun _ _ => by
      rw [arg_map_toNat, arg_map_toNat, countOf_eq_mod (elemBits_eq _), ofNat_shiftA]
  · exact IntOp.completes (.of_elemBits (fun _ => rfl) n_of_mem_ops3) fun _ _ => by
      rw [arg_map_toNat, arg_map_toNat, countOf_eq_mod (elemBits_eq _), ofNat_rotateL _ (Nat.mod_lt _ (elemBits_pos _))]
  · exact IntOp.completes (.of_32 fun _ => rfl) fun _ _ => by simp [BitVec.ofNat_and]
  · exact IntOp.completes (.of_32 fun _ => rfl) fun _ _ => by simp [BitVec.ofNat_or]
  · exact IntOp.completes (.of_32 fun _ => rfl) fun _ _ => by simp [BitVec.ofNat_xor]
  · exact IntOp.completes_of_legal (.of_32 fun _ => rfl) fun _ _ h _ => by
      rw [arg_map_toNat, immWord_eq_toNat_immOf, Nat.mod_eq_of_lt (immOf_lt_of_legal rfl h), ofNat_shiftL]
  · exact IntOp.completes_of_legal (.of_32 fun _ => rfl) fun _ _ h _ => by
      rw [arg_map_toNat, immWord_eq_toNat_immOf, Nat.mod_eq_of_lt (immOf_lt_of_legal rfl h), ofNat_shiftR]
  · exact IntOp.completes_of_legal (.of_32 fun _ => rfl) fun _ _ h _ => by
      rw [arg_map_toNat, immWord_eq_toNat_immOf, Nat.mod_eq_of_lt (immOf_lt_of_legal rfl h), ofNat_shiftA]
  · exact IntOp.completes_of_legal (.of_32 fun _ => rfl) fun _ _ h _ => by
      have hk := immOf_lt_of_legal rfl h
      rw [arg_map_toNat, immWord_eq_toNat_immOf, Nat.mod_eq_of_lt hk, ofNat_rotateL _ hk]
  · exact IntOp.completes (.of_32 fun _ => rfl) fun _ _ => by simp

/-- Bit fields, byte selection and dot products (R272, R275). -/
theorem completes_of_bitwise (i : Instr) (f : Iss → List (BitVec 32) → BitVec 32) (h : bitwise i = some f) :
    Completes i (EachLane fun x => LaneResult i 32 (f x) x) := by
  unfold bitwise at h
  split at h <;> cases h
  · exact IntOp.completes (.of_32 fun _ => rfl) fun _ => ofNat_bitField _
  · exact IntOp.completes (.of_32 fun _ => rfl) fun _ => ofNat_bitInsert
  · exact IntOp.completes (.of_32 fun _ => rfl) fun _ => ofNat_byteSelect
  · exact IntOp.completes (.of_32 fun _ => rfl) (ofNat_dotProduct 4 8 _)
  · exact IntOp.completes (.of_32 fun _ => rfl) (ofNat_dotProduct 2 16 _)

/-- Counting and reversing bits (R271). -/
theorem completes_of_counts (i : Instr) (n : Nat) (f : (n : Nat) → List (BitVec n) → BitVec n) (h : counts i = some (n, f)) :
    Completes i (EachLane fun x => LaneResult i n (f n) x) := by
  unfold counts at h
  split at h <;> cases h
  · exact IntOp.completes (.of_elemBits (fun _ => rfl) n_of_mem_ops2) fun _ _ => by rw [arg_map_toNat, popCount_toNat]
  · exact IntOp.completes (.of_elemBits (fun _ => rfl) n_of_mem_ops2) fun _ _ => by rw [arg_map_toNat, leadZeros_toNat]
  · exact IntOp.completes (.of_elemBits (fun _ => rfl) n_of_mem_ops2) fun _ _ => by rw [arg_map_toNat, trailZeros_toNat]
  · exact IntOp.completes (.of_elemBits (fun _ => rfl) n_of_mem_ops2) fun _ _ => by
      rw [arg_map_toNat, bitReverse_toNat, BitVec.ofNat_toNat, BitVec.setWidth_eq]

/-- Settles O14: each instruction is IntOp, and its model's result of an element is the reference's. -/
theorem logicShiftsAndBits : Obligations.LogicShiftsAndBits := by
  unfold Obligations.LogicShiftsAndBits
  exact ⟨completes_of_logical, completes_of_bitwise, completes_of_counts⟩

end Sys2Proof.Machine
end

section
/-! SUPPORT. Joint instructions whose lanes all read and write, and the votes among them. -/
namespace Sys2Proof.Machine

/-! Joint instructions all of whose lanes read and write (R263, R278, R469). -/

/-- The reads of lanes that all answer. -/
def AllRead {α : Type} (rs : LaneReads α) : Prop := ∀ p ∈ rs, ∃ a, p.2 = .ok a

theorem gatherStall_of_allRead {α : Type} {rs : LaneReads α} (h : AllRead rs) : gatherStall rs = none := by
  refine List.findSome?_eq_none_iff.2 fun p hp => ?_
  obtain ⟨a, e⟩ := h p hp
  rw [e]

theorem gatherBad_of_allRead {α : Type} {rs : LaneReads α} (h : AllRead rs) : gatherBad rs = [] := by
  refine List.filterMap_eq_nil_iff.2 fun p hp => ?_
  obtain ⟨a, e⟩ := h p hp
  rw [e]

/-- Where every lane completes nothing is given back. -/
theorem giveBack_of_ok {α : Type} (x : Iss) (rs : LaneReads α) (lanes : List Nat) (e : LaneEnd) (s : State) :
    giveBack x rs (lanes.map fun l => (l, .ok e)) s = s := by
  refine List.foldlRecOn (motive := fun t => t = s) _ _ rfl fun t ht p _ => ?_
  subst ht
  split
  · next hfailed _ =>
    dsimp only at hfailed
    split at hfailed
    · next hfind =>
      obtain ⟨_, -, h⟩ := List.mem_map.1 (List.mem_of_find?_eq_some hfind)
      cases h
    · cases hfailed
  · rfl

theorem jointEnd_of_ok {α : Type} (x : Iss) (rs : LaneReads α) (run lanes : List Nat) (e : LaneEnd) (old s : State) :
    jointEnd x rs run old (lanes.map fun l => (l, .ok e), s) = (lanes.map fun l => (l, .ok e), s) := by
  have hstall : (lanes.map fun l => (l, LaneOut.ok e)).findSome? (fun p => match p.2 with
      | .err (.stall c) => some c
      | _ => none) = none := by
    refine List.findSome?_eq_none_iff.2 fun p hp => ?_
    obtain ⟨l, -, rfl⟩ := List.mem_map.1 hp
    rfl
  unfold jointEnd
  simp only
  split
  · next c hc => cases hstall.symm.trans hc
  · rw [giveBack_of_ok]

theorem unfinished_of_ok (lanes : List Nat) (e : LaneEnd) : unfinished (lanes.map fun l => (l, .ok e)) = false := by
  simp [unfinished]

/-- A joint instruction whose lanes all read, and whose act completes each of them. -/
theorem joint_of_ok {α : Type} {x : Iss} {read : Nat → M α} {act : List (Nat × α) → State → List (Nat × LaneOut) × State}
    {run lanes : List Nat} {e : LaneEnd} {s m u : State} {rs : LaneReads α} (hg : gather x read run s = (rs, m)) (hrs : AllRead rs)
    (ha : act (gatherOk rs) m = (lanes.map fun l => (l, .ok e), u)) :
    joint x read act run s = (lanes.map fun l => (l, .ok e), u) := by
  unfold joint
  simp only [hg, gatherStall_of_allRead hrs, ha, jointEnd_of_ok, unfinished_of_ok, gatherBad_of_allRead hrs, List.append_nil]
  rfl

/-! Votes (R278, R280). -/

/-- Instruction i is a vote over elements of n bits with `f` for each lane's result. -/
structure VoteOp (i : Instr) (n : Nat) (f : List (Nat × Nat) → Nat → Nat) : Prop where
  exec  : ∀ s, exec i s = vote i n f s
  width : n = 32 ∨ n = 64
  pairs : n = 64 → ∀ o ∈ sources i, o.n % 2 = 0

theorem VoteOp.of_32 {i : Instr} {f : List (Nat × Nat) → Nat → Nat} (h : ∀ s, Machine.exec i s = vote i 32 f s) : VoteOp i 32 f :=
  ⟨h, .inl rfl, fun e => absurd e (by decide)⟩

theorem VoteOp.of_elemBits {i : Instr} {w : BitVec 2} {a : BitVec 7} {f : List (Nat × Nat) → Nat → Nat}
    (h : ∀ s, Machine.exec i s = vote i (elemBits w) f s) (ho : sources i = [oSrc a (widthN w)]) : VoteOp i (elemBits w) f :=
  ⟨h, elemBits_eq w, fun e o hm => by
    rw [ho, List.mem_singleton] at hm
    rw [hm]
    exact widthN_even e⟩

/-- What the lanes of a vote read, as the model lists it: every lane answers, and the elements are the reference's. -/
theorem gather_of_gathers {i : Instr} {n : Nat} {x : Iss} (hn : n = 32 ∨ n = 64) (hp : n = 64 → ∀ o ∈ sources i, o.n % 2 = 0)
    {ls : List Nat} {s m : State} {vs : List (Nat × Nat)} (h : Gathers (VoteRead i n x) ls s vs m) (hr : Running x s) :
    Running x m ∧ ∃ rs, gather x (readA i n x) ls s = (rs, m) ∧ AllRead rs ∧ (gatherOk rs).map (·.1) = ls ∧
      (gatherOk rs).map (fun p => (p.1, (elemsOf n p.2).getD 0 0)) = vs := by
  induction h with
  | nil s => exact ⟨hr, [], rfl, by simp [AllRead], rfl, rfl⟩
  | @cons l ls v vs s m t hread _ ih =>
    obtain ⟨ws, hws, rfl⟩ := hread
    obtain ⟨hm, heven⟩ := hr.readSources hp hws
    obtain ⟨ht, rs, hgather, hall, hlanes, helems⟩ := ih hm
    have hA : readA i n x l s = .ok (ws.getD 0 []) m := bind_eq_ok.2 ⟨ws, m, hws, rfl⟩
    have helem : (elemsOf n (ws.getD 0 [])).getD 0 0 = (src (elements n ws 0) 0).toNat := by
      rw [← arg_map_toNat, ← column_eq_map_elements hn heven]
      cases ws with
      | nil => rcases hn with rfl | rfl <;> rfl
      | cons w ws => rfl
    refine ⟨ht, (l, .ok (ws.getD 0 [], takenWords x.gid s m)) :: rs, by simp only [gather, hA, hgather], ?_, ?_, ?_⟩
    · rintro p (_ | ⟨_, hp⟩)
      · exact ⟨_, rfl⟩
      · exact hall p hp
    · rw [← hlanes]
      rfl
    · rw [← helems, ← helem]
      rfl

/-- Results written lane by lane, or once to a uniform destination, all lanes completing. -/
theorem writeJoint_of_jointWrites {x : Iss} {cls : ResClass} {o : Operand} {f : Nat → List Word} {m u : State}
    (h : JointWrites x o f m u) (hr : Running x m) :
    writeJoint x cls o f x.act m = (x.act.map fun l => (l, .ok .next), u) ∧ Running x u := by
  have hlane {l : Nat} {a b : State} (ha : Running x a) (hw : LaneWrite o f x l a b) :
      (do
        writeRes x l cls o (f l)
        pure .next : M LaneEnd) a = .ok .next b ∧ Running x b :=
    ⟨bind_eq_ok.2 ⟨(), b, by rw [ha.writeRes]; exact hw, rfl⟩, ha.writeVals hw⟩
  unfold JointWrites at h
  unfold writeJoint
  by_cases hu : 104 ≤ o.code ∧ o.code < 120
  · rw [if_pos hu] at h
    rw [if_pos (by simpa using hu)]
    cases hact : x.act with
    | nil =>
      rw [hact] at h
      obtain rfl := h
      exact ⟨rfl, hr⟩
    | cons l ls =>
      rw [hact] at h
      obtain ⟨hb, hrun⟩ := hlane hr h
      exact ⟨by simp only [runLane, hb], hrun⟩
  · rw [if_neg hu] at h
    rw [if_neg (by simpa using hu)]
    obtain ⟨hc, hrun⟩ := h.imp_of_keeps hr fun _ _ _ ha hw => hlane ha hw
    exact ⟨runLanes_of_chain hc, hrun⟩

theorem lt_of_gathers {i : Instr} {n : Nat} {x : Iss} {ls : List Nat} {s m : State} {vs : List (Nat × Nat)}
    (h : Gathers (VoteRead i n x) ls s vs m) : ∀ p ∈ vs, p.2 < 2 ^ n := by
  induction h with
  | nil => simp
  | cons hread _ ih =>
    obtain ⟨ws, -, rfl⟩ := hread
    exact List.forall_mem_cons.2 ⟨BitVec.isLt _, ih⟩

/-- A vote completes with the reference's results, where the two agree on elements of the width. -/
theorem VoteOp.completes {i : Instr} {n : Nat} {f : List (Nat × Nat) → Nat → Nat} {r : List (Nat × Nat) → Nat → BitVec 32}
    {o : Operand} (h : VoteOp i n f) (ho : destOf i = some o)
    (hv : ∀ vs, (∀ p ∈ vs, p.2 < 2 ^ n) → ∀ l, BitVec.ofNat 32 (f vs l) = r vs l) :
    Completes i fun x s u => ∃ vs m, Gathers (VoteRead i n x) x.act s vs m ∧ JointWrites x o (fun l => [r vs l]) m u := by
  rintro s x g u hr ⟨vs, m, hreads, hwrites⟩
  obtain ⟨hm, rs, hgather, hall, hlanes, helems⟩ := gather_of_gathers h.width h.pairs hreads hr.running
  simp only [← hv vs (lt_of_gathers hreads)] at hwrites
  obtain ⟨hw, k, hk, -, hl⟩ := writeJoint_of_jointWrites (cls := .regenerated) hwrites hm
  have hd := finish_done hr (fun _ => .next) hk (fun _ _ => .inl rfl) hl
  refine ⟨_, ?_, by simpa [LaneEnd.target] using hd⟩
  rw [h.exec, vote, hr.jointly, joint_of_ok hgather hall]
  rw [ho]
  simp only [hlanes, helems, hw]

end Sys2Proof.Machine
end

section
/-! SUPPORT. The votes complete with the reference's results. -/
namespace Sys2Proof.Machine

/-! The model's results of the votes as bit vectors (R278, R280). -/

theorem twoPow_eq_ofNat (w k : Nat) : BitVec.twoPow w k = BitVec.ofNat w (2 ^ k) := by
  apply BitVec.eq_of_toNat_eq
  rw [BitVec.toNat_twoPow, BitVec.toNat_ofNat]

/-- The mask of the lanes that a test picks is the sum of their bits. -/
theorem ofNat_lanesWhere (vs : List (Nat × Nat)) (p : Nat → Bool) : BitVec.ofNat 32 (lanesWhere vs p) =
    (vs.map fun q => if p q.2 then BitVec.twoPow 32 q.1 else 0#32).foldl (· + ·) 0#32 := by
  have fold (c : Nat) : BitVec.ofNat 32 (vs.foldl (fun n q => if p q.2 then n + 2 ^ q.1 else n) c) =
      (vs.map fun q => if p q.2 then BitVec.twoPow 32 q.1 else 0#32).foldl (· + ·) (BitVec.ofNat 32 c) := by
    induction vs generalizing c with
    | nil => rfl
    | cons q vs ih =>
      rw [List.foldl_cons, ih, List.map_cons, List.foldl_cons]
      congr 1
      split
      · rw [BitVec.ofNat_add, twoPow_eq_ofNat]
      · rw [BitVec.add_zero]
  exact fold 0

theorem look_eq_find? {α : Type} (m : NMap α) (k : Nat) : m.look k = (m.find? fun p => p.1 == k).map (·.2) := by
  induction m with
  | nil => rfl
  | cons p m ih =>
    rw [NMap.look_cons, List.find?_cons, ih]
    by_cases h : p.1 = k
    · simp [h]
    · rw [if_neg h, beq_false_of_ne h]

/-- Bit k of a lane's element, as RANK and MPOPC read it. -/
theorem testBit_look (vs : List (Nat × Nat)) (l k : Nat) :
    ((vs.find? fun p => p.1 == l).map fun p => p.2.testBit k).getD false = ((NMap.look vs l).getD 0).testBit k := by
  rw [look_eq_find?]
  cases vs.find? fun p => p.1 == l <;> simp

theorem countP_range_of_le {p : Nat → Bool} {m k : Nat} (h : m ≤ k) (hp : ∀ j, m ≤ j → p j = false) :
    (List.range k).countP p = (List.range m).countP p := by
  obtain ⟨d, rfl⟩ := Nat.exists_eq_add_of_le h
  rw [List.range_add, List.countP_append, List.countP_map, Nat.add_eq_left, List.countP_eq_zero]
  intro j _
  simp [hp]

/-- Counting the set bits of a 32-bit number below lane l (R280). -/
theorem popCount_mod_two_pow {v : Nat} (hv : v < 2 ^ 32) (l : Nat) : popCount 32 (v % 2 ^ l) = (List.range l).countP v.testBit := by
  have hcount : popCount 32 (v % 2 ^ l) = (List.range 32).countP fun k => decide (k < l) && v.testBit k := by
    simp only [popCount, bit_eq_testBit, Nat.testBit_mod_two_pow, List.countP_eq_length_filter]
  have hhigh (k : Nat) (hk : 32 ≤ k) : v.testBit k = false :=
    Nat.testBit_lt_two_pow (Nat.lt_of_lt_of_le hv (Nat.pow_le_pow_right (by decide) hk))
  have hlow : (List.range l).countP v.testBit = (List.range l).countP fun k => decide (k < l) && v.testBit k :=
    List.countP_congr fun k hk => by simp [List.mem_range.1 hk]
  rw [hcount, hlow]
  rcases Nat.le_total l 32 with h | h
  · exact countP_range_of_le h fun k hk => by simp [Nat.not_lt.2 hk]
  · exact (countP_range_of_le h fun k hk => by simp [hhigh k hk]).symm

theorem look_getD_lt {vs : List (Nat × Nat)} {b : Nat} (hb : 0 < b) (h : ∀ p ∈ vs, p.2 < b) (l : Nat) :
    (NMap.look vs l).getD 0 < b := by
  cases e : NMap.look vs l with
  | none => exact hb
  | some v => exact h _ (NMap.mem_of_look e)

/-! The vote of each instruction, as the model makes it. -/

theorem voteOp_ballot (w : BitVec 2) (d a : BitVec 7) :
    VoteOp (.ballot w d a) (elemBits w) fun vs _ => lanesWhere vs (· != 0) := .of_elemBits (fun _ => rfl) rfl

theorem voteOp_lanesAll (w : BitVec 2) (d a : BitVec 7) :
    VoteOp (.lanesAll w d a) (elemBits w) fun vs _ => if vs.all fun p => p.2 != 0 then 1 else 0 := .of_elemBits (fun _ => rfl) rfl

theorem voteOp_lanesAny (w : BitVec 2) (d a : BitVec 7) :
    VoteOp (.lanesAny w d a) (elemBits w) fun vs _ => if vs.any fun p => p.2 != 0 then 1 else 0 := .of_elemBits (fun _ => rfl) rfl

theorem voteOp_peers (w : BitVec 2) (d a : BitVec 7) :
    VoteOp (.peers w d a) (elemBits w) fun vs l => lanesWhere vs fun v => some v == NMap.look vs l := .of_elemBits (fun _ => rfl) rfl

theorem voteOp_rank (d a : BitVec 7) :
    VoteOp (.rank d a) 32 fun vs l => popCount 32 (((NMap.look vs l).getD 0) % 2 ^ l) := .of_32 fun _ => rfl

theorem voteOp_mpopc (d a : BitVec 7) :
    VoteOp (.mpopc d a) 32 fun vs l => popCount 32 ((NMap.look vs l).getD 0) := .of_32 fun _ => rfl

/-- Settles O17: each instruction is a vote over its lanes' elements, and its model's result of a lane is the reference's. -/
theorem votes : Obligations.Votes := by
  unfold Obligations.Votes
  intro i n f o h ho
  unfold voteOf at h
  split at h <;> cases h
  · exact (voteOp_ballot ..).completes ho fun vs _ l => by simp [ofNat_lanesWhere]
  · exact (voteOp_lanesAll ..).completes ho fun vs _ l => by
      simp only [List.all_eq_true, bne_iff_ne]
      split <;> rfl
  · exact (voteOp_lanesAny ..).completes ho fun vs _ l => by
      simp only [List.any_eq_true, bne_iff_ne]
      split <;> rfl
  · exact (voteOp_peers ..).completes ho fun vs _ l => by
      rw [ofNat_lanesWhere]
      simp only [beq_iff_eq, eq_comm (a := some _)]
  · exact (voteOp_rank ..).completes ho fun vs hvs l => by
      simp only [testBit_look]
      rw [popCount_mod_two_pow (look_getD_lt (by decide) hvs l)]
  · exact (voteOp_mpopc ..).completes ho fun vs _ l => by
      simp only [testBit_look, popCount, bit_eq_testBit, List.countP_eq_length_filter]

end Sys2Proof.Machine
end
